-- ==== Sys2Proof/Word.lean ====
section
/-! DEFINITION. The word types of the D8 and their plainest arithmetic (R2, R3, R6). -/

namespace Sys2Proof

/-- One byte of memory. -/
abbrev Byte := BitVec 8
/-- A 32-bit word: an instruction word (R144) or one lane of a vector register (R61). -/
abbrev Word := BitVec 32
/-- A 64-bit value: a scalar register (R61). -/
abbrev Dword := BitVec 64

/-- A register number as an instruction field holds it (R147). -/
abbrev Reg := BitVec 6

/-- Association lists: the model's tables with sparse keys. -/
abbrev Map (κ α : Type) := List (κ × α)

/-- The entry of key `k`, when there is one. -/
def Map.find {κ α : Type} [DecidableEq κ] (k : κ) : Map κ α → Option α
  | [] => none
  | (j, x) :: m => if j = k then some x else Map.find k m

/-- `m` with `x` at `k`; every other key keeps its entry. -/
def Map.put {κ α : Type} [DecidableEq κ] (k : κ) (x : α) : Map κ α → Map κ α
  | [] => [(k, x)]
  | (j, y) :: m => if j = k then (k, x) :: m else (j, y) :: Map.put k x m

/-- `m` without the entry of `k`. -/
def Map.drop {κ α : Type} [DecidableEq κ] (k : κ) : Map κ α → Map κ α
  | [] => []
  | (j, y) :: m => if j = k then Map.drop k m else (j, y) :: Map.drop k m

end Sys2Proof
end

