-- ==== Sys2Proof/Config.lean ====
section
/-! DEFINITION. What an implementation fixes and the values that the spec leaves open. A free value is an opaque
constant: no proof sees it, so every statement holds whatever it is. Each is named in the assumption log. -/

namespace Sys2Proof.Config

/-- The cycles that the `n`-th operation whose time depends on memory takes, less one (R402). -/
opaque latency : Nat → Nat

/-- The nanoseconds by which device time moves in the `n`-th cycle (R255, R330). -/
opaque tickNs : Nat → Nat

/-- Whether a translation that was cached is still cached at its `n`-th use (R143). -/
opaque tlbKept : Nat → Bool

/-- The value that the spec leaves open at its `n`-th occurrence, in a 64-bit register. -/
opaque freeDword : Nat → BitVec 64

/-- The word that the spec leaves open at its `n`-th occurrence. -/
opaque freeWord : Nat → BitVec 32

/-- The `n`-th choice among equals that the spec leaves open: a free nest slot, resume slot, post entry. -/
opaque pick : Nat → Nat

/-- The `n`-th page frame, by number, that Proscenium takes for a stage-2 table or mapping (R358, R359). -/
opaque frame : Nat → Nat

/-- The bytes by which counter 32 + k of a tenant grows with its `n`-th access that the L2 slices serve, for k = 2 and 3: what moves
between the slices and memory depends on what the slices hold (R299). -/
opaque traffic : Nat → Nat → Nat

/-- The pair of partial values that a reduction combines in its `n`-th step (R313). -/
opaque collPair : Nat → Nat

/-- COLLTO in milliseconds, as Proscenium has set it at boot (R370). -/
opaque collTo : Nat

/-- The secret number of an ECDSA signature over a message (R321, R322). -/
opaque signNonce : List Byte → Nat

/-- The seed fused into the secure element (R321). -/
opaque fusedSeed : List Byte

/-- The fused digest of the boot ROM (R320). -/
opaque bootRomDigest : BitVec 384

/-- Goruth's verifying key, x then y, whose digest is fused (R319). -/
opaque goruthKey : List Byte

/-- The fused digest of Goruth's key (R319). -/
opaque goruthKeyDigest : BitVec 384

/-- What the `n`-th ephemeral private scalar of the secure element is drawn from (R322, R326). -/
opaque ephemeral : Nat → Nat

/-- The place of the module's certificate chain in flash: offset and length (R321). -/
opaque certificatePlace : Nat × Nat

/-- Proscenium's boot configuration, which MEAS6 measures (R320). -/
opaque bootConfiguration : List Byte

/-- The 64-byte partition configuration record of a tenant, of the parts that R323 names: the spec gives its
contents and not its layout. -/
opaque partitionRecord : List Nat → List (List Byte) → BitVec 512

/-- The current limit, in amperes, that Proscenium wants for a block, within what its rail still has (R331, R332). -/
opaque currentLimit : Nat → Nat

/-- What a sensor has measured by the `n`-th cycle: its register's value (R333). -/
opaque sensed : Nat → Nat → BitVec 64

/-- The phase in which the manager of a block skips cycles, and whether it skips a cycle that di/dt lets it skip (R332). -/
opaque skipPhase : Nat → Nat
opaque didtSkips : Nat → Nat → Bool

/-- Whether the home slice of a line holds it in the `n`-th cycle, so that no controller takes part in an access (R27, R332). -/
opaque l2Holds : Nat → Nat → Bool

/-- Whether a bandwidth limiter holds a request of a point in the `n`-th cycle, by the point's first troupe (R302). -/
opaque limited : Nat → Nat → Bool

/-- The identity and firmware-state words of the management space, of the recovery flag, the identity digest, the firmware measurement
and the count of failed boots: the spec names their contents and not their places (R319, R334). -/
opaque identityWord : Nat → Bool → List (List Byte) → Nat → BitVec 64

/-- The secret of the secured session with the counter authority, of the boot in which it is set up (R326). -/
opaque authoritySecret : Nat → List Byte

/-- What an SPDM request of the secure element to a target holds (R326). -/
opaque spdmRequest : List Byte → List Byte

/-- The energy coefficient C_a, in units of 2^-32 µJ per event (R300). -/
opaque energyCoefficient : Nat → Nat

/-- The share of an image's components in a parsed component table: the offset, length and digest of component `k`
of a header (R319 names the fields and not their places). -/
opaque componentEntry : List Byte → Nat → Nat × Nat × BitVec 384

/-- The SIZE field of the fault record of a word that faults as a whole and names no access size (R250, R403). -/
opaque wholeSize : Nat → BitVec 4

/-- The MAJ field of the fault record of an access that no word of the ISA makes, and the POS field of a copy's (R250, R359,
R404). -/
opaque recordMajor : Nat → BitVec 8
opaque recordPos : Nat → BitVec 32

/-- Whether Proscenium can repair the stage-2 translation of its `n`-th fault (R358, R359, R404). -/
opaque repairs : Nat → Bool

/-- The number of components that a header's table holds (R319). -/
opaque componentCount : List Byte → Nat

/-- The length of the header at the start of an image, of the first 4 KiB (R319). -/
opaque headerLength : List Byte → Nat

/-- Whether the `n`-th boot goes on to step 5, once the image has been checked (R319, R378). -/
opaque bootReaches : Nat → Bool

/-- A byte of an erased flash sector (R378). -/
opaque erasedByte : BitVec 8

/-- The endpoint of the counter authority (R326, R373). -/
opaque authorityEndpoint : Nat

/-- What an SPDM response holds beside what R322 states: by message and operands. -/
opaque spdmResponse : Nat → List Byte → List Byte

/-- The MAC of a FINISH message, of the session's shared secret and the requester's key (R322). -/
opaque finishMac : List Byte → List Byte → List Byte

/-- The key and nonce of the `n`-th message of an SPDM session in a direction, 0 to the module and 1 from it, of the session's
shared secret: the spec does not give SPDM's key schedule (R322). -/
opaque sessionKey : List Byte → Nat → Nat → BitVec 352

/-- The byte that memory reads before anything has written it (log entry 3). -/
def unlisted : Byte := 0#8

end Sys2Proof.Config
end

