-- ==== Sys2Proof/Machine/Crypto.lean ====
section
/-! DEFINITION. The cryptographic functions that R319 to R327 name, as the standards that the names stand for define them (log
entry 76): SHA-384 (FIPS 180-4), HMAC and HKDF (RFC 2104, RFC 5869), ECDSA and ECDH over P-384 (FIPS 186, SP 800-56A) and
AES-256-GCM (FIPS 197, SP 800-38D). A value of the wrong length is cut or filled with zero bytes. -/

namespace Sys2Proof.Machine

/-! ### Bytes -/

/-- A number from big-endian bytes. -/
def beNat (bs : List Byte) : Nat := bs.foldl (fun n b => 256 * n + b.toNat) 0

/-- The `n` big-endian bytes of a number. -/
def beBytes (n x : Nat) : List Byte := (List.range n).map (fun k => BitVec.ofNat 8 (x / 256 ^ (n - 1 - k)))

/-- The bytes of an ASCII text. -/
def ascii (t : String) : List Byte := t.toList.map (fun c => BitVec.ofNat 8 c.toNat)

/-- The first `n` bytes, filled up with zero bytes. -/
def fit (n : Nat) (bs : List Byte) : List Byte := (bs ++ List.replicate n 0#8).take n

/-- The parts of `n` bytes each, with fuel for them; the last may be shorter. -/
def pieces (n : Nat) : Nat → List Byte → List (List Byte)
  | 0, _ => []
  | k + 1, bs => if bs = [] then [] else bs.take n :: pieces n k (bs.drop n)

/-- The exclusive or of two byte lists. -/
def xorBytes (a b : List Byte) : List Byte := List.zipWith (· ^^^ ·) a b

/-! ### SHA-384 -/

/-- The largest number below 2^`b` above `r` whose `k`-th power does not pass `n`: bit by bit. -/
def rootBelow (k n : Nat) : Nat → Nat → Nat
  | 0, r => r
  | b + 1, r => rootBelow k n b (if (r + 2 ^ b) ^ k ≤ n then r + 2 ^ b else r)

/-- The first eighty primes. -/
def shaPrimes : List Nat := (List.range 410).filter (fun n => decide (2 ≤ n) && (List.range n).all (fun d => decide (d < 2) || decide (n % d ≠ 0)))

/-- The first 64 bits of the fractions of their cube roots. -/
def shaK : List (BitVec 64) := shaPrimes.map (fun p => BitVec.ofNat 64 (rootBelow 3 (p * 2 ^ 192) 67 0))

/-- The initial value: the same of the square roots of the ninth to the sixteenth. -/
def shaStart : List (BitVec 64) := ((shaPrimes.drop 8).take 8).map (fun p => BitVec.ofNat 64 (rootBelow 2 (p * 2 ^ 128) 67 0))

/-- The 80 words of a block's schedule, the last first. -/
def shaSchedule (block : List Byte) : List (BitVec 64) :=
  (List.range 64).foldl (fun ws _ =>
    let w (k : Nat) : BitVec 64 := ws.getD (k - 1) 0
    let s0 (x : BitVec 64) : BitVec 64 := x.rotateRight 1 ^^^ x.rotateRight 8 ^^^ (x >>> 7)
    let s1 (x : BitVec 64) : BitVec 64 := x.rotateRight 19 ^^^ x.rotateRight 61 ^^^ (x >>> 6)
    (s1 (w 2) + w 7 + s0 (w 15) + w 16) :: ws) ((pieces 8 16 block).map (fun b => BitVec.ofNat 64 (beNat b))).reverse

/-- One round. -/
def shaRound (h : List (BitVec 64)) (kw : BitVec 64 × BitVec 64) : List (BitVec 64) :=
  let x (k : Nat) : BitVec 64 := h.getD k 0
  let a := x 0
  let e := x 4
  let t1 := x 7 + (e.rotateRight 14 ^^^ e.rotateRight 18 ^^^ e.rotateRight 41) + ((e &&& x 5) ^^^ (~~~e &&& x 6)) + kw.1 + kw.2
  let t2 := (a.rotateRight 28 ^^^ a.rotateRight 34 ^^^ a.rotateRight 39) + ((a &&& x 1) ^^^ (a &&& x 2) ^^^ (x 1 &&& x 2))
  [t1 + t2, a, x 1, x 2, x 3 + t1, e, x 5, x 6]

/-- One block. -/
def shaBlock (h : List (BitVec 64)) (block : List Byte) : List (BitVec 64) :=
  List.zipWith (· + ·) h ((shaK.zip (shaSchedule block).reverse).foldl shaRound h)

/-- A message with its padding. -/
def shaPad (m : List Byte) : List Byte := m ++ 0x80#8 :: List.replicate ((239 - m.length % 128) % 128) 0#8 ++ beBytes 16 (8 * m.length)

/-- SHA-384: 48 bytes. -/
@[irreducible] def sha384 (m : List Byte) : List Byte :=
  fit 48 (((pieces 128 (m.length / 128 + 2) (shaPad m)).foldl shaBlock shaStart).flatMap (fun x => beBytes 8 x.toNat))

/-! ### HMAC and HKDF -/

/-- HMAC-SHA-384. -/
def hmac384 (key m : List Byte) : List Byte :=
  let k := fit 128 (if 128 < key.length then sha384 key else key)
  let pad (b : Byte) : List Byte := k.map (fun x => x ^^^ b)
  sha384 (pad 0x5C ++ sha384 (pad 0x36 ++ m))

/-- The blocks of HKDF's expansion, of the block before and the block number, with fuel for them. -/
def hkdfBlocks (prk info : List Byte) : Nat → Nat → List Byte → List Byte
  | 0, _, _ => []
  | n + 1, k, t =>
    let t1 := hmac384 prk (t ++ info ++ [BitVec.ofNat 8 k])
    t1 ++ hkdfBlocks prk info n (k + 1) t1

/-- HKDF-SHA-384 of salt, input key material, info and output length. -/
@[irreducible] def hkdf (salt ikm info : List Byte) (len : Nat) : List Byte := fit len (hkdfBlocks (hmac384 salt ikm) info ((len + 47) / 48) 1 [])

/-! ### P-384 -/

/-- The prime of the field. -/
def p384 : Nat := 2 ^ 384 - 2 ^ 128 - 2 ^ 96 + 2 ^ 32 - 1
/-- The curve's b, in y² = x³ − 3x + b. -/
def p384B : Nat := 0xB3312FA7E23EE7E4988E056BE3F82D19181D9C6EFE8141120314088F5013875AC656398D8A2ED19D2A85C8EDD3EC2AEF
/-- The order of the group (R321). -/
def p384Order : Nat := 0xFFFFFFFFFFFFFFFFFFFFFFFFFFFFFFFFFFFFFFFFFFFFFFFFC7634D81F4372DDF581A0DB248B0A77AECEC196ACCC52973
/-- The base point. -/
def p384Base : Nat × Nat :=
  (0xAA87CA22BE8B05378EB1C71EF320AD746E1D3B628BA79B9859F741E082542A385502F25DBF55296C3A545E3872760AB7,
   0x3617DE4A96262C6F5D9E98BF9292DC29F8F41DBD289A147CE9DA3113B5F0B8C00A60B1CE1D7E819D7A431D7C90EA0E5F)

/-- A power modulo `m`, of an exponent of at most the given number of bits. -/
def powMod (m : Nat) : Nat → Nat → Nat → Nat
  | 0, _, _ => 1 % m
  | n + 1, b, e => let r := powMod m n (b * b % m) (e / 2); if e % 2 = 1 then b * r % m else r

/-- The inverse modulo a prime of 384 bits. -/
def invMod (m x : Nat) : Nat := powMod m 384 (x % m) (m - 2)

/-- The sum of two points; nothing is the point at infinity. -/
def ecAdd : Option (Nat × Nat) → Option (Nat × Nat) → Option (Nat × Nat)
  | none, q => q
  | p, none => p
  | some p, some q =>
    if p.1 = q.1 ∧ (p.2 + q.2) % p384 = 0 then none
    else
      let l := if p = q then (3 * p.1 * p.1 + (p384 - 3)) * invMod p384 (2 * p.2) % p384
               else (q.2 + (p384 - p.2)) * invMod p384 (q.1 + (p384 - p.1)) % p384
      let x := (l * l + (p384 - p.1) + (p384 - q.1)) % p384
      some (x, (l * (p.1 + (p384 - x)) + (p384 - p.2)) % p384)

/-- A multiple of a point, by a scalar of at most the given number of bits. -/
def ecMul : Nat → Nat → Option (Nat × Nat) → Option (Nat × Nat)
  | 0, _, _ => none
  | n + 1, k, p => let r := ecMul n (k / 2) (ecAdd p p); if k % 2 = 1 then ecAdd p r else r

/-- The bytes of a point: x then y, big-endian. -/
def pointBytes (p : Option (Nat × Nat)) : List Byte := match p with | some q => beBytes 48 q.1 ++ beBytes 48 q.2 | none => List.replicate 96 0#8

/-- A point from its bytes, when it lies on the curve. -/
def pointFrom (bs : List Byte) : Option (Nat × Nat) :=
  let x := beNat (bs.take 48)
  let y := beNat (bs.drop 48)
  if bs.length = 96 ∧ x < p384 ∧ y < p384 ∧ y * y % p384 = (x * x * x + (p384 - 3) * x + p384B) % p384 then some (x, y) else none

/-- The public key of a private scalar: x then y (R321, R324). -/
@[irreducible] def p384Public (d : Nat) : List Byte := pointBytes (ecMul 384 d (some p384Base))

/-- The x-coordinate of an ECDH, 48 bytes; nothing when the peer's key is no point of the curve (R322, R325). A scalar below the order
and a point of the curve never give the point at infinity. -/
@[irreducible] def ecdhX (d : Nat) (peer : List Byte) : Option (List Byte) :=
  (pointFrom peer).map (fun p => beBytes 48 ((ecMul 384 d (some p)).getD (0, 0)).1)

/-- An ECDSA P-384 signature with SHA-384, r then s, by a private scalar and the signer's secret number (R321, R322). -/
@[irreducible] def ecdsaSign (d k : Nat) (m : List Byte) : List Byte :=
  let r := ((ecMul 384 k (some p384Base)).getD (0, 0)).1 % p384Order
  beBytes 48 r ++ beBytes 48 (invMod p384Order k * (beNat (sha384 m) + r * d) % p384Order)

/-- The check of such a signature: key, message, signature (R319, R326). -/
@[irreducible] def ecdsaVerify (key m sig : List Byte) : Bool :=
  let r := beNat (sig.take 48)
  let s := beNat (sig.drop 48)
  match pointFrom key with
  | none => false
  | some q =>
    let w := invMod p384Order s
    let at_ := ecAdd (ecMul 384 (beNat (sha384 m) * w % p384Order) (some p384Base)) (ecMul 384 (r * w % p384Order) (some q))
    decide (sig.length = 96) && decide (0 < r) && decide (r < p384Order) && decide (0 < s) && decide (s < p384Order) &&
      (match at_ with | some p => decide (p.1 % p384Order = r) | none => false)

/-! ### AES-256-GCM -/

/-- A product in the field of AES, with fuel for the bits of the second factor. -/
def aesMul : Nat → Byte → Byte → Byte
  | 0, _, _ => 0
  | n + 1, a, b => (if b.getLsbD 0 then a else 0) ^^^ aesMul n ((a <<< 1) ^^^ (if a.getLsbD 7 then 0x1B else 0)) (b >>> 1)

/-- The substitution of AES: the inverse, as the 254th power, and the affine map. -/
def aesSub (x : Byte) : Byte :=
  let m := aesMul 8
  let x2 := m x x
  let x3 := m x2 x
  let x12 := m (m x3 x3) (m x3 x3)
  let x15 := m x12 x3
  let x240 := (List.range 4).foldl (fun y _ => m y y) x15
  let i := m x240 (m x12 x2)
  i ^^^ i.rotateLeft 1 ^^^ i.rotateLeft 2 ^^^ i.rotateLeft 3 ^^^ i.rotateLeft 4 ^^^ 0x63

/-- What the word eight back is combined with, for the word `k` after `t`. -/
def aesTemp (k : Nat) (t : List Byte) : List Byte :=
  if k % 8 = 0 then xorBytes ((t.drop 1 ++ t.take 1).map aesSub) [(List.range (k / 8 - 1)).foldl (fun (c : Byte) _ => aesMul 8 c 2) 1, 0, 0, 0]
  else if k % 8 = 4 then t.map aesSub else t

/-- The words with one more in front. -/
def aesNext (ws : List (List Byte)) (n : Nat) : List (List Byte) := xorBytes (ws.getD 7 []) (aesTemp (n + 8) (ws.headD [])) :: ws

/-- The words of the key schedule of AES-256, the last first. -/
def aesSchedule (key : List Byte) : List (List Byte) := (List.range 52).foldl aesNext (pieces 4 8 (fit 32 key)).reverse

/-- ShiftRows, on the bytes of a block in their order. -/
def aesShift (b : List Byte) : List Byte := (List.range 16).map (fun k => b.getD ((k + 4 * (k % 4)) % 16) 0)

/-- MixColumns. -/
def aesMix (b : List Byte) : List Byte :=
  (List.range 16).map (fun k =>
    let x (j : Nat) : Byte := b.getD (k / 4 * 4 + (k + j) % 4) 0
    aesMul 8 (x 0) 2 ^^^ aesMul 8 (x 1) 3 ^^^ x 2 ^^^ x 3)

/-- AES-256 of one block, with the words of the schedule. -/
def aesBlock (ws : List (List Byte)) (b : List Byte) : List Byte :=
  let key (r : Nat) : List Byte := ((ws.drop (4 * r)).take 4).flatten
  let x := (List.range 13).foldl (fun y r => xorBytes (aesMix (aesShift (y.map aesSub))) (key (r + 1))) (xorBytes b (key 0))
  xorBytes (aesShift (x.map aesSub)) (key 14)

/-- A product in the field of GHASH, with fuel for the bits of the first factor, whose first bit is the highest. -/
def ghashMul : Nat → BitVec 128 → BitVec 128 → BitVec 128
  | 0, _, _ => 0
  | n + 1, x, v => (if x.getLsbD 127 then v else 0) ^^^ ghashMul n (x <<< 1) ((v >>> 1) ^^^ (if v.getLsbD 0 then 0xE1#128 <<< 120 else 0))

/-- GHASH of bytes that are filled up to whole blocks. -/
def ghash (h : BitVec 128) (bs : List Byte) (y : BitVec 128) : BitVec 128 :=
  (pieces 16 (bs.length + 1) bs).foldl (fun z b => ghashMul 128 (z ^^^ BitVec.ofNat 128 (beNat (fit 16 b))) h) y

/-- The key stream of GCM applied to bytes, from counter 2 on. -/
def gcmStream (ws : List (List Byte)) (nonce bs : List Byte) : List Byte :=
  ((pieces 16 (bs.length + 1) bs).zipIdx 2).flatMap (fun (e : List Byte × Nat) => xorBytes e.1 (aesBlock ws (fit 12 nonce ++ beBytes 4 e.2)))

/-- The tag of GCM. -/
def gcmTag (ws : List (List Byte)) (nonce aad ct : List Byte) : List Byte :=
  let h := BitVec.ofNat 128 (beNat (aesBlock ws (List.replicate 16 0#8)))
  let y := ghash h (beBytes 8 (8 * aad.length) ++ beBytes 8 (8 * ct.length)) (ghash h ct (ghash h aad 0))
  fit 16 (xorBytes (beBytes 16 y.toNat) (aesBlock ws (fit 12 nonce ++ beBytes 4 1)))

/-- AES-256-GCM encryption: key, nonce, additional data, plaintext; ciphertext and tag (R325). -/
@[irreducible] def gcmSeal (key nonce aad pt : List Byte) : List Byte × List Byte :=
  let ws := (aesSchedule key).reverse
  let ct := gcmStream ws nonce pt
  (ct, gcmTag ws nonce aad ct)

/-- AES-256-GCM decryption: key, nonce, additional data, ciphertext, tag; nothing when the tag is wrong (R327). -/
@[irreducible] def gcmOpen (key nonce aad ct tag : List Byte) : Option (List Byte) :=
  let ws := (aesSchedule key).reverse
  if gcmTag ws nonce aad ct = tag then some (gcmStream ws nonce ct) else none

end Sys2Proof.Machine
end

