-- ==== Sys2Proof/Syntax.lean ====
section
/-! DEFINITION. The steps of the D8: one constructor of `Instr` for each row of spec/opcode_table.json.
Rows with an encoding are instruction words of the cast, the cue stream, the Callboard cores (R150 to R153) and
the stagehands (R263); the other rows are events of the device's engines, the host, the fabric and the module
(spec/95_what_each_step_holds.md). A word's C and STALL bits frame it (R144, R145); they are no part of `Instr`.
An event's row has no fields; its operands are data of the state (`Machine.Event`), named in its docstring here. -/

namespace Sys2Proof

/-- The units that execute instructions (R126, R155). Coordinates are physical: core number (R20), quadrant and
local cast index (R26). A cue stream is named by its troupe's rank-0 quadrant (R25). -/
inductive UnitId where
  | cast (core quad loc : Nat)
  | cue (core quad : Nat)
  | board (vdi queue : Nat)
  | rigger (core quad : Nat)
  | striker (core quad : Nat)
  deriving DecidableEq, Repr, Inhabited

/-- Conditions of the RV32I branches (R260). -/
inductive RvBr where
  | beq | bne | blt | bge | bltu | bgeu
  deriving DecidableEq, Repr

/-- RV32I loads (R260). -/
inductive RvLd where
  | lb | lh | lw | lbu | lhu
  deriving DecidableEq, Repr

/-- RV32I stores (R260). -/
inductive RvSt where
  | sb | sh | sw
  deriving DecidableEq, Repr

/-- RV32I register and immediate arithmetic (R260). -/
inductive RvAlu where
  | add | sub | sll | slt | sltu | xor | srl | sra | or | and
  deriving DecidableEq, Repr

/-- The M extension (R260). -/
inductive RvMul where
  | mul | mulh | mulhsu | mulhu | div | divu | rem | remu
  deriving DecidableEq, Repr

/-- Zicsr operations (R260). -/
inductive RvCsr where
  | rw | rs | rc | rwi | rsi | rci
  deriving DecidableEq, Repr

/-- A standard instruction of a stagehand after expansion of its compressed form (R260). -/
inductive Rv where
  | lui (rd : BitVec 5) (imm : Word)
  | auipc (rd : BitVec 5) (imm : Word)
  | jal (rd : BitVec 5) (off : Word)
  | jalr (rd rs1 : BitVec 5) (off : Word)
  | br (c : RvBr) (rs1 rs2 : BitVec 5) (off : Word)
  | ld (o : RvLd) (rd rs1 : BitVec 5) (off : Word)
  | st (o : RvSt) (rs1 rs2 : BitVec 5) (off : Word)
  | opi (o : RvAlu) (rd rs1 : BitVec 5) (imm : Word)
  | op (o : RvAlu) (rd rs1 rs2 : BitVec 5)
  | md (o : RvMul) (rd rs1 rs2 : BitVec 5)
  | fence
  | fenceI
  | ebreak
  | csr (o : RvCsr) (rd src : BitVec 5) (num : BitVec 12)
  | illegal
  deriving DecidableEq, Repr

/-- A place where an uncorrectable or correctable error can fall (R360): a memory line by its address, a scratchpad
word by its device-wide address, a scalar register, a vector register's lane as 32 × register + lane, a word of a
troupe's matrix state: store 0 the cells, 1 + n slot n, 17 the active plane, 18 the shadow plane; index row × 128 +
column. -/
inductive ErrPlace where
  | line (pa : Nat)
  | scratch (addr : Nat)
  | sreg (u : UnitId) (r : Nat)
  | vreg (u : UnitId) (r : Nat)
  | matrix (troupe store index : Nat)
  /-- A word of the tenant's code. -/
  | code (vdi pos : Nat)
  /-- A word of a macro in a quadrant's control store. -/
  | control (quad macroNumber word : Nat)
  | tx (u : UnitId) (n : Nat)
  | handle (u : UnitId) (h field : Nat)
  /-- A word of a stagehand's data store. -/
  | store (u : UnitId) (n : Nat)
  /-- A word of a stagehand's instruction store, and an x register. -/
  | instr (u : UnitId) (n : Nat)
  | xreg (u : UnitId) (n : Nat)
  /-- A line in a quadrant's store coalescing buffer, and one that its Usher is filling. -/
  | buffer (quad line : Nat)
  | fill (quad line : Nat)
  /-- A ring of a troupe, and its barrier state. -/
  | ring (troupe n : Nat)
  | barrier (troupe : Nat)
  /-- The L2 staging of a running collective. -/
  | staging (entry : Nat)
  deriving DecidableEq, Repr

/-- One Fenpin flit (R317). -/
structure Flit where
  dst : BitVec 20
  src : BitVec 20
  gen : BitVec 8
  type : BitVec 4
  len : BitVec 12
  seq : BitVec 16
  ctx : BitVec 48
  payload : List Byte
  deriving DecidableEq, Repr

/-- A body entry of a loaded image with its ring table, RDESC0 to RDESC15 (R389, R398). -/
structure BodyRings where
  cent : Nat
  rdesc : List Dword
  deriving DecidableEq, Repr

/-- What Proscenium's loader brings when it creates a tenant (R272, R323, R399). -/
structure TenantImage where
  vdi : Nat
  tenant : Dword
  /-- Rectangle of cores: lowest x, lowest y, width, height (R286). -/
  x0 : Nat
  y0 : Nat
  w : Nat
  h : Nat
  /-- Quadrant set of every core of the rectangle (R286). -/
  quads : List Nat
  nestSlots : Nat
  semBase : Nat
  semShare : Nat
  binBase : Nat
  binShare : Nat
  pctShare : Nat
  /-- Kind of each queue in the configuration record: true for copy (R272, R323). -/
  queues : List Bool
  policy : List (List Byte)
  code : List Byte
  stagehandCode : List Byte
  stagehandData : List Byte
  /-- Data and zero-fill sections by virtual address; relocations: section, offset, value (R398, R399). -/
  data : List (Nat × List Byte)
  relocs : List (Nat × Nat × Dword)
  /-- What Proscenium lays out in physical memory for the tenant: its translation tables (R292). -/
  memory : List (Nat × List Byte)
  bodies : List BodyRings
  xmin : Int
  xmax : Int
  ymin : Int
  ymax : Int
  gangMax : Nat
  sptr : Dword
  hptr : Dword
  plnext : Dword
  plend : Dword
  stvec : Dword
  htvec : Dword
  cctl : Word
  wdlim : Nat
  saveBase : Nat
  resumeBase : Nat
  reserve : Nat
  /-- The member's endpoint, and its entries of the group table: group, home switch, index (R303). -/
  endpoint : Nat
  groups : List (Nat × Nat × Nat)
  /-- Code objects of length 0 that the image holds (R323, R397). -/
  emptyObjects : List Nat := []
  /-- Where Proscenium lays packet 0 of the code in the tenant's virtual space, when it does: fetches are then translated (R123, R352;
  log entry 17). -/
  codeVa : Option Nat := none
  /-- The bytes of the object image, when they are given: the loader reads code, data, symbols, relocations, bodies and offsets from them
  (R396 to R398). -/
  object : List Byte := []
  /-- The virtual address at which the loader places each section of the object image (R399). -/
  sectVa : List Nat := []
  deriving DecidableEq, Repr

/-- The steps of the D8: one constructor for each row of spec/opcode_table.json, documented by the row's own
summary and rule. Constructors with arguments come first. -/
inductive Instr where
  /-- Holds the path for n further cycles. (R163) -/
  | stall (n : BitVec 12)
  /-- Writes a sign-extended 16-bit immediate to a scalar register. (R164) -/
  | movi (d : Reg) (i : BitVec 16)
  /-- Replaces bits 31:16 of d with the immediate and sign-extends from bit 31. (R164) -/
  | movhi (d : Reg) (i : BitVec 16)
  /-- Writes the sign-extended 32-bit immediate taken from the following word. (R165) -/
  | limmI32 (d : Reg) (imm : Word)
  /-- Writes the zero-extended 32-bit immediate taken from the following word. (R165) -/
  | limmN32 (d : Reg) (imm : Word)
  /-- Writes the 64-bit sum to d and the carry to cf. (R166) -/
  | add (d : Reg) (a : Reg) (b : Reg)
  /-- Writes the 64-bit difference to d and the borrow to cf. (R166) -/
  | sub (d : Reg) (a : Reg) (b : Reg)
  /-- Writes the bitwise and. (R166) -/
  | and (d : Reg) (a : Reg) (b : Reg)
  /-- Writes the bitwise or. (R166) -/
  | or (d : Reg) (a : Reg) (b : Reg)
  /-- Writes the bitwise exclusive or. (R166) -/
  | xor (d : Reg) (a : Reg) (b : Reg)
  /-- Writes a and not b. (R166) -/
  | andn (d : Reg) (a : Reg) (b : Reg)
  /-- Shifts left by b[5:0]. (R166) -/
  | shl (d : Reg) (a : Reg) (b : Reg)
  /-- Shifts right logically by b[5:0]. (R166) -/
  | shr (d : Reg) (a : Reg) (b : Reg)
  /-- Shifts right arithmetically by b[5:0]. (R166) -/
  | sra (d : Reg) (a : Reg) (b : Reg)
  /-- Rotates left by b[5:0]. (R166) -/
  | rotl (d : Reg) (a : Reg) (b : Reg)
  /-- Writes the signed lesser value. (R166) -/
  | min (d : Reg) (a : Reg) (b : Reg)
  /-- Writes the signed greater value. (R166) -/
  | max (d : Reg) (a : Reg) (b : Reg)
  /-- Writes the unsigned lesser value. (R166) -/
  | minu (d : Reg) (a : Reg) (b : Reg)
  /-- Writes the unsigned greater value. (R166) -/
  | maxu (d : Reg) (a : Reg) (b : Reg)
  /-- Adds with carry in and writes carry out to cf. (R166) -/
  | addc (d : Reg) (a : Reg) (b : Reg)
  /-- Subtracts with borrow in and writes borrow out to cf. (R166) -/
  | subc (d : Reg) (a : Reg) (b : Reg)
  /-- Adds a sign-extended 6-bit immediate and sets cf. (R166) -/
  | addImm (d : Reg) (a : Reg) (i : BitVec 6)
  /-- Subtracts a sign-extended 6-bit immediate and sets cf. (R166) -/
  | subImm (d : Reg) (a : Reg) (i : BitVec 6)
  /-- Ands with a sign-extended immediate. (R166) -/
  | andImm (d : Reg) (a : Reg) (i : BitVec 6)
  /-- Ors with a sign-extended immediate. (R166) -/
  | orImm (d : Reg) (a : Reg) (i : BitVec 6)
  /-- Exclusive-ors with a sign-extended immediate. (R166) -/
  | xorImm (d : Reg) (a : Reg) (i : BitVec 6)
  /-- Ands with the complement of a sign-extended immediate. (R166) -/
  | andnImm (d : Reg) (a : Reg) (i : BitVec 6)
  /-- Shifts left by an unsigned immediate. (R166) -/
  | shlImm (d : Reg) (a : Reg) (i : BitVec 6)
  /-- Shifts right logically by an unsigned immediate. (R166) -/
  | shrImm (d : Reg) (a : Reg) (i : BitVec 6)
  /-- Shifts right arithmetically by an unsigned immediate. (R166) -/
  | sraImm (d : Reg) (a : Reg) (i : BitVec 6)
  /-- Rotates left by an unsigned immediate. (R166) -/
  | rotlImm (d : Reg) (a : Reg) (i : BitVec 6)
  /-- Signed minimum with a sign-extended immediate. (R166) -/
  | minImm (d : Reg) (a : Reg) (i : BitVec 6)
  /-- Signed maximum with a sign-extended immediate. (R166) -/
  | maxImm (d : Reg) (a : Reg) (i : BitVec 6)
  /-- Unsigned minimum with an unsigned immediate. (R166) -/
  | minuImm (d : Reg) (a : Reg) (i : BitVec 6)
  /-- Unsigned maximum with an unsigned immediate. (R166) -/
  | maxuImm (d : Reg) (a : Reg) (i : BitVec 6)
  /-- Writes the low 64 bits of the product. (R167) -/
  | mul (d : Reg) (a : Reg) (b : Reg)
  /-- Writes the high 64 bits of the signed product. (R167) -/
  | mulh (d : Reg) (a : Reg) (b : Reg)
  /-- Writes the high 64 bits of the unsigned product. (R167) -/
  | mulhu (d : Reg) (a : Reg) (b : Reg)
  /-- Writes the signed quotient, truncated toward zero. (R167) -/
  | div (d : Reg) (a : Reg) (b : Reg)
  /-- Writes the unsigned quotient. (R167) -/
  | divu (d : Reg) (a : Reg) (b : Reg)
  /-- Writes the signed remainder. (R167) -/
  | rem (d : Reg) (a : Reg) (b : Reg)
  /-- Writes the unsigned remainder. (R167) -/
  | remu (d : Reg) (a : Reg) (b : Reg)
  /-- Counts the leading zero bits. (R168) -/
  | clz (d : Reg) (a : Reg)
  /-- Counts the set bits. (R168) -/
  | popc (d : Reg) (a : Reg)
  /-- Reverses the bit order. (R168) -/
  | brev (d : Reg) (a : Reg)
  /-- Sign-extends from n bits. (R168) -/
  | sext (d : Reg) (a : Reg) (n : BitVec 6)
  /-- Zero-extends from n bits. (R168) -/
  | zext (d : Reg) (a : Reg) (n : BitVec 6)
  /-- Writes 1 when the condition holds and 0 otherwise. (R169) -/
  | cmp (d : Reg) (a : Reg) (b : Reg) (f : BitVec 4)
  /-- Selects a when c is nonzero, else b. (R170) -/
  | sel (d : Reg) (a : Reg) (b : Reg) (x : BitVec 4)
  /-- Branches unconditionally to a packet offset. (R172) -/
  | bra (o : BitVec 21)
  /-- Branches and writes the next packet index to s47. (R172) -/
  | call (o : BitVec 21)
  /-- Branches when the register is nonzero. (R173) -/
  | brcNz (a : Reg) (o : BitVec 15)
  /-- Branches when the register is zero. (R173) -/
  | brcZ (a : Reg) (o : BitVec 15)
  /-- Branches when em is zero. (R174) -/
  | brmNone (o : BitVec 20)
  /-- Branches when em is nonzero. (R174) -/
  | brmAny (o : BitVec 20)
  /-- Branches when every lane of em is set. (R174) -/
  | brmAll (o : BitVec 20)
  /-- Branches to packet a[29:0]. (R175) -/
  | ret (a : Reg)
  /-- Splits the path under a lane mask. (R178) -/
  | fork (a : Reg) (o : BitVec 16)
  /-- Runs macro m with register substitution. (R179) -/
  | mcall (m : BitVec 7) (x : BitVec 5) (y : BitVec 5) (z : BitVec 5)
  /-- Sets the path's execution mask. (R180) -/
  | setem (a : Reg)
  /-- Reads the execution mask. (R180) -/
  | getem (d : Reg)
  /-- Sets fm after the checks of R93. (R180) -/
  | setfmt (a : Reg)
  /-- Reads fm. (R180) -/
  | getfmt (d : Reg)
  /-- Drains the cast's stores and commits its resume entry. (R181) -/
  | scene (a : Reg) (n : BitVec 6)
  /-- Adds lane by lane. (R187) -/
  | vadd (d : Reg) (a : Reg) (b : Reg)
  /-- Subtracts lane by lane. (R187) -/
  | vsub (d : Reg) (a : Reg) (b : Reg)
  /-- Multiplies lane by lane and keeps the low 32 bits. (R187) -/
  | vmul (d : Reg) (a : Reg) (b : Reg)
  /-- Writes the high 32 bits of the signed product. (R187) -/
  | vmulh (d : Reg) (a : Reg) (b : Reg)
  /-- Bitwise and per lane. (R187) -/
  | vand (d : Reg) (a : Reg) (b : Reg)
  /-- Bitwise or per lane. (R187) -/
  | vor (d : Reg) (a : Reg) (b : Reg)
  /-- Bitwise exclusive or per lane. (R187) -/
  | vxor (d : Reg) (a : Reg) (b : Reg)
  /-- Shifts left per lane. (R187) -/
  | vshl (d : Reg) (a : Reg) (b : Reg)
  /-- Shifts right logically per lane. (R187) -/
  | vshr (d : Reg) (a : Reg) (b : Reg)
  /-- Shifts right arithmetically per lane. (R187) -/
  | vsra (d : Reg) (a : Reg) (b : Reg)
  /-- Signed minimum per lane. (R187) -/
  | vmin (d : Reg) (a : Reg) (b : Reg)
  /-- Signed maximum per lane. (R187) -/
  | vmax (d : Reg) (a : Reg) (b : Reg)
  /-- Unsigned minimum per lane. (R187) -/
  | vminu (d : Reg) (a : Reg) (b : Reg)
  /-- Unsigned maximum per lane. (R187) -/
  | vmaxu (d : Reg) (a : Reg) (b : Reg)
  /-- Saturating signed addition per lane. (R187) -/
  | vaddsat (d : Reg) (a : Reg) (b : Reg)
  /-- Saturating signed subtraction per lane. (R187) -/
  | vsubsat (d : Reg) (a : Reg) (b : Reg)
  /-- Adds an unsigned 7-bit immediate per lane. (R188) -/
  | vaddImm (d : Reg) (a : Reg) (i : BitVec 7)
  /-- Subtracts an immediate per lane. (R188) -/
  | vsubImm (d : Reg) (a : Reg) (i : BitVec 7)
  /-- Multiplies by an immediate per lane. (R188) -/
  | vmulImm (d : Reg) (a : Reg) (i : BitVec 7)
  /-- Ands with an immediate per lane. (R188) -/
  | vandImm (d : Reg) (a : Reg) (i : BitVec 7)
  /-- Ors with an immediate per lane. (R188) -/
  | vorImm (d : Reg) (a : Reg) (i : BitVec 7)
  /-- Shifts left by an immediate per lane. (R188) -/
  | vshlImm (d : Reg) (a : Reg) (i : BitVec 7)
  /-- Shifts right logically by an immediate per lane. (R188) -/
  | vshrImm (d : Reg) (a : Reg) (i : BitVec 7)
  /-- Shifts right arithmetically by an immediate per lane. (R188) -/
  | vsraImm (d : Reg) (a : Reg) (i : BitVec 7)
  /-- Multiplies and adds d per lane. (R189) -/
  | vmad (d : Reg) (a : Reg) (b : Reg)
  /-- Absolute value per lane. (R189) -/
  | vabs (d : Reg) (a : Reg)
  /-- Negates per lane. (R189) -/
  | vneg (d : Reg) (a : Reg)
  /-- Counts leading zeros per lane. (R189) -/
  | vclz (d : Reg) (a : Reg)
  /-- Counts set bits per lane. (R189) -/
  | vpopc (d : Reg) (a : Reg)
  /-- Accumulates a signed 4-way byte dot product into d. (R189) -/
  | vdot4I8 (d : Reg) (a : Reg) (b : Reg)
  /-- Accumulates an unsigned 4-way byte dot product into d. (R189) -/
  | vdot4N8 (d : Reg) (a : Reg) (b : Reg)
  /-- Writes to a scalar register the mask of lanes whose integer comparison holds. (R190) -/
  | vcmp (d : Reg) (a : Reg) (b : Reg) (f : BitVec 4)
  /-- FP32 addition under fm.RM. (R191) -/
  | vfadd (d : Reg) (a : Reg) (b : Reg)
  /-- FP32 subtraction. (R191) -/
  | vfsub (d : Reg) (a : Reg) (b : Reg)
  /-- FP32 multiplication. (R191) -/
  | vfmul (d : Reg) (a : Reg) (b : Reg)
  /-- FP32 minimum. (R191) -/
  | vfmin (d : Reg) (a : Reg) (b : Reg)
  /-- FP32 maximum. (R191) -/
  | vfmax (d : Reg) (a : Reg) (b : Reg)
  /-- Copies the sign of b onto a. (R191) -/
  | vfcopysign (d : Reg) (a : Reg) (b : Reg)
  /-- Fused a times b plus d. (R192) -/
  | vfma (d : Reg) (a : Reg) (b : Reg)
  /-- Fused a times b minus d. (R192) -/
  | vfms (d : Reg) (a : Reg) (b : Reg)
  /-- Fused minus a times b plus d. (R192) -/
  | vfnma (d : Reg) (a : Reg) (b : Reg)
  /-- Writes the mask of lanes whose FP comparison holds. (R193) -/
  | vfcmp (d : Reg) (a : Reg) (b : Reg) (f : BitVec 4)
  /-- Correctly rounded reciprocal. (R194) -/
  | vfrcp (d : Reg) (a : Reg)
  /-- Correctly rounded reciprocal square root. (R194) -/
  | vfrsq (d : Reg) (a : Reg)
  /-- Correctly rounded square root. (R194) -/
  | vfsqrt (d : Reg) (a : Reg)
  /-- Correctly rounded 2 to the power x. (R194) -/
  | vfexp2 (d : Reg) (a : Reg)
  /-- Correctly rounded base-2 logarithm. (R194) -/
  | vflog2 (d : Reg) (a : Reg)
  /-- Correctly rounded hyperbolic tangent. (R194) -/
  | vftanh (d : Reg) (a : Reg)
  /-- Correctly rounded logistic sigmoid. (R194) -/
  | vfsig (d : Reg) (a : Reg)
  /-- Clears the sign bit. (R194) -/
  | vfabs (d : Reg) (a : Reg)
  /-- Inverts the sign bit. (R194) -/
  | vfneg (d : Reg) (a : Reg)
  /-- Converts each lane between formats under the rm field. (R196) -/
  | vcvt (d : Reg) (a : Reg) (x : BitVec 4) (y : BitVec 4) (r : BitVec 2)
  /-- Shifts a up by the element width and inserts b's low element. (R197) -/
  | vpack (d : Reg) (a : Reg) (b : Reg) (w : BitVec 3)
  /-- Extracts element k of each lane, zero-extended. (R197) -/
  | vunpack (d : Reg) (a : Reg) (k : BitVec 6) (w : BitVec 3)
  /-- Selects a or b per lane by a scalar mask. (R198) -/
  | vsel (d : Reg) (a : Reg) (b : Reg) (x : BitVec 4)
  /-- Each lane reads the lane of a named by b. (R199) -/
  | vshuf (d : Reg) (a : Reg) (b : Reg)
  /-- Broadcasts lane k of a. (R199) -/
  | vbcast (d : Reg) (a : Reg) (k : BitVec 6)
  /-- Writes the lane number, as an affine value. (R199) -/
  | vlaneid (d : Reg)
  /-- Writes the affine value A + l × S from uniform registers. (R199) -/
  | vaff (d : Reg) (a : Reg) (b : Reg)
  /-- Writes an affine value from signed 6-bit immediates. (R199) -/
  | vaffImm (d : Reg) (i : BitVec 6) (j : BitVec 6)
  /-- Reduces the active lanes in a fixed tree order. (R200) -/
  | vreduce (d : Reg) (a : Reg) (p : BitVec 6)
  /-- Inclusive scan over the active lanes. (R200) -/
  | vscanInclusive (d : Reg) (a : Reg) (p : BitVec 6)
  /-- Exclusive scan over the active lanes. (R200) -/
  | vscanExclusive (d : Reg) (a : Reg) (p : BitVec 6)
  /-- Writes the mask of active lanes whose value is nonzero. (R201) -/
  | ballot (d : Reg) (a : Reg)
  /-- Writes counter-based generator outputs per lane. (R202) -/
  | vrng (d : Reg) (a : Reg) (b : Reg)
  /-- Broadcasts scalar bits 31:0 to the active lanes. (R203) -/
  | vmovs (d : Reg) (a : Reg)
  /-- Moves lane k of a vector register to a scalar register. (R203) -/
  | smovv (d : Reg) (a : Reg) (k : BitVec 6)
  /-- Loads from the troupe scratchpad at fixed latency. (R208) -/
  | lds (d : Reg) (a : Reg) (b : Reg) (z : BitVec 3)
  /-- Stores to the troupe scratchpad. (R208) -/
  | sts (d : Reg) (a : Reg) (b : Reg) (z : BitVec 3)
  /-- Loads words from another core's scratchpad by place offset. (R210) -/
  | ldsx (d : Reg) (a : Reg) (x : BitVec 4) (y : BitVec 4) (o : BitVec 1)
  /-- Stores words to another core's scratchpad by place offset. (R210) -/
  | stsx (d : Reg) (a : Reg) (x : BitVec 4) (y : BitVec 4) (o : BitVec 1)
  /-- Performs a scratchpad read-modify-write per lane, locally or remotely. (R209) -/
  | atoms (d : Reg) (a : Reg) (p : BitVec 4) (o : BitVec 2) (e : BitVec 2) (x : BitVec 1)
  /-- Loads 32-bit words from global memory through the Usher. (R211) -/
  | ldg (d : Reg) (a : Reg) (t : BitVec 3) (o : BitVec 2) (e : BitVec 2)
  /-- Loads zero-extended halfwords from global memory. (R211) -/
  | ldgN16 (d : Reg) (a : Reg) (t : BitVec 3) (o : BitVec 2) (e : BitVec 2)
  /-- Loads zero-extended bytes from global memory. (R211) -/
  | ldgN8 (d : Reg) (a : Reg) (t : BitVec 3) (o : BitVec 2) (e : BitVec 2)
  /-- Stores 32-bit words to global memory. (R211) -/
  | stg (d : Reg) (a : Reg) (t : BitVec 3) (o : BitVec 2) (e : BitVec 2)
  /-- Stores halfwords to global memory. (R211) -/
  | stg16 (d : Reg) (a : Reg) (t : BitVec 3) (o : BitVec 2) (e : BitVec 2)
  /-- Stores bytes to global memory. (R211) -/
  | stg8 (d : Reg) (a : Reg) (t : BitVec 3) (o : BitVec 2) (e : BitVec 2)
  /-- Loads 32-bit words without a merging window and demotes the path. (R211) -/
  | poll (d : Reg) (a : Reg) (t : BitVec 3) (o : BitVec 2) (e : BitVec 2)
  /-- Performs a global read-modify-write per lane at the home. (R212) -/
  | atom (d : Reg) (a : Reg) (t : BitVec 3) (o : BitVec 2) (e : BitVec 2) (p : BitVec 3)
  /-- Holds the path until earlier accesses are performed at the scope. (R213) -/
  | fence (e : BitVec 2)
  /-- Holds the path until the named counter is at most n. (R15) -/
  | waitc (n : BitVec 6) (l : BitVec 2)
  /-- Walks both translation stages and fills a translation register. (R124) -/
  | txl (t : BitVec 3) (a : Reg)
  /-- Takes a producer ticket, waiting for a free slot. (R214) -/
  | ringTicket (d : Reg) (n : BitVec 4)
  /-- Marks a ticket's slot filled. (R214) -/
  | ringFill (a : Reg) (n : BitVec 4)
  /-- Takes the next filled slot, waiting for it. (R214) -/
  | ringTake (d : Reg) (n : BitVec 4)
  /-- Frees the oldest taken slot. (R214) -/
  | ringFree (n : BitVec 4)
  /-- Writes one field of a tensor handle. (R216) -/
  | thset (r : Reg) (n : BitVec 6) (q : BitVec 1) (h : BitVec 4)
  /-- Reads one field of a tensor handle. (R216) -/
  | thget (d : Reg) (n : BitVec 6) (q : BitVec 1) (h : BitVec 4)
  /-- Moves a tile of a tensor into scratchpad. (R217) -/
  | tld (a : Reg) (b : Reg) (h : BitVec 4)
  /-- Moves a tile from scratchpad into a tensor. (R217) -/
  | tst (a : Reg) (b : Reg) (h : BitVec 4)
  /-- Arrives at a troupe barrier phase. (R218) -/
  | barArv (n : BitVec 4)
  /-- Waits for the phase of the pending arrival to complete. (R218) -/
  | barWait (n : BitVec 4)
  /-- Arrives at a cue barrier and waits for every participant. (R16) -/
  | cueBar (n : BitVec 4)
  /-- Adds to a hardware semaphore as a device-scope release. (R219) -/
  | semadd (a : Reg) (k : BitVec 12)
  /-- Waits until a semaphore reaches a value. (R219) -/
  | semwait (a : Reg) (k : BitVec 12)
  /-- Presents a nest record to the Nest Release Unit. (R220) -/
  | nestLaunch (a : Reg)
  /-- Moves the bound of a GROW nest or closes a spawn nest. (R53) -/
  | nestBound (a : Reg) (b : Reg)
  /-- Appends a point to a spawn nest and returns a flag. (R59) -/
  | spawn (d : Reg) (a : Reg) (b : Reg)
  /-- Adds lane values to bins of the Binning Engine. (R220) -/
  | bin (a : Reg) (b : Reg)
  /-- Posts a collective descriptor to the Posted Collective Table. (R221) -/
  | collPost (d : Reg) (a : Reg)
  /-- Reports the state of a post. (R221) -/
  | collTest (d : Reg) (a : Reg)
  /-- Withdraws the member from a group and waits for the home switch's acknowledgement. (R311) -/
  | collLeave (a : Reg)
  /-- Loads a weight tile into the shadow plane. (R232) -/
  | mldw (d : Reg)
  /-- Loads a weight tile from a handle into the shadow plane. (R232) -/
  | mldwH (d : Reg)
  /-- Output-stationary multiply of tiles into the cells. (R229) -/
  | mmao (d : Reg) (a : Reg) (b : Reg)
  /-- Output-stationary multiply with handle operands. (R229) -/
  | mmaoH (d : Reg) (a : Reg) (b : Reg)
  /-- Streams activation rows through the active plane into slots. (R234) -/
  | mmaw (d : Reg) (a : Reg) (b : Reg)
  /-- Weight-stationary product with a handle activation operand. (R234) -/
  | mmawH (d : Reg) (a : Reg) (b : Reg)
  /-- Drains cell or slot rows through the gate pipeline into scratchpad. (R231) -/
  | msho (d : Reg)
  /-- Takes and clears free accumulator slots. (R235) -/
  | macq (d : Reg) (a : Reg)
  /-- Frees accumulator slots. (R235) -/
  | mrel (d : Reg)
  /-- Sets the active array shape. (R236) -/
  | mfuse (d : Reg)
  /-- Loads the gate program from scratchpad. (R237) -/
  | gcfg (d : Reg)
  /-- Runs the linear recurrence scan over channels in place. (R239) -/
  | lscan (d : Reg) (a : Reg) (b : Reg)
  /-- Reads the cue stream's st. (R240) -/
  | mstatSt (d : Reg)
  /-- Clears bits of the cue stream's st. (R240) -/
  | mstatClr (d : Reg)
  /-- Sets the cue stream's fm after checks. (R240) -/
  | mstatSetfmt (d : Reg)
  /-- Reads the cue stream's fm. (R240) -/
  | mstatGetfmt (d : Reg)
  /-- Reads the matrix state word. (R240) -/
  | mstatState (d : Reg)
  /-- Reads a nest or copy record and presents it. (R278) -/
  | cbSubmit (a : Reg) (b : Reg)
  /-- Waits until a semaphore reaches a value. (R278) -/
  | cbSemwait (a : Reg) (k : BitVec 12)
  /-- Adds to a semaphore. (R278) -/
  | cbSemadd (a : Reg) (k : BitVec 12)
  /-- Sends an MSI-X vector after earlier additions are performed. (R278) -/
  | cbIrq (v : BitVec 12)
  /-- Raises Breakpoint with k in xTVAL. (R248) -/
  | trap (k : BitVec 12)
  /-- Reads a control register. (R246) -/
  | csrr (d : Reg) (n : BitVec 12)
  /-- Writes a control register. (R246) -/
  | csrw (a : Reg) (n : BitVec 12)
  /-- A read of HMSG takes the oldest queued message as an acquire. (R258) -/
  | hmsgRead (d : Reg)
  /-- Drops stage-1 translations for one page. (R252) -/
  | tlbinv (a : Reg)
  /-- Drops stage-2 translations for one page. (R252) -/
  | tlbinvS2 (a : Reg)
  /-- Maps a page in stage 1 from the tenant's pool. (R253) -/
  | mappg (d : Reg) (a : Reg) (b : Reg)
  /-- Writes a macro from a scratchpad definition record. (R254) -/
  | mdef (a : Reg) (b : Reg)
  /-- Reads the tenant's scaled device time. (R255) -/
  | time (d : Reg)
  /-- Reads a tenant performance counter. (R256) -/
  | perfr (d : Reg) (a : Reg)
  /-- Reads a field of a parked lane's fault record. (R250) -/
  | frec (d : Reg) (a : Reg) (b : Reg)
  /-- Removes lanes from xPARK so that ERET replays them. (R251) -/
  | unpark (a : Reg)
  /-- Sends a message to a quadrant's queue along a route. (R257) -/
  | smsg (a : Reg) (b : Reg)
  /-- A pool marker that traps with ExecData when executed. (R158) -/
  | pool (n : BitVec 18)
  /-- Stagehand copies a tensor tile into scratchpad. (R265) -/
  | tcopyIn (h : BitVec 4) (b : BitVec 5) (a : BitVec 5)
  /-- Stagehand copies a scratchpad tile into a tensor. (R265) -/
  | tcopyOut (h : BitVec 4) (b : BitVec 5) (a : BitVec 5)
  /-- Writes a field of a stagehand handle. (R266) -/
  | xhSet (k : BitVec 3) (h : BitVec 4) (b : BitVec 5) (a : BitVec 5)
  /-- Waits until the copy counter is at most the threshold. (R267) -/
  | xwait (a : BitVec 5)
  /-- Waits until the stagehand's earlier accesses are performed at the scope. (R268) -/
  | xfence (e : BitVec 2)
  /-- Adds an amount to a bin. (R269) -/
  | xbin (b : BitVec 5) (a : BitVec 5)
  /-- Adds to a semaphore. (R269) -/
  | xsemAdd (b : BitVec 5) (a : BitVec 5)
  /-- Waits on a semaphore. (R269) -/
  | xsemWait (b : BitVec 5) (a : BitVec 5)
  /-- Stagehand takes a ring ticket. (R271) -/
  | rngTkt (n : BitVec 4) (d : BitVec 5)
  /-- Stagehand fills a ring slot. (R271) -/
  | rngPut (n : BitVec 4) (a : BitVec 5)
  /-- Stagehand takes a filled ring slot. (R271) -/
  | rngGet (n : BitVec 4) (d : BitVec 5)
  /-- Stagehand frees a ring slot. (R271) -/
  | rngRel (n : BitVec 4)
  /-- A stagehand executes a standard RV32IMC or Zicsr instruction. (R260) -/
  | stagehandInstruction (i : Rv) (compressed : Bool)
  /-- A word of an unassigned major, or with an unlisted function or reserved field, reaches issue and traps with ReservedEncoding. (R154) -/
  | reservedEncodingWord (w : Word)
  /-- Has no effect. (R163) -/
  | nop
  /-- Ends the path and resolves its parent join record. (R77) -/
  | exit
  /-- Waits for the sibling path or merges with it. (R75) -/
  | join
  /-- Demotes the path so that sibling paths issue first. (R177) -/
  | yield
  /-- The atomic write of the resume entry is performed and the path becomes eligible again. (R181) Operands: unit, id. -/
  | sceneCommitComplete
  /-- Exchanges the active and shadow weight planes. (R233) -/
  | mflip
  /-- Clears every cell accumulator. (R228) -/
  | mzero
  /-- A matrix word finishes on its engine and waiting words may issue. (R227) Operands: unit, id. -/
  | matrixWordComplete
  /-- The global fetch of an H-form operand returns. (R241) Operands: unit, id. -/
  | handleFetchComplete
  /-- Replays unparked lanes and returns from the handler. (R249) -/
  | eret
  /-- Drops every stage-1 and combined entry of the tenant. (R252) -/
  | tlbinvAll
  /-- Drops every stage-2 and combined entry of the tenant. (R252) -/
  | tlbinvS2All
  /-- A sent message is queued at its destination quadrant once there is room. (R257) Operands: unit, id. -/
  | smsgDeliver
  /-- Stops the issuing troupe and notifies Proscenium. (R259) -/
  | halt
  /-- Ends the stagehand for retirement. (R270) -/
  | xexit
  /-- A TCOPY or cue-stream handle fetch meets a page or stage-2 fault that Proscenium repairs. (R359) Operands: unit, id. -/
  | stagehandTranslationFault
  /-- A 64-cycle merging window closes and its line request leaves for the home. (R117) Operands: a: quadrant key, b: line. -/
  | usherWindowClose
  /-- A coalescing-buffer entry 64 cycles old drains to the home. (R118) Operands: a: quadrant key, b: line. -/
  | coalesceEntryAgeDrain
  /-- Returned data is written to the destination lanes and the counter falls. (R114) Operands: unit, id, word: lane mask. -/
  | farLoadReturn
  /-- A far store is performed at its scope and leaves its counter. (R116) Operands: unit, id, word: lane mask. -/
  | farStorePerform
  /-- Far atomic results are written to d and a failed CAS demotes the path. (R212) Operands: unit, id. -/
  | atomResultReturn
  /-- Results of a remote ATOMS return and are written to d. (R209) Operands: unit, id. -/
  | remoteAtomsReturn
  /-- A TLD, TST or TCOPY finishes and leaves its counter. (R217) Operands: unit, id. -/
  | tileCopyComplete
  /-- A translation walk finishes and its word proceeds. (R124) Operands: unit, id. -/
  | translationWalkComplete
  /-- A far access faults in some lanes, which are parked after rollback. (R343) Operands: unit, id. -/
  | farAccessFault
  /-- Writes held for a page move retranslate and perform at the new frame. (R125) Operands: a: address of the leaf, dword: the value with which Proscenium ends the move. -/
  | heldWriteRetranslate
  /-- Setting EN enables a queue and writes held completions. (R273) Operands: a: interface, b: queue, dword: value. -/
  | queueEnable
  /-- Clearing EN disables a queue and clears QERR. (R367) Operands: a: interface, b: queue. -/
  | queueDisable
  /-- Writes ring size, priority and kind while the queue is disabled. (R273) Operands: a: interface, b: queue, dword: value. -/
  | qcfgConfigure
  /-- The host announces submitted entries, checked for range. (R275) Operands: a: interface, b: queue, dword: value, c, bytes: where and
  what the host has written to its memory before. -/
  | qtailWrite
  /-- The device reads the next submission entry, checks SEQ and advances QACC. (R275) Operands: a: interface, b: queue, flag: the entry could be read. -/
  | entryAccept
  /-- The host marks completions consumed, freeing completion slots. (R275) Operands: a: interface, b: queue, dword: value. -/
  | qcackWrite
  /-- The device writes a completion entry and then QDONE. (R275) Operands: a: interface, b: queue. -/
  | completionWrite
  /-- A free Callboard core takes the highest-priority ready context. (R277) -/
  | contextDispatch
  /-- Every 65,536 waiting cycles raise a ready context's level. (R277) Operands: a: interface, b: queue. -/
  | contextPriorityAging
  /-- A host write sets a semaphore as a system-scope release. (R280) Operands: a: interface, b: semaphore, dword: value. -/
  | semaphoreHostWrite
  /-- A write to a register that has no row of its own. (R273) Operands: flag: through a virtual function, a: which, b: offset, dword: value;
  or with id 1 a write of Proscenium to the group table (R303), point: group, interface, home switch, member index. -/
  | registerWrite
  /-- A write clears the lost-record count of the fault log. (R349) Operands: a: interface. -/
  | fllostClear
  /-- A physical-function write clears a port's drop counters. (R374) Operands: a: port. -/
  | fpstatClearDrops
  /-- A Camly core posts a collective descriptor through the post window. (R335) Operands: a: interface, dword: value. -/
  | cpostWrite
  /-- Erases a 64 KiB flash sector. (R378) Operands: a: KEY. -/
  | flashErase
  /-- Programs 256 bytes of flash from the buffer. (R378) Operands: a: KEY. -/
  | flashProgram
  /-- Verifies the firmware image. (R378) Operands: a: KEY. -/
  | flashVerify
  /-- Resets the module from recovery mode. (R378) Operands: a: KEY. -/
  | flashResetModule
  /-- Resets the module into recovery mode. (R379) Operands: a: KEY. -/
  | enterRecovery
  /-- A flash command finishes and BUSY clears. (R378) -/
  | flashCommandComplete
  /-- Resets a virtual function's configuration and MSI-X state. (R368) Operands: a: interface. -/
  | functionLevelReset
  /-- Setting Bus Master Enable releases held completions and messages. (R368) Operands: a: interface. -/
  | busMasterEnable
  /-- Reset starts the secure boot, measurement and Proscenium load. (R319) -/
  | moduleReset
  /-- Proscenium silent for 1 s resets the module. (R379) -/
  | prosceniumTimeout
  /-- SPDM version request. (R322) -/
  | getVersion
  /-- SPDM capabilities request. (R322) -/
  | getCapabilities
  /-- SPDM algorithm negotiation. (R322) Operands: a: the algorithms that are offered, bit 0: ECDSA P-384, 1: SHA-384, 2: secp384r1, 3: AES-256-GCM. -/
  | negotiateAlgorithms
  /-- SPDM certificate digests request. (R322) -/
  | getDigests
  /-- SPDM certificate request. (R322) Operands: a: offset, b: length. -/
  | getCertificate
  /-- SPDM challenge. (R322) Operands: bytes: nonce. -/
  | challenge
  /-- Returns the signed attestation report of measurement blocks. (R322) Operands: a: index, bytes: nonce. -/
  | getMeasurements
  /-- SPDM session key exchange. (R322) Operands: bytes: public key. In an open session every message brings its protected form in bytes 1. -/
  | keyExchange
  /-- SPDM session finish. (R322) Operands: bytes: MAC. -/
  | finish
  /-- SPDM session end. (R322) -/
  | endSession
  /-- The loader places an image and computes the tenant measurement. (R399) Operands: image. -/
  | tenantLoad
  /-- A quadrant added to a partition is zeroed. (R405) Operands: a: interface, b: core, c: quadrant. -/
  | partitionAddQuadrant
  /-- The secure element seals saved points into an encore image. (R326) Operands: points: slot and point of each, b: physical address of the buffer, bytes 0: DSTID, and of the target's report bytes 1: FWM, 2: encore key, 3: identity key, 4: its signature over the encore key and FWM, flag: the session stands. -/
  | sealRequest
  /-- The target checks and installs an encore image. (R327) Operands: bytes: image. -/
  | restoreImage
  /-- No authority answer within 1 s refuses the restore with reason 7. (R327) -/
  | authorityTimeout
  /-- An unacknowledged control flit is resent every 100 µs. (R373) Operands: a: SEQ, b: destination. -/
  | flitResend
  /-- A data flit arrives, routed by its generation. (R317) Operands: port, flit, a: rank of the sender among the participants. -/
  | dataFlit
  /-- A ticket arrives with t, N and H for a posted entry. (R309) Operands: port, flit, and what its payload carries: a: entry, b: generation, c: N, d: rank, e: H, dword: t,
  word: rank of a broadcast's root, or with N = 0 the reason. -/
  | ticketFlit
  /-- A horizon flit raises the device's horizon. (R309) Operands: port, flit, e: H. -/
  | horizonFlit
  /-- An acknowledgement stops resending of a control flit. (R373) Operands: port, flit, a: SEQ of the flit that it acknowledges. -/
  | ackFlit
  /-- A counter-authority reply arrives in the secured session. (R327) Operands: port, flit, id: SEQ of the request that it answers, flag: an answer to a seal, a: status, dword: counter. -/
  | counterAuthorityFlit
  /-- A management flit carries an SPDM message. (R322) Operands: port, flit, id: the message by its place among the rows from GET_VERSION on, with that message's operands. The requester is the flit's source. -/
  | managementFlit
  /-- A flit of reserved TYPE is dropped and counted. (R317) Operands: port, flit. -/
  | reservedTypeFlit
  /-- A Fenpin link trains. (R374) Operands: a: port. -/
  | linkUp
  /-- A link goes down and loses its queued flits. (R375) Operands: a: port. -/
  | linkDown
  /-- Every port switches to the new route generation. (R318) Operands: point: the
  routes of the new tables, three numbers each: port, destination, and the port by which it is reached. -/
  | routeSwitchover
  /-- The old route table is retired once it is drained. (R318) -/
  | routeRetire
  /-- The old generation is not retired within 1 s and STATE becomes failed. (R375) -/
  | remapTimeout
  /-- Proscenium forces retirement of the old table. (R375) -/
  | forceRouteRetire
  /-- The lowest ticket below the horizon starts once its reservation is free. (R309) -/
  | collectiveStart
  /-- Results are written, the entry is freed and DSEM is added to. (R314) Operands: a: entry. -/
  | collectiveComplete
  /-- A collective aborts and reports in the fault log. (R371) Operands: a: entry, b: reason. -/
  | collectiveAbort
  /-- A peer has been silent for COLLTO. (R370) Operands: a: entry. -/
  | collectiveTimeout
  /-- The home switch has been unreachable for COLLTO. (R370) Operands: a: group. -/
  | homeSwitchTimeout
  /-- A queued record enters a free slot, with bins substituted and the bound cell read. (R43) Operands: a: interface. -/
  | nestSlotEntry
  /-- The next row takes a frontier-table entry. (R46) Operands: a: slot. -/
  | rowActivate
  /-- Ready points are released round-robin, up to two per cycle. (R50) -/
  | pointRelease
  /-- Once data stores are loaded, stagehands start and casts become eligible. (R285) Operands: a: troupe. -/
  | stagehandStart
  /-- A point's retirement is recorded after its writes are performed. (R56) Operands: a: slot, point. -/
  | pointRetire
  /-- A stopped nest's slot is freed once no point remains placed. (R347) Operands: a: slot. -/
  | nestStopSlotFree
  /-- A pre-emption request chooses drain, save or flush. (R288) Operands: a: slot, point, b: bound L, c: requester, 0 the time-slicer, 1 Proscenium, 2 the hypervisor. -/
  | preemptRequest
  /-- The save areas are written and the quadrants become free. (R291) Operands: a: slot, point. -/
  | saveComplete
  /-- A save-engine write faults, suspending the save or raising a partition fault. (R363) Operands: a: slot, point, b: cause, c: guest physical address. -/
  | saveWriteFault
  /-- A suspended save write is retried after repair. (R363) Operands: a: slot, point, c: guest physical address. -/
  | saveRetry
  /-- A drain not finished after 2 × L is turned into a save or flush. (R290) Operands: a: slot, point. -/
  | drainTimeout
  /-- A saved point is installed and restarted. (R294) Operands: a: slot, point. -/
  | restorePoint
  /-- Each microsecond the time and energy budgets are charged. (R301) -/
  | budgetTick
  /-- The watchdog count reaches its limit. (R302) Operands: a: slot, point. -/
  | watchdogExpire
  /-- The sensor registers and bands are rewritten every 4096 cycles. (R333) Operands: a: sensor, dword: value. -/
  | sensorRefresh
  /-- A rise in demand makes a block skip cycles. (R332) Operands: a: block, b: the rise in amperes. -/
  | powerDidtSkip
  /-- At 110 °C a block's clock stops. (R332) Operands: a: block. -/
  | clockStopOvertemp
  /-- Below 100 °C a stopped clock restarts. (R332) Operands: a: block. -/
  | clockRestart
  /-- The 4096-cycle droop skip period ends. (R332) Operands: a: block. -/
  | droopSkipEnd
  /-- An engine starts the oldest copy record, substituting a bin length. (R281) -/
  | copyStart
  /-- A copy finishes and adds to DSEM. (R281) Operands: a: engine. -/
  | copyComplete
  /-- A copy meets a fault that is repaired or ends the copy. (R404) Operands: a: engine, b: cause, c: guest physical address, dword: virtual address. -/
  | copyFault
  /-- A correctable error is corrected and counted. (R360) Operands: a: block. -/
  | correctableError
  /-- An uncorrectable error poisons its granule. (R360) Operands: place. -/
  | uncorrectableError
  /-- The additions of a BIN or XBIN are performed at the Binning Engine and the operation leaves cnt.a or the copy counter. (R220) Operands: unit, id. -/
  | binAdditionPerformed
  /-- The addition of a SEMADD, XSEM.ADD or CB.SEMADD is acknowledged and the held path or context proceeds. (R219) Operands: unit, id, a: semaphore, dword: amount. -/
  | semaphoreAddAcknowledge
  /-- The read of a nest record, descriptor or copy record by NEST.LAUNCH, SPAWN, COLL.POST, CB.SUBMIT or CPOST completes, and the record is accepted or refused. (R402) Operands: unit, id; flag: through CPOST of interface a, b: the number of the write. -/
  | recordPresented
  /-- MAPPG's walk, table and frame writes are performed and d is written. (R253) Operands: unit, id. -/
  | mappgComplete
  /-- Every member quadrant's control store holds the macro and the MDEF path proceeds. (R254) Operands: unit, id. -/
  | mdefComplete
  /-- Proscenium sets MV in a leaf and invalidates it, after which writes to the page are held. (R125) Operands: a: address of the leaf. -/
  | pageMoveStart
  /-- Proscenium clears a partition fault, so the partition's points may again be released and placed. (R363) Operands: a: interface. -/
  | partitionFaultClear
  /-- Proscenium reports that it cannot repair the stage-2 entry behind a suspended save, and a partition fault results. (R363) Operands: a: slot, point, c: guest physical address. -/
  | stage2CannotRepair
  /-- At the start of a slice the budgets are raised and freed quadrants are given to the tenant of the slice. (R301) Operands: a: interface, time: time budget added, energy: energy budget added. -/
  | sliceStart
  /-- A CXL memory expander is added to or removed from a root port, and the HDM decoders are reprogrammed. (R329) Operands: a: base, b: size, flag: added. -/
  | expanderAddedOrRemoved
  /-- The 100 MHz PCIe reference clock becomes absent or returns, and the module takes its reference from the oscillator or from PCIe. (R330) Operands: flag: lost. -/
  | referenceClockLoss
  deriving DecidableEq, Repr

end Sys2Proof
end

