-- ==== Sys2Proof/WellFormed.lean ====
section
/-! DEFINITION. What makes an instruction well formed: the operand spaces of R147, the limits of R150 to R153 and
the orderings of R206. `Instr.uses` lists the registers that a word reads and writes in each space; the same list
drives the early-read check (R72), the operand-shape check (R63, R66) and the bank delays (R71). -/

namespace Sys2Proof

/-- The three kinds of unit that decode Dexfy words (R155). -/
inductive Kind where
  | cast | cue | board
  deriving DecidableEq, Repr

/-- Registers a word names: S-space (in the cue stream, Q-space) sources and destinations, V-space sources and
destinations, and the V-space sources marked (u) (R66). -/
structure Uses where
  sr : List Reg := []
  sw : List Reg := []
  vr : List Reg := []
  vw : List Reg := []
  uni : List Reg := []
  deriving DecidableEq, Repr

/-- The registers of each word, as the tables of R150 to R153 name their spaces. A word that is not listed names
no register. -/
def Instr.uses : Instr → Uses
  | .movi d _ => { sw := [d] }
  | .movhi d _ => { sr := [d], sw := [d] }
  | .limmI32 d _ => { sw := [d] }
  | .limmN32 d _ => { sw := [d] }
  | .add d a b => { sr := [a, b], sw := [d] }
  | .sub d a b => { sr := [a, b], sw := [d] }
  | .and d a b => { sr := [a, b], sw := [d] }
  | .or d a b => { sr := [a, b], sw := [d] }
  | .xor d a b => { sr := [a, b], sw := [d] }
  | .andn d a b => { sr := [a, b], sw := [d] }
  | .shl d a b => { sr := [a, b], sw := [d] }
  | .shr d a b => { sr := [a, b], sw := [d] }
  | .sra d a b => { sr := [a, b], sw := [d] }
  | .rotl d a b => { sr := [a, b], sw := [d] }
  | .min d a b => { sr := [a, b], sw := [d] }
  | .max d a b => { sr := [a, b], sw := [d] }
  | .minu d a b => { sr := [a, b], sw := [d] }
  | .maxu d a b => { sr := [a, b], sw := [d] }
  | .addc d a b => { sr := [a, b], sw := [d] }
  | .subc d a b => { sr := [a, b], sw := [d] }
  | .addImm d a _ => { sr := [a], sw := [d] }
  | .subImm d a _ => { sr := [a], sw := [d] }
  | .andImm d a _ => { sr := [a], sw := [d] }
  | .orImm d a _ => { sr := [a], sw := [d] }
  | .xorImm d a _ => { sr := [a], sw := [d] }
  | .andnImm d a _ => { sr := [a], sw := [d] }
  | .shlImm d a _ => { sr := [a], sw := [d] }
  | .shrImm d a _ => { sr := [a], sw := [d] }
  | .sraImm d a _ => { sr := [a], sw := [d] }
  | .rotlImm d a _ => { sr := [a], sw := [d] }
  | .minImm d a _ => { sr := [a], sw := [d] }
  | .maxImm d a _ => { sr := [a], sw := [d] }
  | .minuImm d a _ => { sr := [a], sw := [d] }
  | .maxuImm d a _ => { sr := [a], sw := [d] }
  | .mul d a b => { sr := [a, b], sw := [d] }
  | .mulh d a b => { sr := [a, b], sw := [d] }
  | .mulhu d a b => { sr := [a, b], sw := [d] }
  | .div d a b => { sr := [a, b], sw := [d] }
  | .divu d a b => { sr := [a, b], sw := [d] }
  | .rem d a b => { sr := [a, b], sw := [d] }
  | .remu d a b => { sr := [a, b], sw := [d] }
  | .clz d a => { sr := [a], sw := [d] }
  | .popc d a => { sr := [a], sw := [d] }
  | .brev d a => { sr := [a], sw := [d] }
  | .sext d a _ => { sr := [a], sw := [d] }
  | .zext d a _ => { sr := [a], sw := [d] }
  | .cmp d a b _ => { sr := [a, b], sw := [d] }
  | .sel d a b x => { sr := [a, b, x.setWidth 6], sw := [d] }
  | .brcNz a _ => { sr := [a] }
  | .brcZ a _ => { sr := [a] }
  | .ret a => { sr := [a] }
  | .fork a _ => { sr := [a] }
  | .setem a => { sr := [a] }
  | .getem d => { sw := [d] }
  | .setfmt a => { sr := [a] }
  | .getfmt d => { sw := [d] }
  | .scene a n => { sr := (List.range n.toNat).map (fun k => a + BitVec.ofNat 6 k) }
  | .vadd d a b => { vr := [a, b], vw := [d] }
  | .vsub d a b => { vr := [a, b], vw := [d] }
  | .vmul d a b => { vr := [a, b], vw := [d] }
  | .vmulh d a b => { vr := [a, b], vw := [d] }
  | .vand d a b => { vr := [a, b], vw := [d] }
  | .vor d a b => { vr := [a, b], vw := [d] }
  | .vxor d a b => { vr := [a, b], vw := [d] }
  | .vshl d a b => { vr := [a, b], vw := [d] }
  | .vshr d a b => { vr := [a, b], vw := [d] }
  | .vsra d a b => { vr := [a, b], vw := [d] }
  | .vmin d a b => { vr := [a, b], vw := [d] }
  | .vmax d a b => { vr := [a, b], vw := [d] }
  | .vminu d a b => { vr := [a, b], vw := [d] }
  | .vmaxu d a b => { vr := [a, b], vw := [d] }
  | .vaddsat d a b => { vr := [a, b], vw := [d] }
  | .vsubsat d a b => { vr := [a, b], vw := [d] }
  | .vaddImm d a _ => { vr := [a], vw := [d] }
  | .vsubImm d a _ => { vr := [a], vw := [d] }
  | .vmulImm d a _ => { vr := [a], vw := [d] }
  | .vandImm d a _ => { vr := [a], vw := [d] }
  | .vorImm d a _ => { vr := [a], vw := [d] }
  | .vshlImm d a _ => { vr := [a], vw := [d] }
  | .vshrImm d a _ => { vr := [a], vw := [d] }
  | .vsraImm d a _ => { vr := [a], vw := [d] }
  | .vmad d a b => { vr := [a, b, d], vw := [d] }
  | .vabs d a => { vr := [a], vw := [d] }
  | .vneg d a => { vr := [a], vw := [d] }
  | .vclz d a => { vr := [a], vw := [d] }
  | .vpopc d a => { vr := [a], vw := [d] }
  | .vdot4I8 d a b => { vr := [a, b, d], vw := [d] }
  | .vdot4N8 d a b => { vr := [a, b, d], vw := [d] }
  | .vcmp d a b _ => { sw := [d], vr := [a, b] }
  | .vfadd d a b => { vr := [a, b], vw := [d] }
  | .vfsub d a b => { vr := [a, b], vw := [d] }
  | .vfmul d a b => { vr := [a, b], vw := [d] }
  | .vfmin d a b => { vr := [a, b], vw := [d] }
  | .vfmax d a b => { vr := [a, b], vw := [d] }
  | .vfcopysign d a b => { vr := [a, b], vw := [d] }
  | .vfma d a b => { vr := [a, b, d], vw := [d] }
  | .vfms d a b => { vr := [a, b, d], vw := [d] }
  | .vfnma d a b => { vr := [a, b, d], vw := [d] }
  | .vfcmp d a b _ => { sw := [d], vr := [a, b] }
  | .vfrcp d a => { vr := [a], vw := [d] }
  | .vfrsq d a => { vr := [a], vw := [d] }
  | .vfsqrt d a => { vr := [a], vw := [d] }
  | .vfexp2 d a => { vr := [a], vw := [d] }
  | .vflog2 d a => { vr := [a], vw := [d] }
  | .vftanh d a => { vr := [a], vw := [d] }
  | .vfsig d a => { vr := [a], vw := [d] }
  | .vfabs d a => { vr := [a], vw := [d] }
  | .vfneg d a => { vr := [a], vw := [d] }
  | .vcvt d a _ _ _ => { vr := [a], vw := [d] }
  | .vpack d a b _ => { vr := [a, b], vw := [d] }
  | .vunpack d a _ _ => { vr := [a], vw := [d] }
  | .vsel d a b x => { sr := [x.setWidth 6], vr := [a, b], vw := [d] }
  | .vshuf d a b => { vr := [a, b], vw := [d] }
  | .vbcast d a _ => { vr := [a], vw := [d] }
  | .vlaneid d => { vw := [d] }
  | .vaff d a b => { vr := [a, b], vw := [d], uni := [a, b] }
  | .vaffImm d _ _ => { vw := [d] }
  | .vreduce d a _ => { vr := [a], vw := [d] }
  | .vscanInclusive d a _ => { vr := [a], vw := [d] }
  | .vscanExclusive d a _ => { vr := [a], vw := [d] }
  | .ballot d a => { sw := [d], vr := [a] }
  | .vrng d a b => { sr := [b, b + 1, b + 2], vr := [a], vw := [d] }
  | .vmovs d a => { sr := [a], vw := [d] }
  | .smovv d a _ => { sw := [d], vr := [a] }
  | .lds d a b _ => { sr := [a], vr := [b], vw := [d] }
  | .sts d a b _ => { sr := [a], vr := [b, d] }
  | .ldsx d a _ _ _ => { vr := [a], vw := [d] }
  | .stsx d a _ _ _ => { vr := [a, d] }
  | .atoms d a p _ _ _ => { vr := if p = 0xA#4 then [a, d, d + 1] else [a, d], vw := [d] }
  | .ldg d a _ _ _ => { vr := [a], vw := [d] }
  | .ldgN16 d a _ _ _ => { vr := [a], vw := [d] }
  | .ldgN8 d a _ _ _ => { vr := [a], vw := [d] }
  | .stg d a _ _ _ => { vr := [a, d] }
  | .stg16 d a _ _ _ => { vr := [a, d] }
  | .stg8 d a _ _ _ => { vr := [a, d] }
  | .poll d a _ _ _ => { vr := [a], vw := [d] }
  | .atom d a _ _ _ p => { vr := if p = 7#3 then [a, d, d + 1] else [a, d], vw := [d] }
  | .txl _ a => { sr := [a] }
  | .ringTicket d _ => { sw := [d] }
  | .ringFill a _ => { sr := [a] }
  | .ringTake d _ => { sw := [d] }
  | .thset r _ _ _ => { sr := [r] }
  | .thget d _ _ _ => { sw := [d] }
  | .tld a b _ => { sr := [a, b, b + 1] }
  | .tst a b _ => { sr := [a, b, b + 1] }
  | .semadd a _ => { sr := [a] }
  | .semwait a _ => { sr := [a] }
  | .nestLaunch a => { sr := [a] }
  | .nestBound a b => { sr := [a, b] }
  | .spawn d a b => { sr := [a, b], sw := [d] }
  | .bin a b => { vr := [a, b] }
  | .collPost d a => { sr := [a], sw := [d] }
  | .collTest d a => { sr := [a], sw := [d] }
  | .collLeave a => { sr := [a] }
  | .mldw d => { sr := [d] }
  | .mldwH d => { sr := [d] }
  | .mmao d a b => { sr := [d, a, b] }
  | .mmaoH d a b => { sr := [d, a, b] }
  | .mmaw d a b => { sr := [d, a, b], sw := [d] }
  | .mmawH d a b => { sr := [d, a, b], sw := [d] }
  | .msho d => { sr := [d] }
  | .macq d a => { sr := [a], sw := [d] }
  | .mrel d => { sr := [d] }
  | .mfuse d => { sr := [d] }
  | .gcfg d => { sr := [d] }
  | .lscan d a b => { sr := [d, a, b] }
  | .mstatSt d => { sw := [d] }
  | .mstatClr d => { sr := [d] }
  | .mstatSetfmt d => { sr := [d] }
  | .mstatGetfmt d => { sw := [d] }
  | .mstatState d => { sw := [d] }
  | .cbSubmit a b => { sr := [a, b] }
  | .cbSemwait a _ => { sr := [a] }
  | .cbSemadd a _ => { sr := [a] }
  | .csrr d _ => { sw := [d] }
  | .csrw a _ => { sr := [a] }
  | .hmsgRead d => { sw := [d] }
  | .tlbinv a => { sr := [a] }
  | .tlbinvS2 a => { sr := [a] }
  | .mappg d a b => { sr := [a, b], sw := [d] }
  | .mdef a b => { sr := [a, b] }
  | .time d => { sw := [d] }
  | .perfr d a => { sr := [a], sw := [d] }
  | .frec d a b => { sr := [a, b], sw := [d] }
  | .unpark a => { sr := [a] }
  | .smsg a b => { sr := [a, b] }
  | _ => {}

/-- A source field of S space, or of Q space in the cue stream (R147). -/
def sSource (k : Kind) (r : Reg) : Bool :=
  match k with
  | .cue => decide (r.toNat < 16)
  | _ => decide (r.toNat < 48) || decide (56 ≤ r.toNat)

/-- A destination field of S space: 56 is the window alone (R11, R147). -/
def sDest (k : Kind) (r : Reg) : Bool :=
  match k with
  | .cue => decide (r.toNat < 16)
  | _ => decide (r.toNat < 48) || decide (r.toNat = 56)

/-- A destination field of V space (R11, R147). -/
def vDest (r : Reg) : Bool := decide (r.toNat ≤ 56)

/-- Orderings that LDG and POLL accept: relaxed and .acq (R206). -/
def acqOnly (o : BitVec 2) : Bool := decide (o.toNat ≤ 1)

/-- Orderings that STG accepts: relaxed and .rel (R206). -/
def relOnly (o : BitVec 2) : Bool := decide (o = 0#2) || decide (o = 2#2)

/-- A data register of ATOMS and ATOM: never 56 to 63; for CAS an even register whose pair exists (R209). -/
def atomDest (cas : Bool) (d : Reg) : Bool :=
  decide (d.toNat < 56) && (!cas || (decide (d.toNat % 2 = 0)))

/-- The control-register numbers that the table of R246 assigns. -/
def csrAssigned (n : Nat) : Bool :=
  decide (n ≤ 7) || (decide (0x010 ≤ n) && decide (n ≤ 0x02F)) || (decide (0x100 ≤ n) && decide (n ≤ 0x109)) ||
    (decide (0x200 ≤ n) && decide (n ≤ 0x20B))

/-- The control registers that a CSRW may name: those whose write level is not blank (R246). -/
def csrWritable (n : Nat) : Bool :=
  decide (n ∈ [0x000, 0x100, 0x101, 0x102, 0x103, 0x106, 0x107, 0x108, 0x109, 0x200, 0x201, 0x202, 0x203, 0x206,
    0x207, 0x208, 0x209])

/-- The limits of R150 to R153 and R206 beyond the operand spaces. -/
def Instr.limits : Instr → Bool
  | .movhi d _ => decide (d.toNat < 48)
  | .cmp _ _ _ f => decide (f.toNat ≤ 9)
  | .scene a n => decide (n.toNat ≤ 8) && decide (a.toNat + n.toNat ≤ 48) && (!decide (n = 0#6) || decide (a = 0#6))
  | .vshlImm _ _ i => decide (i.toNat ≤ 31)
  | .vshrImm _ _ i => decide (i.toNat ≤ 31)
  | .vsraImm _ _ i => decide (i.toNat ≤ 31)
  | .vmad d _ _ => decide (d.toNat < 56)
  | .vdot4I8 d _ _ => decide (d.toNat < 56)
  | .vdot4N8 d _ _ => decide (d.toNat < 56)
  | .vcmp _ _ _ f => decide (f.toNat ≤ 9)
  | .vfma d _ _ => decide (d.toNat < 56)
  | .vfms d _ _ => decide (d.toNat < 56)
  | .vfnma d _ _ => decide (d.toNat < 56)
  | .vfcmp _ _ _ f => decide (f.toNat ≤ 7)
  | .vcvt _ _ x y _ => decide (x.toNat ≤ 0xD) && decide (y.toNat ≤ 0xD)
  | .vpack _ _ _ w => decide (w.toNat ≤ 2)
  | .vunpack _ _ k w =>
    (decide (w = 0#3) && decide (k.toNat < 2)) || (decide (w = 1#3) && decide (k.toNat < 4)) ||
      (decide (w = 2#3) && decide (k.toNat < 8))
  | .vbcast _ _ k => decide (k.toNat ≤ 31)
  | .vreduce _ _ p => decide (p.toNat ≤ 10)
  | .vscanInclusive _ _ p => decide (p.toNat ≤ 10)
  | .vscanExclusive _ _ p => decide (p.toNat ≤ 10)
  | .vrng _ _ b => decide (b.toNat ≤ 44) && decide (b.toNat % 2 = 0)
  | .smovv _ _ k => decide (k.toNat ≤ 31)
  | .lds _ _ _ z => decide (z.toNat ≤ 4)
  | .sts _ _ _ z => decide (z ∈ [0#3, 2#3, 4#3])
  | .atoms d _ p _ _ _ => decide (p.toNat ≤ 0xB) && atomDest (p = 0xA#4) d
  | .ldg _ _ _ o _ => acqOnly o
  | .ldgN16 _ _ _ o _ => acqOnly o
  | .ldgN8 _ _ _ o _ => acqOnly o
  | .stg _ _ _ o _ => relOnly o
  | .stg16 _ _ _ o _ => relOnly o
  | .stg8 _ _ _ o _ => relOnly o
  | .poll _ _ _ o _ => acqOnly o
  | .atom d _ _ _ _ p => atomDest (p = 7#3) d
  | .thset _ n _ _ => decide (n.toNat ≤ 7)
  | .thget _ n _ _ => decide (n.toNat ≤ 7)
  | .tld _ b _ => decide (b.toNat ≤ 46) && decide (b.toNat % 2 = 0)
  | .tst _ b _ => decide (b.toNat ≤ 46) && decide (b.toNat % 2 = 0)
  | .cbIrq v => decide (v.toNat ≤ 31)
  | .csrr _ n => csrAssigned n.toNat
  | .csrw _ n => csrWritable n.toNat
  | _ => true

/-- A word is well formed for a unit of kind `k` when its register fields lie in their spaces and its immediates
within their limits (R147 to R154). -/
def Instr.wf (k : Kind) (i : Instr) : Bool :=
  i.uses.sr.all (sSource k) && i.uses.sw.all (sDest k) && i.uses.vw.all vDest && i.limits

end Sys2Proof
end

