-- ==== Sys2Proof/Decode.lean ====
section
/-! DEFINITION. The decoder, total on every word, and the encoder, both from the encoding tables of R144 to R153 and
R263. -/

namespace Sys2Proof

/-- The bits `lo + n - 1 : lo` of a word (R2). -/
def fld (w : Word) (lo n : Nat) : BitVec n := w.extractLsb' lo n

/-- The major opcode, bits 27:22 (R144). -/
def fMaj (w : Word) : Nat := (fld w 22 6).toNat

/-- Form T: d 21:16, a 15:10, b 9:4, f 3:0 (R148). -/
def mkT (m : BitVec 6) (d : BitVec 6) (a : BitVec 6) (b : BitVec 6) (f : BitVec 4) : Word :=
  (0#4 ++ m ++ d ++ a ++ b ++ f : BitVec 32)

/-- Form I and FK: register 21:16, immediate or offset 15:0 (R148). -/
def mkI (m : BitVec 6) (d : BitVec 6) (i : BitVec 16) : Word :=
  (0#4 ++ m ++ d ++ i : BitVec 32)

/-- Form K: g 21:16, i12 15:4, f 3:0 (R148). -/
def mkK (m : BitVec 6) (g : BitVec 6) (i : BitVec 12) (f : BitVec 4) : Word :=
  (0#4 ++ m ++ g ++ i ++ f : BitVec 32)

/-- Form J: L 21, off 20:0 (R148). -/
def mkJ (m : BitVec 6) (l : BitVec 1) (o : BitVec 21) : Word :=
  (0#4 ++ m ++ l ++ o : BitVec 32)

/-- Form BC: a 21:16, Z 15, off 14:0 (R148). -/
def mkBC (m : BitVec 6) (a : BitVec 6) (z : BitVec 1) (o : BitVec 15) : Word :=
  (0#4 ++ m ++ a ++ z ++ o : BitVec 32)

/-- Form BM: cond 21:20, off 19:0 (R148). -/
def mkBM (m : BitVec 6) (c : BitVec 2) (o : BitVec 20) : Word :=
  (0#4 ++ m ++ c ++ o : BitVec 32)

/-- Form MC: m 21:15, x 14:10, y 9:5, z 4:0 (R148). -/
def mkMC (m : BitVec 6) (n : BitVec 7) (x : BitVec 5) (y : BitVec 5) (z : BitVec 5) : Word :=
  (0#4 ++ m ++ n ++ x ++ y ++ z : BitVec 32)

/-- Form VI: d 21:16, a 15:10, f 9:7, i7 6:0 (R148). -/
def mkVI (m : BitVec 6) (d : BitVec 6) (a : BitVec 6) (f : BitVec 3) (i : BitVec 7) : Word :=
  (0#4 ++ m ++ d ++ a ++ f ++ i : BitVec 32)

/-- Form CV: d 21:16, a 15:10, src 9:6, dst 5:2, rm 1:0 (R148). -/
def mkCV (m : BitVec 6) (d : BitVec 6) (a : BitVec 6) (s : BitVec 4) (t : BitVec 4) (r : BitVec 2) : Word :=
  (0#4 ++ m ++ d ++ a ++ s ++ t ++ r : BitVec 32)

/-- Form G: d 21:16, a 15:10, tx 9:7, ord 6:5, scp 4:3, op 2:0 (R148). -/
def mkG (m : BitVec 6) (d : BitVec 6) (a : BitVec 6) (t : BitVec 3) (o : BitVec 2) (e : BitVec 2) (p : BitVec 3) : Word :=
  (0#4 ++ m ++ d ++ a ++ t ++ o ++ e ++ p : BitVec 32)

/-- Form X: d 21:16, a 15:10, dx 9:6, dy 5:2, op 1, O 0 (R148). -/
def mkX (m : BitVec 6) (d : BitVec 6) (a : BitVec 6) (x : BitVec 4) (y : BitVec 4) (p : BitVec 1) (o : BitVec 1) : Word :=
  (0#4 ++ m ++ d ++ a ++ x ++ y ++ p ++ o : BitVec 32)

/-- Form SA: d 21:16, a 15:10, op 9:6, ord 5:4, scp 3:2, X 1, bit 0 zero (R148). -/
def mkSA (m : BitVec 6) (d : BitVec 6) (a : BitVec 6) (p : BitVec 4) (o : BitVec 2) (e : BitVec 2) (x : BitVec 1) (z : BitVec 1) : Word :=
  (0#4 ++ m ++ d ++ a ++ p ++ o ++ e ++ x ++ z : BitVec 32)

/-- Form POOL: N 21:4, f 3:0 (R158). -/
def mkP (m : BitVec 6) (n : BitVec 18) (f : BitVec 4) : Word :=
  (0#4 ++ m ++ n ++ f : BitVec 32)

/-- The R-type layout of the Xstage words (R263). -/
def mkR (f7 : BitVec 7) (rs2 rs1 : BitVec 5) (f3 : BitVec 3) (rd : BitVec 5) (op : BitVec 7) : Word :=
  (f7 ++ rs2 ++ rs1 ++ f3 ++ rd ++ op : BitVec 32)

/-- The words of an instruction with C = 0 and STALL = 0 (R144, R150 to R153, R263); LIMM has two (R146), and an
event of an engine has none. -/
def encode : Instr → List Word
  | .limmI32 d imm => [mkI 0x3#6 d 0#16, imm]
  | .limmN32 d imm => [mkI 0x3#6 d 1#16, imm]
  | .nop => [mkK 0x0#6 0x0#6 0x0#12 0x0#4]
  | .stall n => [mkK 0x0#6 0x0#6 n 0x1#4]
  | .movi d i => [mkI 0x1#6 d i]
  | .movhi d i => [mkI 0x2#6 d i]
  | .add d a b => [mkT 0x4#6 d a b 0x0#4]
  | .sub d a b => [mkT 0x4#6 d a b 0x1#4]
  | .and d a b => [mkT 0x4#6 d a b 0x2#4]
  | .or d a b => [mkT 0x4#6 d a b 0x3#4]
  | .xor d a b => [mkT 0x4#6 d a b 0x4#4]
  | .andn d a b => [mkT 0x4#6 d a b 0x5#4]
  | .shl d a b => [mkT 0x4#6 d a b 0x6#4]
  | .shr d a b => [mkT 0x4#6 d a b 0x7#4]
  | .sra d a b => [mkT 0x4#6 d a b 0x8#4]
  | .rotl d a b => [mkT 0x4#6 d a b 0x9#4]
  | .min d a b => [mkT 0x4#6 d a b 0xa#4]
  | .max d a b => [mkT 0x4#6 d a b 0xb#4]
  | .minu d a b => [mkT 0x4#6 d a b 0xc#4]
  | .maxu d a b => [mkT 0x4#6 d a b 0xd#4]
  | .addc d a b => [mkT 0x4#6 d a b 0xe#4]
  | .subc d a b => [mkT 0x4#6 d a b 0xf#4]
  | .addImm d a i => [mkT 0x5#6 d a i 0x0#4]
  | .subImm d a i => [mkT 0x5#6 d a i 0x1#4]
  | .andImm d a i => [mkT 0x5#6 d a i 0x2#4]
  | .orImm d a i => [mkT 0x5#6 d a i 0x3#4]
  | .xorImm d a i => [mkT 0x5#6 d a i 0x4#4]
  | .andnImm d a i => [mkT 0x5#6 d a i 0x5#4]
  | .shlImm d a i => [mkT 0x5#6 d a i 0x6#4]
  | .shrImm d a i => [mkT 0x5#6 d a i 0x7#4]
  | .sraImm d a i => [mkT 0x5#6 d a i 0x8#4]
  | .rotlImm d a i => [mkT 0x5#6 d a i 0x9#4]
  | .minImm d a i => [mkT 0x5#6 d a i 0xa#4]
  | .maxImm d a i => [mkT 0x5#6 d a i 0xb#4]
  | .minuImm d a i => [mkT 0x5#6 d a i 0xc#4]
  | .maxuImm d a i => [mkT 0x5#6 d a i 0xd#4]
  | .mul d a b => [mkT 0x6#6 d a b 0x0#4]
  | .mulh d a b => [mkT 0x6#6 d a b 0x1#4]
  | .mulhu d a b => [mkT 0x6#6 d a b 0x2#4]
  | .div d a b => [mkT 0x6#6 d a b 0x3#4]
  | .divu d a b => [mkT 0x6#6 d a b 0x4#4]
  | .rem d a b => [mkT 0x6#6 d a b 0x5#4]
  | .remu d a b => [mkT 0x6#6 d a b 0x6#4]
  | .clz d a => [mkT 0x7#6 d a 0x0#6 0x0#4]
  | .popc d a => [mkT 0x7#6 d a 0x0#6 0x1#4]
  | .brev d a => [mkT 0x7#6 d a 0x0#6 0x2#4]
  | .sext d a n => [mkT 0x7#6 d a n 0x3#4]
  | .zext d a n => [mkT 0x7#6 d a n 0x4#4]
  | .cmp d a b f => [mkT 0x8#6 d a b f]
  | .sel d a b x => [mkT 0x9#6 d a b x]
  | .bra o => [mkJ 0x10#6 0x0#1 o]
  | .call o => [mkJ 0x10#6 0x1#1 o]
  | .brcNz a o => [mkBC 0x11#6 a 0x0#1 o]
  | .brcZ a o => [mkBC 0x11#6 a 0x1#1 o]
  | .brmNone o => [mkBM 0x12#6 0x0#2 o]
  | .brmAny o => [mkBM 0x12#6 0x1#2 o]
  | .brmAll o => [mkBM 0x12#6 0x2#2 o]
  | .ret a => [mkT 0x13#6 0x0#6 a 0x0#6 0x0#4]
  | .exit => [mkT 0x13#6 0x0#6 0x0#6 0x0#6 0x1#4]
  | .join => [mkT 0x13#6 0x0#6 0x0#6 0x0#6 0x2#4]
  | .yield => [mkT 0x13#6 0x0#6 0x0#6 0x0#6 0x3#4]
  | .fork a o => [mkI 0x14#6 a o]
  | .mcall m x y z => [mkMC 0x15#6 m x y z]
  | .setem a => [mkT 0x16#6 0x0#6 a 0x0#6 0x0#4]
  | .getem d => [mkT 0x16#6 d 0x0#6 0x0#6 0x1#4]
  | .setfmt a => [mkT 0x16#6 0x0#6 a 0x0#6 0x2#4]
  | .getfmt d => [mkT 0x16#6 d 0x0#6 0x0#6 0x3#4]
  | .scene a n => [mkT 0x16#6 0x0#6 a n 0x4#4]
  | .vadd d a b => [mkT 0x18#6 d a b 0x0#4]
  | .vsub d a b => [mkT 0x18#6 d a b 0x1#4]
  | .vmul d a b => [mkT 0x18#6 d a b 0x2#4]
  | .vmulh d a b => [mkT 0x18#6 d a b 0x3#4]
  | .vand d a b => [mkT 0x18#6 d a b 0x4#4]
  | .vor d a b => [mkT 0x18#6 d a b 0x5#4]
  | .vxor d a b => [mkT 0x18#6 d a b 0x6#4]
  | .vshl d a b => [mkT 0x18#6 d a b 0x7#4]
  | .vshr d a b => [mkT 0x18#6 d a b 0x8#4]
  | .vsra d a b => [mkT 0x18#6 d a b 0x9#4]
  | .vmin d a b => [mkT 0x18#6 d a b 0xa#4]
  | .vmax d a b => [mkT 0x18#6 d a b 0xb#4]
  | .vminu d a b => [mkT 0x18#6 d a b 0xc#4]
  | .vmaxu d a b => [mkT 0x18#6 d a b 0xd#4]
  | .vaddsat d a b => [mkT 0x18#6 d a b 0xe#4]
  | .vsubsat d a b => [mkT 0x18#6 d a b 0xf#4]
  | .vaddImm d a i => [mkVI 0x19#6 d a 0x0#3 i]
  | .vsubImm d a i => [mkVI 0x19#6 d a 0x1#3 i]
  | .vmulImm d a i => [mkVI 0x19#6 d a 0x2#3 i]
  | .vandImm d a i => [mkVI 0x19#6 d a 0x3#3 i]
  | .vorImm d a i => [mkVI 0x19#6 d a 0x4#3 i]
  | .vshlImm d a i => [mkVI 0x19#6 d a 0x5#3 i]
  | .vshrImm d a i => [mkVI 0x19#6 d a 0x6#3 i]
  | .vsraImm d a i => [mkVI 0x19#6 d a 0x7#3 i]
  | .vmad d a b => [mkT 0x1a#6 d a b 0x0#4]
  | .vabs d a => [mkT 0x1a#6 d a 0x0#6 0x1#4]
  | .vneg d a => [mkT 0x1a#6 d a 0x0#6 0x2#4]
  | .vclz d a => [mkT 0x1a#6 d a 0x0#6 0x3#4]
  | .vpopc d a => [mkT 0x1a#6 d a 0x0#6 0x4#4]
  | .vdot4I8 d a b => [mkT 0x1a#6 d a b 0x5#4]
  | .vdot4N8 d a b => [mkT 0x1a#6 d a b 0x6#4]
  | .vcmp d a b f => [mkT 0x1b#6 d a b f]
  | .vfadd d a b => [mkT 0x1c#6 d a b 0x0#4]
  | .vfsub d a b => [mkT 0x1c#6 d a b 0x1#4]
  | .vfmul d a b => [mkT 0x1c#6 d a b 0x2#4]
  | .vfmin d a b => [mkT 0x1c#6 d a b 0x3#4]
  | .vfmax d a b => [mkT 0x1c#6 d a b 0x4#4]
  | .vfcopysign d a b => [mkT 0x1c#6 d a b 0x5#4]
  | .vfma d a b => [mkT 0x1d#6 d a b 0x0#4]
  | .vfms d a b => [mkT 0x1d#6 d a b 0x1#4]
  | .vfnma d a b => [mkT 0x1d#6 d a b 0x2#4]
  | .vfcmp d a b f => [mkT 0x1e#6 d a b f]
  | .vfrcp d a => [mkT 0x1f#6 d a 0x0#6 0x0#4]
  | .vfrsq d a => [mkT 0x1f#6 d a 0x0#6 0x1#4]
  | .vfsqrt d a => [mkT 0x1f#6 d a 0x0#6 0x2#4]
  | .vfexp2 d a => [mkT 0x1f#6 d a 0x0#6 0x3#4]
  | .vflog2 d a => [mkT 0x1f#6 d a 0x0#6 0x4#4]
  | .vftanh d a => [mkT 0x1f#6 d a 0x0#6 0x5#4]
  | .vfsig d a => [mkT 0x1f#6 d a 0x0#6 0x6#4]
  | .vfabs d a => [mkT 0x1f#6 d a 0x0#6 0x7#4]
  | .vfneg d a => [mkT 0x1f#6 d a 0x0#6 0x8#4]
  | .vcvt d a x y r => [mkCV 0x20#6 d a x y r]
  | .vpack d a b w => [mkT 0x21#6 d a b (0x0#1 ++ w)]
  | .vunpack d a k w => [mkT 0x21#6 d a k (0x1#1 ++ w)]
  | .vsel d a b x => [mkT 0x22#6 d a b x]
  | .vshuf d a b => [mkT 0x23#6 d a b 0x0#4]
  | .vbcast d a k => [mkT 0x23#6 d a k 0x1#4]
  | .vlaneid d => [mkT 0x23#6 d 0x0#6 0x0#6 0x2#4]
  | .vaff d a b => [mkT 0x23#6 d a b 0x3#4]
  | .vaffImm d i j => [mkT 0x23#6 d i j 0x4#4]
  | .vreduce d a p => [mkT 0x24#6 d a p 0x0#4]
  | .vscanInclusive d a p => [mkT 0x24#6 d a p 0x1#4]
  | .vscanExclusive d a p => [mkT 0x24#6 d a p 0x2#4]
  | .ballot d a => [mkT 0x24#6 d a 0x0#6 0x3#4]
  | .vrng d a b => [mkT 0x25#6 d a b 0x0#4]
  | .vmovs d a => [mkT 0x26#6 d a 0x0#6 0x0#4]
  | .smovv d a k => [mkT 0x26#6 d a k 0x1#4]
  | .lds d a b z => [mkT 0x30#6 d a b (0x0#1 ++ z)]
  | .sts d a b z => [mkT 0x30#6 d a b (0x1#1 ++ z)]
  | .ldsx d a x y o => [mkX 0x31#6 d a x y 0x0#1 o]
  | .stsx d a x y o => [mkX 0x31#6 d a x y 0x1#1 o]
  | .atoms d a p o e x => [mkSA 0x32#6 d a p o e x 0x0#1]
  | .ldg d a t o e => [mkG 0x33#6 d a t o e 0x0#3]
  | .ldgN16 d a t o e => [mkG 0x33#6 d a t o e 0x1#3]
  | .ldgN8 d a t o e => [mkG 0x33#6 d a t o e 0x2#3]
  | .stg d a t o e => [mkG 0x33#6 d a t o e 0x3#3]
  | .stg16 d a t o e => [mkG 0x33#6 d a t o e 0x4#3]
  | .stg8 d a t o e => [mkG 0x33#6 d a t o e 0x5#3]
  | .poll d a t o e => [mkG 0x33#6 d a t o e 0x6#3]
  | .atom d a t o e p => [mkG 0x34#6 d a t o e p]
  | .fence e => [mkT 0x35#6 0x0#6 0x0#6 (0x0#4 ++ e) 0x0#4]
  | .waitc n l => [mkT 0x35#6 0x0#6 n (l ++ 0x0#4) 0x1#4]
  | .txl t a => [mkT 0x35#6 (0x0#3 ++ t) a 0x0#6 0x2#4]
  | .ringTicket d n => [mkT 0x36#6 d 0x0#6 (0x0#2 ++ n) 0x0#4]
  | .ringFill a n => [mkT 0x36#6 0x0#6 a (0x0#2 ++ n) 0x1#4]
  | .ringTake d n => [mkT 0x36#6 d 0x0#6 (0x0#2 ++ n) 0x2#4]
  | .ringFree n => [mkT 0x36#6 0x0#6 0x0#6 (0x0#2 ++ n) 0x3#4]
  | .thset r n q h => [mkT 0x37#6 r n (0x0#1 ++ q ++ h) 0x0#4]
  | .thget d n q h => [mkT 0x37#6 d n (0x0#1 ++ q ++ h) 0x1#4]
  | .tld a b h => [mkT 0x37#6 a b (0x0#2 ++ h) 0x2#4]
  | .tst a b h => [mkT 0x37#6 a b (0x0#2 ++ h) 0x3#4]
  | .barArv n => [mkT 0x38#6 0x0#6 0x0#6 (0x0#2 ++ n) 0x0#4]
  | .barWait n => [mkT 0x38#6 0x0#6 0x0#6 (0x0#2 ++ n) 0x1#4]
  | .cueBar n => [mkT 0x38#6 0x0#6 0x0#6 (0x0#2 ++ n) 0x2#4]
  | .semadd a k => [mkK 0x39#6 a k 0x0#4]
  | .semwait a k => [mkK 0x39#6 a k 0x1#4]
  | .nestLaunch a => [mkT 0x3a#6 0x0#6 a 0x0#6 0x0#4]
  | .nestBound a b => [mkT 0x3a#6 0x0#6 a b 0x1#4]
  | .spawn d a b => [mkT 0x3a#6 d a b 0x2#4]
  | .bin a b => [mkT 0x3a#6 0x0#6 a b 0x3#4]
  | .collPost d a => [mkT 0x3b#6 d a 0x0#6 0x0#4]
  | .collTest d a => [mkT 0x3b#6 d a 0x0#6 0x1#4]
  | .collLeave a => [mkT 0x3b#6 0x0#6 a 0x0#6 0x2#4]
  | .mldw d => [mkT 0x3c#6 d 0x0#6 0x0#6 0x0#4]
  | .mldwH d => [mkT 0x3c#6 d 0x0#6 0x0#6 0x8#4]
  | .mflip => [mkT 0x3c#6 0x0#6 0x0#6 0x0#6 0x1#4]
  | .mmao d a b => [mkT 0x3c#6 d a b 0x2#4]
  | .mmaoH d a b => [mkT 0x3c#6 d a b 0xa#4]
  | .mmaw d a b => [mkT 0x3c#6 d a b 0x3#4]
  | .mmawH d a b => [mkT 0x3c#6 d a b 0xb#4]
  | .msho d => [mkT 0x3c#6 d 0x0#6 0x0#6 0x4#4]
  | .macq d a => [mkT 0x3d#6 d a 0x0#6 0x0#4]
  | .mrel d => [mkT 0x3d#6 d 0x0#6 0x0#6 0x1#4]
  | .mzero => [mkT 0x3d#6 0x0#6 0x0#6 0x0#6 0x2#4]
  | .mfuse d => [mkT 0x3d#6 d 0x0#6 0x0#6 0x3#4]
  | .gcfg d => [mkT 0x3d#6 d 0x0#6 0x0#6 0x4#4]
  | .lscan d a b => [mkT 0x3d#6 d a b 0x5#4]
  | .mstatSt d => [mkT 0x3d#6 d 0x0#6 0x0#6 0x6#4]
  | .mstatClr d => [mkT 0x3d#6 d 0x1#6 0x0#6 0x6#4]
  | .mstatSetfmt d => [mkT 0x3d#6 d 0x2#6 0x0#6 0x6#4]
  | .mstatGetfmt d => [mkT 0x3d#6 d 0x3#6 0x0#6 0x6#4]
  | .mstatState d => [mkT 0x3d#6 d 0x4#6 0x0#6 0x6#4]
  | .cbSubmit a b => [mkT 0x3e#6 0x0#6 a b 0x0#4]
  | .cbSemwait a k => [mkK 0x3e#6 a k 0x1#4]
  | .cbSemadd a k => [mkK 0x3e#6 a k 0x2#4]
  | .cbIrq v => [mkK 0x3e#6 0x0#6 v 0x3#4]
  | .trap k => [mkK 0x3f#6 0x0#6 k 0x0#4]
  | .eret => [mkT 0x3f#6 0x0#6 0x0#6 0x0#6 0x1#4]
  | .csrr d n => [mkK 0x3f#6 d n 0x2#4]
  | .csrw a n => [mkK 0x3f#6 a n 0x3#4]
  | .tlbinv a => [mkT 0x3f#6 0x0#6 a 0x0#6 0x4#4]
  | .tlbinvS2 a => [mkT 0x3f#6 0x0#6 a 0x1#6 0x4#4]
  | .tlbinvAll => [mkT 0x3f#6 0x0#6 0x0#6 0x2#6 0x4#4]
  | .tlbinvS2All => [mkT 0x3f#6 0x0#6 0x0#6 0x3#6 0x4#4]
  | .mappg d a b => [mkT 0x3f#6 d a b 0x5#4]
  | .mdef a b => [mkT 0x3f#6 0x0#6 a b 0x6#4]
  | .time d => [mkT 0x3f#6 d 0x0#6 0x0#6 0x7#4]
  | .perfr d a => [mkT 0x3f#6 d a 0x0#6 0x8#4]
  | .frec d a b => [mkT 0x3f#6 d a b 0x9#4]
  | .unpark a => [mkT 0x3f#6 0x0#6 a 0x0#6 0xa#4]
  | .smsg a b => [mkT 0x3f#6 0x0#6 a b 0xb#4]
  | .halt => [mkT 0x3f#6 0x0#6 0x0#6 0x0#6 0xc#4]
  | .pool n => [mkP 0x3f#6 n 0xf#4]
  | .tcopyIn h b a => [mkR (0x0#3 ++ h) b a 0x0#3 0x0#5 0xb#7]
  | .tcopyOut h b a => [mkR (0x0#3 ++ h) b a 0x1#3 0x0#5 0xb#7]
  | .xhSet k h b a => [mkR (k ++ h) b a 0x2#3 0x0#5 0xb#7]
  | .xwait a => [mkR 0x0#7 0x0#5 a 0x3#3 0x0#5 0xb#7]
  | .xfence e => [mkR (0x0#5 ++ e) 0x0#5 0x0#5 0x4#3 0x0#5 0xb#7]
  | .xbin b a => [mkR 0x0#7 b a 0x5#3 0x0#5 0xb#7]
  | .xsemAdd b a => [mkR 0x0#7 b a 0x6#3 0x0#5 0xb#7]
  | .xsemWait b a => [mkR 0x1#7 b a 0x6#3 0x0#5 0xb#7]
  | .xexit => [mkR 0x0#7 0x0#5 0x0#5 0x7#3 0x0#5 0xb#7]
  | .rngTkt n d => [mkR (0x0#3 ++ n) 0x0#5 0x0#5 0x0#3 d 0x2b#7]
  | .rngPut n a => [mkR (0x0#3 ++ n) 0x0#5 a 0x1#3 0x0#5 0x2b#7]
  | .rngGet n d => [mkR (0x0#3 ++ n) 0x0#5 0x0#5 0x2#3 d 0x2b#7]
  | .rngRel n => [mkR (0x0#3 ++ n) 0x0#5 0x0#5 0x3#3 0x0#5 0x2b#7]
  | _ => []

/-- The word with its C and STALL fields set (R144, R145). -/
def framed (c : Bool) (stall : BitVec 3) (w : Word) : Word :=
  (BitVec.ofBool c ++ stall ++ w.extractLsb' 0 28 : BitVec 32)

/-- The word without its C and STALL fields. -/
def unframed (w : Word) : Word := (0#4 ++ w.extractLsb' 0 28 : BitVec 32)

/-- Why a word is no instruction (R154, R155). -/
inductive DecErr where
  /-- Majors 0x0A to 0x0F, 0x17 and 0x27 to 0x2F (R154). -/
  | unassignedMajor
  /-- Matrix majors outside the cue stream, and majors that the cue stream does not execute (R85, R155). -/
  | cueMisuse
  /-- Majors that a cast or a Callboard core does not execute (R155). -/
  | illegalMajor
  /-- A function, a field or an operand value that R154 reserves. -/
  | reserved
  deriving DecidableEq, Repr

/-- The majors that R150 to R153 assign. -/
def majorAssigned (m : Nat) : Bool :=
  decide (m ≤ 0x09) || (decide (0x10 ≤ m) && decide (m ≤ 0x16)) || (decide (0x18 ≤ m) && decide (m ≤ 0x26)) ||
    decide (0x30 ≤ m)

/-- Whether a unit of kind `k` executes the word's major (R85, R155). Of major 0x13 a Callboard core executes RET and EXIT alone; of a word
of that major with an unlisted function R154 says that it is reserved and R155 that it is none of these two, and the model takes
ReservedEncoding for it, IllegalInstr for JOIN and YIELD (log entry 83). On a cue stream every word of major 0x38 but CUE.BAR is
CueMisuse. -/
def majorExecuted (k : Kind) (w : Word) : Bool :=
  let m := fMaj w
  match k with
  | .cast => !(decide (0x3C ≤ m) && decide (m ≤ 0x3E))
  | .cue => decide (m ≤ 0x09) || decide (m ∈ [0x10, 0x11, 0x13, 0x3C, 0x3D]) ||
      (decide (m = 0x38) && decide (fld w 0 4 = 2#4))
  | .board => decide (m ≤ 0x09) || decide (m ∈ [0x10, 0x11, 0x3E]) ||
      (decide (m = 0x13) && !decide ((fld w 0 4) ∈ [2#4, 3#4]))

/-- Major 0x00 (R150 to R153). -/
def parse00 (w : Word) : Option Instr :=
  match (fld w 0 4).toNat with
  | 0 => some (.nop)
  | 1 => some (.stall (fld w 4 12))
  | _ => none

/-- Major 0x01 (R150 to R153). -/
def parse01 (w : Word) : Option Instr :=
  some (.movi (fld w 16 6) (fld w 0 16))

/-- Major 0x02 (R150 to R153). -/
def parse02 (w : Word) : Option Instr :=
  some (.movhi (fld w 16 6) (fld w 0 16))

/-- Major 0x04 (R150 to R153). -/
def parse04 (w : Word) : Option Instr :=
  match (fld w 0 4).toNat with
  | 0 => some (.add (fld w 16 6) (fld w 10 6) (fld w 4 6))
  | 1 => some (.sub (fld w 16 6) (fld w 10 6) (fld w 4 6))
  | 2 => some (.and (fld w 16 6) (fld w 10 6) (fld w 4 6))
  | 3 => some (.or (fld w 16 6) (fld w 10 6) (fld w 4 6))
  | 4 => some (.xor (fld w 16 6) (fld w 10 6) (fld w 4 6))
  | 5 => some (.andn (fld w 16 6) (fld w 10 6) (fld w 4 6))
  | 6 => some (.shl (fld w 16 6) (fld w 10 6) (fld w 4 6))
  | 7 => some (.shr (fld w 16 6) (fld w 10 6) (fld w 4 6))
  | 8 => some (.sra (fld w 16 6) (fld w 10 6) (fld w 4 6))
  | 9 => some (.rotl (fld w 16 6) (fld w 10 6) (fld w 4 6))
  | 10 => some (.min (fld w 16 6) (fld w 10 6) (fld w 4 6))
  | 11 => some (.max (fld w 16 6) (fld w 10 6) (fld w 4 6))
  | 12 => some (.minu (fld w 16 6) (fld w 10 6) (fld w 4 6))
  | 13 => some (.maxu (fld w 16 6) (fld w 10 6) (fld w 4 6))
  | 14 => some (.addc (fld w 16 6) (fld w 10 6) (fld w 4 6))
  | 15 => some (.subc (fld w 16 6) (fld w 10 6) (fld w 4 6))
  | _ => none

/-- Major 0x05 (R150 to R153). -/
def parse05 (w : Word) : Option Instr :=
  match (fld w 0 4).toNat with
  | 0 => some (.addImm (fld w 16 6) (fld w 10 6) (fld w 4 6))
  | 1 => some (.subImm (fld w 16 6) (fld w 10 6) (fld w 4 6))
  | 2 => some (.andImm (fld w 16 6) (fld w 10 6) (fld w 4 6))
  | 3 => some (.orImm (fld w 16 6) (fld w 10 6) (fld w 4 6))
  | 4 => some (.xorImm (fld w 16 6) (fld w 10 6) (fld w 4 6))
  | 5 => some (.andnImm (fld w 16 6) (fld w 10 6) (fld w 4 6))
  | 6 => some (.shlImm (fld w 16 6) (fld w 10 6) (fld w 4 6))
  | 7 => some (.shrImm (fld w 16 6) (fld w 10 6) (fld w 4 6))
  | 8 => some (.sraImm (fld w 16 6) (fld w 10 6) (fld w 4 6))
  | 9 => some (.rotlImm (fld w 16 6) (fld w 10 6) (fld w 4 6))
  | 10 => some (.minImm (fld w 16 6) (fld w 10 6) (fld w 4 6))
  | 11 => some (.maxImm (fld w 16 6) (fld w 10 6) (fld w 4 6))
  | 12 => some (.minuImm (fld w 16 6) (fld w 10 6) (fld w 4 6))
  | 13 => some (.maxuImm (fld w 16 6) (fld w 10 6) (fld w 4 6))
  | _ => none

/-- Major 0x06 (R150 to R153). -/
def parse06 (w : Word) : Option Instr :=
  match (fld w 0 4).toNat with
  | 0 => some (.mul (fld w 16 6) (fld w 10 6) (fld w 4 6))
  | 1 => some (.mulh (fld w 16 6) (fld w 10 6) (fld w 4 6))
  | 2 => some (.mulhu (fld w 16 6) (fld w 10 6) (fld w 4 6))
  | 3 => some (.div (fld w 16 6) (fld w 10 6) (fld w 4 6))
  | 4 => some (.divu (fld w 16 6) (fld w 10 6) (fld w 4 6))
  | 5 => some (.rem (fld w 16 6) (fld w 10 6) (fld w 4 6))
  | 6 => some (.remu (fld w 16 6) (fld w 10 6) (fld w 4 6))
  | _ => none

/-- Major 0x07 (R150 to R153). -/
def parse07 (w : Word) : Option Instr :=
  match (fld w 0 4).toNat with
  | 0 => some (.clz (fld w 16 6) (fld w 10 6))
  | 1 => some (.popc (fld w 16 6) (fld w 10 6))
  | 2 => some (.brev (fld w 16 6) (fld w 10 6))
  | 3 => some (.sext (fld w 16 6) (fld w 10 6) (fld w 4 6))
  | 4 => some (.zext (fld w 16 6) (fld w 10 6) (fld w 4 6))
  | _ => none

/-- Major 0x08 (R150 to R153). -/
def parse08 (w : Word) : Option Instr :=
  some (.cmp (fld w 16 6) (fld w 10 6) (fld w 4 6) (fld w 0 4))

/-- Major 0x09 (R150 to R153). -/
def parse09 (w : Word) : Option Instr :=
  some (.sel (fld w 16 6) (fld w 10 6) (fld w 4 6) (fld w 0 4))

/-- Major 0x10 (R150 to R153). -/
def parse10 (w : Word) : Option Instr :=
  match (fld w 21 1).toNat with
  | 0 => some (.bra (fld w 0 21))
  | 1 => some (.call (fld w 0 21))
  | _ => none

/-- Major 0x11 (R150 to R153). -/
def parse11 (w : Word) : Option Instr :=
  match (fld w 15 1).toNat with
  | 0 => some (.brcNz (fld w 16 6) (fld w 0 15))
  | 1 => some (.brcZ (fld w 16 6) (fld w 0 15))
  | _ => none

/-- Major 0x12 (R150 to R153). -/
def parse12 (w : Word) : Option Instr :=
  match (fld w 20 2).toNat with
  | 0 => some (.brmNone (fld w 0 20))
  | 1 => some (.brmAny (fld w 0 20))
  | 2 => some (.brmAll (fld w 0 20))
  | _ => none

/-- Major 0x13 (R150 to R153). -/
def parse13 (w : Word) : Option Instr :=
  match (fld w 0 4).toNat with
  | 0 => some (.ret (fld w 10 6))
  | 1 => some (.exit)
  | 2 => some (.join)
  | 3 => some (.yield)
  | _ => none

/-- Major 0x14 (R150 to R153). -/
def parse14 (w : Word) : Option Instr :=
  some (.fork (fld w 16 6) (fld w 0 16))

/-- Major 0x15 (R150 to R153). -/
def parse15 (w : Word) : Option Instr :=
  some (.mcall (fld w 15 7) (fld w 10 5) (fld w 5 5) (fld w 0 5))

/-- Major 0x16 (R150 to R153). -/
def parse16 (w : Word) : Option Instr :=
  match (fld w 0 4).toNat with
  | 0 => some (.setem (fld w 10 6))
  | 1 => some (.getem (fld w 16 6))
  | 2 => some (.setfmt (fld w 10 6))
  | 3 => some (.getfmt (fld w 16 6))
  | 4 => some (.scene (fld w 10 6) (fld w 4 6))
  | _ => none

/-- Major 0x18 (R150 to R153). -/
def parse18 (w : Word) : Option Instr :=
  match (fld w 0 4).toNat with
  | 0 => some (.vadd (fld w 16 6) (fld w 10 6) (fld w 4 6))
  | 1 => some (.vsub (fld w 16 6) (fld w 10 6) (fld w 4 6))
  | 2 => some (.vmul (fld w 16 6) (fld w 10 6) (fld w 4 6))
  | 3 => some (.vmulh (fld w 16 6) (fld w 10 6) (fld w 4 6))
  | 4 => some (.vand (fld w 16 6) (fld w 10 6) (fld w 4 6))
  | 5 => some (.vor (fld w 16 6) (fld w 10 6) (fld w 4 6))
  | 6 => some (.vxor (fld w 16 6) (fld w 10 6) (fld w 4 6))
  | 7 => some (.vshl (fld w 16 6) (fld w 10 6) (fld w 4 6))
  | 8 => some (.vshr (fld w 16 6) (fld w 10 6) (fld w 4 6))
  | 9 => some (.vsra (fld w 16 6) (fld w 10 6) (fld w 4 6))
  | 10 => some (.vmin (fld w 16 6) (fld w 10 6) (fld w 4 6))
  | 11 => some (.vmax (fld w 16 6) (fld w 10 6) (fld w 4 6))
  | 12 => some (.vminu (fld w 16 6) (fld w 10 6) (fld w 4 6))
  | 13 => some (.vmaxu (fld w 16 6) (fld w 10 6) (fld w 4 6))
  | 14 => some (.vaddsat (fld w 16 6) (fld w 10 6) (fld w 4 6))
  | 15 => some (.vsubsat (fld w 16 6) (fld w 10 6) (fld w 4 6))
  | _ => none

/-- Major 0x19 (R150 to R153). -/
def parse19 (w : Word) : Option Instr :=
  match (fld w 7 3).toNat with
  | 0 => some (.vaddImm (fld w 16 6) (fld w 10 6) (fld w 0 7))
  | 1 => some (.vsubImm (fld w 16 6) (fld w 10 6) (fld w 0 7))
  | 2 => some (.vmulImm (fld w 16 6) (fld w 10 6) (fld w 0 7))
  | 3 => some (.vandImm (fld w 16 6) (fld w 10 6) (fld w 0 7))
  | 4 => some (.vorImm (fld w 16 6) (fld w 10 6) (fld w 0 7))
  | 5 => some (.vshlImm (fld w 16 6) (fld w 10 6) (fld w 0 7))
  | 6 => some (.vshrImm (fld w 16 6) (fld w 10 6) (fld w 0 7))
  | 7 => some (.vsraImm (fld w 16 6) (fld w 10 6) (fld w 0 7))
  | _ => none

/-- Major 0x1a (R150 to R153). -/
def parse1A (w : Word) : Option Instr :=
  match (fld w 0 4).toNat with
  | 0 => some (.vmad (fld w 16 6) (fld w 10 6) (fld w 4 6))
  | 1 => some (.vabs (fld w 16 6) (fld w 10 6))
  | 2 => some (.vneg (fld w 16 6) (fld w 10 6))
  | 3 => some (.vclz (fld w 16 6) (fld w 10 6))
  | 4 => some (.vpopc (fld w 16 6) (fld w 10 6))
  | 5 => some (.vdot4I8 (fld w 16 6) (fld w 10 6) (fld w 4 6))
  | 6 => some (.vdot4N8 (fld w 16 6) (fld w 10 6) (fld w 4 6))
  | _ => none

/-- Major 0x1b (R150 to R153). -/
def parse1B (w : Word) : Option Instr :=
  some (.vcmp (fld w 16 6) (fld w 10 6) (fld w 4 6) (fld w 0 4))

/-- Major 0x1c (R150 to R153). -/
def parse1C (w : Word) : Option Instr :=
  match (fld w 0 4).toNat with
  | 0 => some (.vfadd (fld w 16 6) (fld w 10 6) (fld w 4 6))
  | 1 => some (.vfsub (fld w 16 6) (fld w 10 6) (fld w 4 6))
  | 2 => some (.vfmul (fld w 16 6) (fld w 10 6) (fld w 4 6))
  | 3 => some (.vfmin (fld w 16 6) (fld w 10 6) (fld w 4 6))
  | 4 => some (.vfmax (fld w 16 6) (fld w 10 6) (fld w 4 6))
  | 5 => some (.vfcopysign (fld w 16 6) (fld w 10 6) (fld w 4 6))
  | _ => none

/-- Major 0x1d (R150 to R153). -/
def parse1D (w : Word) : Option Instr :=
  match (fld w 0 4).toNat with
  | 0 => some (.vfma (fld w 16 6) (fld w 10 6) (fld w 4 6))
  | 1 => some (.vfms (fld w 16 6) (fld w 10 6) (fld w 4 6))
  | 2 => some (.vfnma (fld w 16 6) (fld w 10 6) (fld w 4 6))
  | _ => none

/-- Major 0x1e (R150 to R153). -/
def parse1E (w : Word) : Option Instr :=
  some (.vfcmp (fld w 16 6) (fld w 10 6) (fld w 4 6) (fld w 0 4))

/-- Major 0x1f (R150 to R153). -/
def parse1F (w : Word) : Option Instr :=
  match (fld w 0 4).toNat with
  | 0 => some (.vfrcp (fld w 16 6) (fld w 10 6))
  | 1 => some (.vfrsq (fld w 16 6) (fld w 10 6))
  | 2 => some (.vfsqrt (fld w 16 6) (fld w 10 6))
  | 3 => some (.vfexp2 (fld w 16 6) (fld w 10 6))
  | 4 => some (.vflog2 (fld w 16 6) (fld w 10 6))
  | 5 => some (.vftanh (fld w 16 6) (fld w 10 6))
  | 6 => some (.vfsig (fld w 16 6) (fld w 10 6))
  | 7 => some (.vfabs (fld w 16 6) (fld w 10 6))
  | 8 => some (.vfneg (fld w 16 6) (fld w 10 6))
  | _ => none

/-- Major 0x20 (R150 to R153). -/
def parse20 (w : Word) : Option Instr :=
  some (.vcvt (fld w 16 6) (fld w 10 6) (fld w 6 4) (fld w 2 4) (fld w 0 2))

/-- Major 0x21 (R150 to R153). -/
def parse21 (w : Word) : Option Instr :=
  match (fld w 3 1).toNat with
  | 0 => some (.vpack (fld w 16 6) (fld w 10 6) (fld w 4 6) (fld w 0 3))
  | 1 => some (.vunpack (fld w 16 6) (fld w 10 6) (fld w 4 6) (fld w 0 3))
  | _ => none

/-- Major 0x22 (R150 to R153). -/
def parse22 (w : Word) : Option Instr :=
  some (.vsel (fld w 16 6) (fld w 10 6) (fld w 4 6) (fld w 0 4))

/-- Major 0x23 (R150 to R153). -/
def parse23 (w : Word) : Option Instr :=
  match (fld w 0 4).toNat with
  | 0 => some (.vshuf (fld w 16 6) (fld w 10 6) (fld w 4 6))
  | 1 => some (.vbcast (fld w 16 6) (fld w 10 6) (fld w 4 6))
  | 2 => some (.vlaneid (fld w 16 6))
  | 3 => some (.vaff (fld w 16 6) (fld w 10 6) (fld w 4 6))
  | 4 => some (.vaffImm (fld w 16 6) (fld w 10 6) (fld w 4 6))
  | _ => none

/-- Major 0x24 (R150 to R153). -/
def parse24 (w : Word) : Option Instr :=
  match (fld w 0 4).toNat with
  | 0 => some (.vreduce (fld w 16 6) (fld w 10 6) (fld w 4 6))
  | 1 => some (.vscanInclusive (fld w 16 6) (fld w 10 6) (fld w 4 6))
  | 2 => some (.vscanExclusive (fld w 16 6) (fld w 10 6) (fld w 4 6))
  | 3 => some (.ballot (fld w 16 6) (fld w 10 6))
  | _ => none

/-- Major 0x25 (R150 to R153). -/
def parse25 (w : Word) : Option Instr :=
  match (fld w 0 4).toNat with
  | 0 => some (.vrng (fld w 16 6) (fld w 10 6) (fld w 4 6))
  | _ => none

/-- Major 0x26 (R150 to R153). -/
def parse26 (w : Word) : Option Instr :=
  match (fld w 0 4).toNat with
  | 0 => some (.vmovs (fld w 16 6) (fld w 10 6))
  | 1 => some (.smovv (fld w 16 6) (fld w 10 6) (fld w 4 6))
  | _ => none

/-- Major 0x30 (R150 to R153). -/
def parse30 (w : Word) : Option Instr :=
  match (fld w 3 1).toNat with
  | 0 => some (.lds (fld w 16 6) (fld w 10 6) (fld w 4 6) (fld w 0 3))
  | 1 => some (.sts (fld w 16 6) (fld w 10 6) (fld w 4 6) (fld w 0 3))
  | _ => none

/-- Major 0x31 (R150 to R153). -/
def parse31 (w : Word) : Option Instr :=
  match (fld w 1 1).toNat with
  | 0 => some (.ldsx (fld w 16 6) (fld w 10 6) (fld w 6 4) (fld w 2 4) (fld w 0 1))
  | 1 => some (.stsx (fld w 16 6) (fld w 10 6) (fld w 6 4) (fld w 2 4) (fld w 0 1))
  | _ => none

/-- Major 0x32 (R150 to R153). -/
def parse32 (w : Word) : Option Instr :=
  some (.atoms (fld w 16 6) (fld w 10 6) (fld w 6 4) (fld w 4 2) (fld w 2 2) (fld w 1 1))

/-- Major 0x33 (R150 to R153). -/
def parse33 (w : Word) : Option Instr :=
  match (fld w 0 3).toNat with
  | 0 => some (.ldg (fld w 16 6) (fld w 10 6) (fld w 7 3) (fld w 5 2) (fld w 3 2))
  | 1 => some (.ldgN16 (fld w 16 6) (fld w 10 6) (fld w 7 3) (fld w 5 2) (fld w 3 2))
  | 2 => some (.ldgN8 (fld w 16 6) (fld w 10 6) (fld w 7 3) (fld w 5 2) (fld w 3 2))
  | 3 => some (.stg (fld w 16 6) (fld w 10 6) (fld w 7 3) (fld w 5 2) (fld w 3 2))
  | 4 => some (.stg16 (fld w 16 6) (fld w 10 6) (fld w 7 3) (fld w 5 2) (fld w 3 2))
  | 5 => some (.stg8 (fld w 16 6) (fld w 10 6) (fld w 7 3) (fld w 5 2) (fld w 3 2))
  | 6 => some (.poll (fld w 16 6) (fld w 10 6) (fld w 7 3) (fld w 5 2) (fld w 3 2))
  | _ => none

/-- Major 0x34 (R150 to R153). -/
def parse34 (w : Word) : Option Instr :=
  some (.atom (fld w 16 6) (fld w 10 6) (fld w 7 3) (fld w 5 2) (fld w 3 2) (fld w 0 3))

/-- Major 0x35 (R150 to R153). -/
def parse35 (w : Word) : Option Instr :=
  match (fld w 0 4).toNat with
  | 0 => some (.fence (fld w 4 2))
  | 1 => some (.waitc (fld w 10 6) (fld w 8 2))
  | 2 => some (.txl (fld w 16 3) (fld w 10 6))
  | _ => none

/-- Major 0x36 (R150 to R153). -/
def parse36 (w : Word) : Option Instr :=
  match (fld w 0 4).toNat with
  | 0 => some (.ringTicket (fld w 16 6) (fld w 4 4))
  | 1 => some (.ringFill (fld w 10 6) (fld w 4 4))
  | 2 => some (.ringTake (fld w 16 6) (fld w 4 4))
  | 3 => some (.ringFree (fld w 4 4))
  | _ => none

/-- Major 0x37 (R150 to R153). -/
def parse37 (w : Word) : Option Instr :=
  match (fld w 0 4).toNat with
  | 0 => some (.thset (fld w 16 6) (fld w 10 6) (fld w 8 1) (fld w 4 4))
  | 1 => some (.thget (fld w 16 6) (fld w 10 6) (fld w 8 1) (fld w 4 4))
  | 2 => some (.tld (fld w 16 6) (fld w 10 6) (fld w 4 4))
  | 3 => some (.tst (fld w 16 6) (fld w 10 6) (fld w 4 4))
  | _ => none

/-- Major 0x38 (R150 to R153). -/
def parse38 (w : Word) : Option Instr :=
  match (fld w 0 4).toNat with
  | 0 => some (.barArv (fld w 4 4))
  | 1 => some (.barWait (fld w 4 4))
  | 2 => some (.cueBar (fld w 4 4))
  | _ => none

/-- Major 0x39 (R150 to R153). -/
def parse39 (w : Word) : Option Instr :=
  match (fld w 0 4).toNat with
  | 0 => some (.semadd (fld w 16 6) (fld w 4 12))
  | 1 => some (.semwait (fld w 16 6) (fld w 4 12))
  | _ => none

/-- Major 0x3a (R150 to R153). -/
def parse3A (w : Word) : Option Instr :=
  match (fld w 0 4).toNat with
  | 0 => some (.nestLaunch (fld w 10 6))
  | 1 => some (.nestBound (fld w 10 6) (fld w 4 6))
  | 2 => some (.spawn (fld w 16 6) (fld w 10 6) (fld w 4 6))
  | 3 => some (.bin (fld w 10 6) (fld w 4 6))
  | _ => none

/-- Major 0x3b (R150 to R153). -/
def parse3B (w : Word) : Option Instr :=
  match (fld w 0 4).toNat with
  | 0 => some (.collPost (fld w 16 6) (fld w 10 6))
  | 1 => some (.collTest (fld w 16 6) (fld w 10 6))
  | 2 => some (.collLeave (fld w 10 6))
  | _ => none

/-- Major 0x3c (R150 to R153). -/
def parse3C (w : Word) : Option Instr :=
  match (fld w 0 4).toNat with
  | 0 => some (.mldw (fld w 16 6))
  | 8 => some (.mldwH (fld w 16 6))
  | 1 => some (.mflip)
  | 2 => some (.mmao (fld w 16 6) (fld w 10 6) (fld w 4 6))
  | 10 => some (.mmaoH (fld w 16 6) (fld w 10 6) (fld w 4 6))
  | 3 => some (.mmaw (fld w 16 6) (fld w 10 6) (fld w 4 6))
  | 11 => some (.mmawH (fld w 16 6) (fld w 10 6) (fld w 4 6))
  | 4 => some (.msho (fld w 16 6))
  | _ => none

/-- Major 0x3d (R150 to R153). -/
def parse3D (w : Word) : Option Instr :=
  match (fld w 0 4).toNat with
  | 0 => some (.macq (fld w 16 6) (fld w 10 6))
  | 1 => some (.mrel (fld w 16 6))
  | 2 => some (.mzero)
  | 3 => some (.mfuse (fld w 16 6))
  | 4 => some (.gcfg (fld w 16 6))
  | 5 => some (.lscan (fld w 16 6) (fld w 10 6) (fld w 4 6))
  | 6 =>
    match (fld w 10 6).toNat with
    | 0 => some (.mstatSt (fld w 16 6))
    | 1 => some (.mstatClr (fld w 16 6))
    | 2 => some (.mstatSetfmt (fld w 16 6))
    | 3 => some (.mstatGetfmt (fld w 16 6))
    | 4 => some (.mstatState (fld w 16 6))
    | _ => none
  | _ => none

/-- Major 0x3e (R150 to R153). -/
def parse3E (w : Word) : Option Instr :=
  match (fld w 0 4).toNat with
  | 0 => some (.cbSubmit (fld w 10 6) (fld w 4 6))
  | 1 => some (.cbSemwait (fld w 16 6) (fld w 4 12))
  | 2 => some (.cbSemadd (fld w 16 6) (fld w 4 12))
  | 3 => some (.cbIrq (fld w 4 12))
  | _ => none

/-- Major 0x3f (R150 to R153). -/
def parse3F (w : Word) : Option Instr :=
  match (fld w 0 4).toNat with
  | 0 => some (.trap (fld w 4 12))
  | 1 => some (.eret)
  | 2 => some (.csrr (fld w 16 6) (fld w 4 12))
  | 3 => some (.csrw (fld w 16 6) (fld w 4 12))
  | 4 =>
    match (fld w 4 6).toNat with
    | 0 => some (.tlbinv (fld w 10 6))
    | 1 => some (.tlbinvS2 (fld w 10 6))
    | 2 => some (.tlbinvAll)
    | 3 => some (.tlbinvS2All)
    | _ => none
  | 5 => some (.mappg (fld w 16 6) (fld w 10 6) (fld w 4 6))
  | 6 => some (.mdef (fld w 10 6) (fld w 4 6))
  | 7 => some (.time (fld w 16 6))
  | 8 => some (.perfr (fld w 16 6) (fld w 10 6))
  | 9 => some (.frec (fld w 16 6) (fld w 10 6) (fld w 4 6))
  | 10 => some (.unpark (fld w 10 6))
  | 11 => some (.smsg (fld w 10 6) (fld w 4 6))
  | 12 => some (.halt)
  | 15 => some (.pool (fld w 4 18))
  | _ => none

/-- Major 0x03, LIMM, with the word that follows it (R146, R165). -/
def parse03 (w nxt : Word) : Option Instr :=
  match (fld w 0 16).toNat with
  | 0 => some (.limmI32 (fld w 16 6) nxt)
  | 1 => some (.limmN32 (fld w 16 6) nxt)
  | _ => none

/-- The instruction whose function code and fields the word holds, before the checks of R154. -/
def parse (w nxt : Word) : Option Instr :=
  match fMaj w with
  | 3 => parse03 w nxt
  | 0 => parse00 w
  | 1 => parse01 w
  | 2 => parse02 w
  | 4 => parse04 w
  | 5 => parse05 w
  | 6 => parse06 w
  | 7 => parse07 w
  | 8 => parse08 w
  | 9 => parse09 w
  | 16 => parse10 w
  | 17 => parse11 w
  | 18 => parse12 w
  | 19 => parse13 w
  | 20 => parse14 w
  | 21 => parse15 w
  | 22 => parse16 w
  | 24 => parse18 w
  | 25 => parse19 w
  | 26 => parse1A w
  | 27 => parse1B w
  | 28 => parse1C w
  | 29 => parse1D w
  | 30 => parse1E w
  | 31 => parse1F w
  | 32 => parse20 w
  | 33 => parse21 w
  | 34 => parse22 w
  | 35 => parse23 w
  | 36 => parse24 w
  | 37 => parse25 w
  | 38 => parse26 w
  | 48 => parse30 w
  | 49 => parse31 w
  | 50 => parse32 w
  | 51 => parse33 w
  | 52 => parse34 w
  | 53 => parse35 w
  | 54 => parse36 w
  | 55 => parse37 w
  | 56 => parse38 w
  | 57 => parse39 w
  | 58 => parse3A w
  | 59 => parse3B w
  | 60 => parse3C w
  | 61 => parse3D w
  | 62 => parse3E w
  | 63 => parse3F w
  | _ => none

/-- The word decodes as `i` when `i`'s encoding is the word (so every must-be-zero field is zero) and its operands
obey R147 to R154. -/
def accept (k : Kind) (w nxt : Word) (i : Instr) : Bool :=
  (decide (encode i = [unframed w]) || decide (encode i = [unframed w, nxt])) && i.wf k

/-- The decoder of a unit of kind `k` on a word and the word after it: the checks of R157, step 2, in their order.
A POOL marker is an instruction here (R158), which R157 checks before the other conditions of R154: its C and STALL fields
decide nothing (log entry 23). -/
def decode (k : Kind) (w nxt : Word) : Except DecErr Instr :=
  if !majorAssigned (fMaj w) then .error .unassignedMajor
  else if !majorExecuted k w then
    .error (if k = .cue ∨ (k = .cast ∧ fMaj w ≠ 0x3E) then .cueMisuse else .illegalMajor)
  else
    match parse w nxt with
    | none => .error .reserved
    | some i => if accept k w nxt i then .ok i else .error .reserved

/-! ### The stagehands: RV32IMC, Zicsr and Xstage (R260, R263) -/

/-- The I immediate of a RISC-V word. -/
def rvImmI (w : Word) : Word := (fld w 20 12).signExtend 32
/-- The S immediate. -/
def rvImmS (w : Word) : Word := (fld w 25 7 ++ fld w 7 5 : BitVec 12).signExtend 32
/-- The B immediate. -/
def rvImmB (w : Word) : Word := (fld w 31 1 ++ fld w 7 1 ++ fld w 25 6 ++ fld w 8 4 ++ 0#1 : BitVec 13).signExtend 32
/-- The U immediate. -/
def rvImmU (w : Word) : Word := (fld w 12 20 ++ 0#12 : BitVec 32)
/-- The J immediate. -/
def rvImmJ (w : Word) : Word := (fld w 31 1 ++ fld w 12 8 ++ fld w 20 1 ++ fld w 21 10 ++ 0#1 : BitVec 21).signExtend 32

/-- The Xstage word of a custom-0 or custom-1 opcode, before its must-be-zero checks (R263). -/
def parseX (w : Word) : Option Instr :=
  let a := fld w 15 5
  let b := fld w 20 5
  match (fld w 0 7).toNat, (fld w 12 3).toNat with
  | 0x0B, 0 => some (.tcopyIn (fld w 25 4) b a)
  | 0x0B, 1 => some (.tcopyOut (fld w 25 4) b a)
  | 0x0B, 2 => some (.xhSet (fld w 29 3) (fld w 25 4) b a)
  | 0x0B, 3 => some (.xwait a)
  | 0x0B, 4 => some (.xfence (fld w 25 2))
  | 0x0B, 5 => some (.xbin b a)
  | 0x0B, 6 => if fld w 25 1 = 0#1 then some (.xsemAdd b a) else some (.xsemWait b a)
  | 0x0B, 7 => some .xexit
  | 0x2B, 0 => some (.rngTkt (fld w 25 4) (fld w 7 5))
  | 0x2B, 1 => some (.rngPut (fld w 25 4) a)
  | 0x2B, 2 => some (.rngGet (fld w 25 4) (fld w 7 5))
  | 0x2B, 3 => some (.rngRel (fld w 25 4))
  | _, _ => none

/-- The immediate operation that a funct3 names; shifts need their funct7 (RV32I). -/
def rvOpImm (w : Word) : Rv :=
  let d := fld w 7 5
  let a := fld w 15 5
  let i := rvImmI w
  let sh : Word := (fld w 20 5).setWidth 32
  match (fld w 12 3).toNat with
  | 0 => .opi .add d a i
  | 1 => if fld w 25 7 = 0#7 then .opi .sll d a sh else .illegal
  | 2 => .opi .slt d a i
  | 3 => .opi .sltu d a i
  | 4 => .opi .xor d a i
  | 5 => if fld w 25 7 = 0#7 then .opi .srl d a sh else if fld w 25 7 = 0x20#7 then .opi .sra d a sh else .illegal
  | 6 => .opi .or d a i
  | _ => .opi .and d a i

/-- The register operation that funct7 and funct3 name (RV32I and M). -/
def rvOp (w : Word) : Rv :=
  let d := fld w 7 5
  let a := fld w 15 5
  let b := fld w 20 5
  match (fld w 25 7).toNat, (fld w 12 3).toNat with
  | 0, 0 => .op .add d a b
  | 0, 1 => .op .sll d a b
  | 0, 2 => .op .slt d a b
  | 0, 3 => .op .sltu d a b
  | 0, 4 => .op .xor d a b
  | 0, 5 => .op .srl d a b
  | 0, 6 => .op .or d a b
  | 0, 7 => .op .and d a b
  | 0x20, 0 => .op .sub d a b
  | 0x20, 5 => .op .sra d a b
  | 1, 0 => .md .mul d a b
  | 1, 1 => .md .mulh d a b
  | 1, 2 => .md .mulhsu d a b
  | 1, 3 => .md .mulhu d a b
  | 1, 4 => .md .div d a b
  | 1, 5 => .md .divu d a b
  | 1, 6 => .md .rem d a b
  | 1, 7 => .md .remu d a b
  | _, _ => .illegal

/-- A 32-bit RISC-V word of RV32IM with Zicsr. ECALL, MRET, WFI and SFENCE.VMA are illegal (R260). -/
def parseRv (w : Word) : Rv :=
  let d := fld w 7 5
  let a := fld w 15 5
  let b := fld w 20 5
  let f := (fld w 12 3).toNat
  match (fld w 0 7).toNat with
  | 0x37 => .lui d (rvImmU w)
  | 0x17 => .auipc d (rvImmU w)
  | 0x6F => .jal d (rvImmJ w)
  | 0x67 => if f = 0 then .jalr d a (rvImmI w) else .illegal
  | 0x63 =>
    match f with
    | 0 => .br .beq a b (rvImmB w)
    | 1 => .br .bne a b (rvImmB w)
    | 4 => .br .blt a b (rvImmB w)
    | 5 => .br .bge a b (rvImmB w)
    | 6 => .br .bltu a b (rvImmB w)
    | 7 => .br .bgeu a b (rvImmB w)
    | _ => .illegal
  | 0x03 =>
    match f with
    | 0 => .ld .lb d a (rvImmI w)
    | 1 => .ld .lh d a (rvImmI w)
    | 2 => .ld .lw d a (rvImmI w)
    | 4 => .ld .lbu d a (rvImmI w)
    | 5 => .ld .lhu d a (rvImmI w)
    | _ => .illegal
  | 0x23 =>
    match f with
    | 0 => .st .sb a b (rvImmS w)
    | 1 => .st .sh a b (rvImmS w)
    | 2 => .st .sw a b (rvImmS w)
    | _ => .illegal
  | 0x13 => rvOpImm w
  | 0x33 => rvOp w
  | 0x0F =>
    match f with
    | 0 => .fence
    | 1 => .fenceI
    | _ => .illegal
  | 0x73 =>
    match f with
    | 0 => if fld w 7 25 = 0x2000#25 then .ebreak else .illegal
    | 1 => .csr .rw d a (fld w 20 12)
    | 2 => .csr .rs d a (fld w 20 12)
    | 3 => .csr .rc d a (fld w 20 12)
    | 5 => .csr .rwi d a (fld w 20 12)
    | 6 => .csr .rsi d a (fld w 20 12)
    | 7 => .csr .rci d a (fld w 20 12)
    | _ => .illegal
  | _ => .illegal

/-- The full register that a three-bit compressed field names. -/
def rvc (r : BitVec 3) : BitVec 5 := (1#2 ++ r : BitVec 5)

/-- A compressed instruction expanded to its standard form (RV32C). -/
def parseRvc (h : BitVec 16) : Rv :=
  let f (lo n : Nat) : BitVec n := h.extractLsb' lo n
  let rd := f 7 5
  let r2 := f 2 5
  let rdc := rvc (f 7 3)
  let r2c := rvc (f 2 3)
  let imm6 : Word := (f 12 1 ++ f 2 5 : BitVec 6).signExtend 32
  let jimm : Word :=
    (f 12 1 ++ f 8 1 ++ f 9 2 ++ f 6 1 ++ f 7 1 ++ f 2 1 ++ f 11 1 ++ f 3 3 ++ 0#1 : BitVec 12).signExtend 32
  let bimm : Word := (f 12 1 ++ f 5 2 ++ f 2 1 ++ f 10 2 ++ f 3 2 ++ 0#1 : BitVec 9).signExtend 32
  let wimm : Word := (f 5 1 ++ f 10 3 ++ f 6 1 ++ 0#2 : BitVec 7).setWidth 32
  let sh : Word := (f 2 5).setWidth 32
  match (f 0 2).toNat, (f 13 3).toNat with
  | 0, 0 =>
    let i : BitVec 10 := f 7 4 ++ f 11 2 ++ f 5 1 ++ f 6 1 ++ 0#2
    if i = 0#10 then .illegal else .opi .add r2c 2#5 (i.setWidth 32)
  | 0, 2 => .ld .lw r2c rdc wimm
  | 0, 6 => .st .sw rdc r2c wimm
  | 1, 0 => .opi .add rd rd imm6
  | 1, 1 => .jal 1#5 jimm
  | 1, 2 => .opi .add rd 0#5 imm6
  | 1, 3 =>
    if imm6 = 0#32 then .illegal
    else if rd = 2#5 then
      .opi .add 2#5 2#5 ((f 12 1 ++ f 3 2 ++ f 5 1 ++ f 2 1 ++ f 6 1 ++ 0#4 : BitVec 10).signExtend 32)
    else .lui rd (imm6 <<< 12)
  | 1, 4 =>
    match (f 10 2).toNat with
    | 0 => if f 12 1 = 0#1 then .opi .srl rdc rdc sh else .illegal
    | 1 => if f 12 1 = 0#1 then .opi .sra rdc rdc sh else .illegal
    | 2 => .opi .and rdc rdc imm6
    | _ =>
      if f 12 1 = 1#1 then .illegal
      else match (f 5 2).toNat with
        | 0 => .op .sub rdc rdc r2c
        | 1 => .op .xor rdc rdc r2c
        | 2 => .op .or rdc rdc r2c
        | _ => .op .and rdc rdc r2c
  | 1, 5 => .jal 0#5 jimm
  | 1, 6 => .br .beq rdc 0#5 bimm
  | 1, 7 => .br .bne rdc 0#5 bimm
  | 2, 0 => if f 12 1 = 0#1 then .opi .sll rd rd sh else .illegal
  | 2, 2 =>
    if rd = 0#5 then .illegal
    else .ld .lw rd 2#5 ((f 2 2 ++ f 12 1 ++ f 4 3 ++ 0#2 : BitVec 8).setWidth 32)
  | 2, 4 =>
    if f 12 1 = 0#1 then
      if r2 = 0#5 then (if rd = 0#5 then .illegal else .jalr 0#5 rd 0#32) else .op .add rd 0#5 r2
    else if r2 = 0#5 then (if rd = 0#5 then .ebreak else .jalr 1#5 rd 0#32)
    else .op .add rd rd r2
  | 2, 6 => .st .sw 2#5 r2 ((f 7 2 ++ f 9 4 ++ 0#2 : BitVec 8).setWidth 32)
  | _, _ => .illegal

/-- The instruction that a stagehand reads from a word of its instruction store: an Xstage word, or a standard
instruction of 32 or 16 bits. A nonzero must-be-zero field of an Xstage word is an illegal instruction (R262). -/
def decodeHand (w : Word) : Instr :=
  if fld w 0 2 = 3#2 then
    match parseX w with
    | some i => if encode i = [w] then i else .stagehandInstruction .illegal false
    | none => .stagehandInstruction (parseRv w) false
  else .stagehandInstruction (parseRvc (w.extractLsb' 0 16)) true

/-- The kind of unit whose decoder reads a word: the majors that only the cue stream and only a Callboard core
execute belong to those, and every other word to a cast (R155). -/
def kindOf (w : Word) : Kind :=
  if fMaj w = 0x3C ∨ fMaj w = 0x3D then .cue else if fMaj w = 0x3E then .board else .cast

/-- The instruction that the opcode table's bits name, read by the decoder of the unit that executes it: the low
word is the word (the first of the two for LIMM), the next 32 bits the word after it. A word that the Dexfy decoders
refuse and that is an Xstage word is read by the stagehands' decoder, since the two instruction sets never meet in
one store (R155, R260). -/
def decodeTableWord (_nbits w : Nat) : Option Instr :=
  let w0 : Word := BitVec.ofNat 32 w
  let w1 : Word := BitVec.ofNat 32 (w / 2 ^ 32)
  match decode (kindOf w0) w0 w1 with
  | .ok i => some i
  | .error _ =>
    match parseX w0 with
    | some i => if encode i = [w0] then some i else none
    | none => none

end Sys2Proof
end

