-- ==== Sys2Proof/Machine/State.lean ====
section
/-! DEFINITION. The state of a D8 module, as plain data: every piece of state that the spec names, the work its
engines hold, and the model's own bookkeeping of what happens next. -/

namespace Sys2Proof.Machine

/-- Byte memory: sorted cells, none equal to what an unlisted address reads (log entry 3). -/
abbrev Memory := List Host.Cell

/-- The canonical form: addresses strictly rise and no cell holds the unlisted byte. -/
def Memory.wf : Memory → Bool
  | [] => true
  | (a, b) :: m => decide (b ≠ Config.unlisted) && m.all (fun c => decide (a < c.1)) && Memory.wf m

/-- The trap causes of R351, with `none` for the code 0x00 of a HALT record (R350). -/
inductive Cause where
  | none | illegalInstr | reservedEncoding | execData | stallShort | privViolation | operandShape | misaligned
  | scratchBounds | pageFault | protFault | nonCanonical | topCross | stage2Fault | poisoned | ringMisuse
  | handleInvalid | cueMisuse | divStackOverflow | breakpoint | nestBound | watchdog | collectiveAbort | sealRefused
  | uncorrectableECC
  deriving DecidableEq, Repr

/-- Why the machine stops. -/
inductive Fault where
  /-- A word was executed and the unit at issue does not exist. No step of the machine raises it: the issue logic
  names only units that exist. Safe. -/
  | noUnit
  deriving DecidableEq, Repr

/-- Why an instruction has no meaning. -/
inductive Refusal where
  /-- An instruction whose meaning is not modelled, by its mnemonic. Safe. -/
  | notModelled (mnemonic : String)
  deriving DecidableEq, Repr

/-- An exact value of a number format (R90): a NaN, an infinity, or (−1)^neg × m × 2^e. -/
inductive Num where
  | nan
  | inf (neg : Bool)
  | fin (neg : Bool) (m : Nat) (e : Int)
  deriving DecidableEq, Repr

/-- A vector register's value with its shape tag (R64). -/
inductive VVal where
  | uni (v : Word)
  | aff (b s : Word)
  | gen (lanes : List Word)
  deriving DecidableEq, Repr

/-- A value of a window entry: scalar or vector (R61, R63). -/
inductive WVal where
  | scalar (v : Dword)
  | vec (v : VVal)
  deriving DecidableEq, Repr

/-- A window entry, the first cycle in which it may be read, and the window that stood before its group issued
(R11, R72). -/
structure WEnt where
  val : WVal
  ready : Nat
  before : List WVal
  deriving DecidableEq, Repr

/-- A tensor handle: eight 64-bit fields (R215). -/
abbrev Handle := Vector Dword 8

/-- A translation register (R61, R124), with the base and size of the stage-1 page that its walk found. -/
structure Tx where
  base : Dword
  frame : Dword
  limit : Dword
  /-- R, W, X of both stages, and the stage-1 U bit (R123, R124). -/
  r : Bool
  w : Bool
  x : Bool
  u : Bool
  page : Dword
  pageSize : Nat
  deriving DecidableEq, Repr

/-- The registers of one handler level (R246), the MSTEP kept beside xEPC (R340), and the path that is inside a
handler of this level (R342). -/
structure Level where
  tvec : Word
  epc : Word
  cause : Word
  em : Word
  park : Word
  tval : Dword
  scr : Dword
  mstep : Option Nat
  busy : Option Nat
  deriving DecidableEq, Repr

/-- A word that holds its path until it can act (R70), with the issue context it re-enters. -/
structure Held where
  instr : Instr
  pos : Nat
  mstep : Option Nat
  word : Word
  nextPos : Nat
  after : Nat
  afterStep : Option Nat
  em : Word
  fm : Word
  since : Nat
  /-- The scalar sources as they were read at issue. -/
  vals : List Dword
  /-- An engine's event, and no retry, lets the word proceed. -/
  asleep : Bool
  /-- Issue order of the word, which the engine's event names. -/
  tag : Nat
  /-- Its group has not issued: the group waits for what this word's engine answers (R220, R253, R254, R306, R339). -/
  leads : Bool
  deriving DecidableEq, Repr

/-- The lanes of a path that are parked or wait at the meeting word (R343 to R345), and the level of the code that
runs on. -/
structure RunOn where
  plvl : BitVec 2
  /-- Lanes that a far access has parked and that no handler has been entered for. -/
  parked : Word
  /-- Lanes that wait at the meeting word. -/
  wait : Word
  /-- The meeting position, once the run-on has found it. -/
  meet : Option (Nat × Option Nat)
  deriving DecidableEq, Repr

/-- A handler entry that waits until the cast's level is free (R342), with what R245 writes. -/
structure Trap where
  level : Nat
  cause : Nat
  tval : Dword
  epc : Nat
  mstep : Option Nat
  em : Word
  park : Word
  /-- The one fault record of a whole-path fault (R403), else nothing. -/
  record : List Dword
  deriving DecidableEq, Repr

/-- A path (R61). A path that is not `live` is an empty slot. -/
structure Path where
  live : Bool
  /-- Identity of the path, for accesses that it has issued. -/
  pid : Nat
  /-- Code position: packet × 4 + word (R61). -/
  pc : Nat
  /-- Index of the next macro operation, inside a macro (R84). -/
  mstep : Option Nat
  em : Word
  fm : Word
  cf : Bool
  plvl : BitVec 2
  /-- Index of the parent join record (R61, R74). -/
  parent : Option Nat
  win : List WEnt
  /-- The first cycle in which the next group may issue (R9, R71, R76, R163). -/
  readyAt : Nat
  /-- The bank delay of the next group is already part of `readyAt` (R71, R111). -/
  delayed : Bool
  held : Option Held
  /-- Further words of its group that hold it: they wait with the first, or until it no longer holds the path. -/
  also : List Held
  /-- Demoted behind its sibling (R79), or a new path behind its sibling (R74). -/
  demoted : Bool
  /-- The unbound acquire whose path issues no further memory word (R207). -/
  acq : Option Nat
  /-- Runs of unparked lanes, the innermost first (a handler's own accesses may park lanes too). -/
  runs : List RunOn
  /-- A handler entry that waits for its level (R342). -/
  entry : Option Trap
  deriving DecidableEq, Repr

/-- A slot with no path. -/
def Path.none : Path :=
  { live := false, pid := 0, pc := 0, mstep := .none, em := 0, fm := 0, cf := false, plvl := 0, parent := .none,
    win := [], readyAt := 0, delayed := false, held := .none, also := [], demoted := false, acq := .none, runs := [], entry := .none }

/-- A register whose newest result is not yet readable, with the value an early read returns (R72); of a vector register the
lanes that the result was written to. -/
inductive Pend where
  | s (n : Nat) (prev : Dword) (ready stamp : Nat)
  | v (n : Nat) (prev : VVal) (ready stamp : Nat) (mask : Word)
  deriving DecidableEq, Repr

/-- The counter classes of R114; `copy` is a stagehand's copy counter (R264) and `fetch` a matrix word's handle
fetch, which no counter counts (R241). -/
inductive Cls where
  | g | a | t | x | copy | fetch
  deriving DecidableEq, Repr

/-- What one stage of a walk found: the base of the page, its size, the address that the base maps to, the
permissions and U, the physical address of the leaf, its MV bit, and the entry as it was read (R123, R125, R353). -/
structure Leaf where
  base : Nat
  size : Nat
  target : Nat
  r : Bool
  w : Bool
  x : Bool
  u : Bool
  entry : Nat
  moving : Bool
  word : Dword
  deriving DecidableEq, Repr

/-- A finished translation: both leaves and the physical address. -/
structure Xlat where
  one : Leaf
  two : Leaf
  pa : Nat
  deriving DecidableEq, Repr

/-- The leaves of both stages through which a lane was translated: the addresses of their entries and what the walk
read there (R353). -/
structure Hit where
  one : Nat
  two : Nat
  w1 : Dword
  w2 : Dword
  deriving DecidableEq, Repr

/-- An operation that a unit has issued to an engine (R80, R114). -/
structure FarOp where
  /-- Issue order, device-wide. -/
  id : Nat
  unit : UnitId
  pid : Nat
  instr : Instr
  pos : Nat
  mstep : Option Nat
  /-- The position after the word (R343). -/
  after : Nat
  afterStep : Option Nat
  word : Word
  cls : Cls
  /-- Lanes that the word issued, and those whose part is unperformed (R142). -/
  lanes : Word
  todo : Word
  /-- Per lane: the virtual address, or the device scratchpad address of a remote word. -/
  va : List Dword
  /-- Lanes whose exact address lies outside 64 bits (R211). -/
  wild : Word
  /-- Per lane: a physical address already known, through a translation register or a walk. -/
  pa : List (Option Nat)
  /-- Per lane: the leaves through which it was translated (R353). -/
  hits : List (Option Hit)
  data : List Word
  data2 : List Word
  /-- Old words that an atomic returned, until they are written. -/
  old : List Word
  dest : Option Nat
  rel : Bool
  acq : Bool
  scope : BitVec 2
  level : BitVec 2
  /-- Translated and checked against its final translation (R116). -/
  checked : Bool
  /-- Finished, and held in issue order within its class (R114). -/
  done : Bool
  /-- Writes held for a page move (R125). -/
  moving : Bool
  /-- Copied handle, origin, extent and scratchpad address of a tile (R217, R265). -/
  tile : List Dword
  /-- Rows of the tile that have been moved. -/
  rows : Nat
  /-- Pages of a tile's tensor that have been translated and checked, by virtual page number (R116). -/
  pages : List (Nat × Xlat) := []
  /-- Bytes of a write held for a page move, by physical address: loads of the troupe are served from them (R125). -/
  shown : List (Nat × Byte) := []
  /-- Lines of a write that a page move has held: it keeps its order on them until it performs (R125). -/
  lines : List Nat := []
  /-- An access of the same path that is younger has performed, so that this one can no longer be rolled back to (R142). -/
  passed : Bool := false
  /-- The requests do not fit among those of the Usher, and wait in the memory pipe (R117). -/
  stuck : Bool := false
  /-- Lines that an error has poisoned in the Usher's fill (R360). -/
  spoiled : List Nat := []
  deriving DecidableEq, Repr

/-- A parked lane: its fault record (R250) and the access that ERET replays (R249). -/
structure Park where
  lane : Nat
  level : Nat
  pid : Nat
  rec0 : Dword
  rec1 : Dword
  rec2 : Dword
  rec3 : Dword
  cause : Cause
  op : FarOp
  deriving DecidableEq, Repr

/-- A register named by an undo-log entry, with its old value (R80, R355). -/
inductive Saved where
  | s (n : Nat) (v : Dword)
  | v (n : Nat) (v : VVal)
  | tx (n : Nat) (v : Tx)
  | h (n : Nat) (v : Handle)
  | em (v : Word)
  | fm (v : Word)
  | cf (v : Bool)
  /-- A handle of the troupe's cue stream, which THSET.q writes (R216). -/
  | hq (n : Nat) (v : Handle)
  /-- The model's own: what ERET takes from a level, its parked lanes and its whole-path record (R249). -/
  | ret (n : Nat) (l : Level) (ks : List Park) (w : List (Nat × List Dword))
  deriving DecidableEq, Repr

/-- An undo-log entry: what it saved, the path that wrote, and when (R355). -/
structure Undo where
  saved : Saved
  pid : Nat
  stamp : Nat
  pos : Nat
  /-- The lanes that a vector write held. -/
  em : Word
  /-- The model's own: no far access of the unit was unperformed, and the entry serves a fault of a TXL of its group (R80, R403). -/
  own : Bool := false
  deriving DecidableEq, Repr

/-- The registers of a unit that executes Dexfy words: a cast (R61), a cue stream (R85), whose q0 to q15 are
`s` 0 to 15 and whose one path is slot A, or a Callboard context (R155, R276), which uses s0 to s47 and slot A. -/
structure Ctx where
  s : Vector Dword 48
  v : Vector VVal 56
  st : BitVec 7
  tx : Vector Tx 8
  h : Vector Handle 16
  cctl : Word
  dsmap : Dword
  nspill : Nat
  next : BitVec 8
  sup : Level
  hyp : Level
  a : Path
  b : Path
  /-- What a spilled path keeps beside its stack entry, by entry index. -/
  spilled : List (Nat × Path)
  undo : List Undo
  pend : List Pend
  parked : List Park
  /-- The one record of a whole-path fault, by the level of its handler (R403). -/
  whole : List (Nat × List Dword)
  /-- Post ordinal (R316) and scenes committed (R182). -/
  ordinal : Nat
  scseq : Word
  sceneAt : Option Nat
  /-- Registers that hold poison (R361): scalar registers, 64 + n for a translation register, 128 + 8h + k for field k of a
  handle; vector registers by 32n + lane. -/
  poisonS : List Nat
  poisonV : List Nat
  nextPid : Nat
  /-- A cue stream that has ended (R85), or a context whose sheet has ended. -/
  ended : Bool
  deriving DecidableEq, Repr

/-- A Rigger or Striker (R260, R261). -/
structure Hand where
  x : Vector Word 32
  pc : Word
  instrs : Memory
  data : Memory
  h : Vector Handle 16
  mcycle : Dword
  minstret : Dword
  exited : Bool
  started : Bool
  readyAt : Nat
  /-- The instruction that stalls the stagehand; while it is asleep, an engine's event lets it proceed. -/
  held : Option Instr
  asleep : Bool
  tag : Nat
  /-- Poisoned words of the data store, and 0x2000 + 8h + k for field k of a handle, 0x3000 + k for register k, 0x4000 + n for word n
  of the instruction store (R361). -/
  poison : List Nat
  deriving DecidableEq, Repr

/-- A ring: RDESC, RSTAT and the FULL bits (R119). -/
structure Ring where
  desc : Dword
  tail : BitVec 16
  head : BitVec 16
  freed : BitVec 16
  full : List Nat
  deriving DecidableEq, Repr

/-- The participants that have a pending arrival at a barrier (R16, R218). -/
abbrev Arrivals := List UnitId

/-- A weight plane with its records (R222, R232): its format, whether a handle supplied it, P and the width class of
the activations. -/
structure Plane where
  loaded : Bool
  fmt : Nat
  fromHandle : Bool
  p : Nat
  cls : Nat
  structured : Bool
  /-- Decoded weights by column j and depth k; nothing at a position that a 2:4 group does not keep. -/
  rows : List (List (Option Num))
  deriving DecidableEq, Repr

/-- A taken accumulator slot: its recorded format and its words by row and column; a word that is not listed is zero
(R222, R234). -/
structure Slot where
  fmt : BitVec 2
  rows : List (List Word)
  deriving DecidableEq, Repr

/-- The matrix engines (R226); MSTAT uses none. -/
inductive Engine where
  | loader | array | gate | control | none
  deriving DecidableEq, Repr

/-- What two matrix words may conflict in (R226); `stSet` is the setting of sticky bits, an area runs from a
scratchpad byte to before another. -/
inductive Res where
  | cells | active | shadow | slot (n : Nat) | gate | fm | st | stSet | area (lo hi : Nat)
  deriving DecidableEq, Repr

/-- An issued matrix word (R226, R227): the cycle of its completion, once that is known, and whether it has
completed. An H form keeps its operand words, fm and slot mask for its fetch (R241). -/
structure MatOp where
  id : Nat
  engine : Engine
  instr : Instr
  vals : List Dword
  fm : Word
  mask : Nat
  reads : List Res
  writes : List Res
  due : Option Nat
  done : Bool
  deriving DecidableEq, Repr

/-- Matrix state of a troupe (R222). A cell that is not listed is zero. -/
structure Matrix where
  cells : List (List Word)
  cellFmt : Option (BitVec 2)
  active : Plane
  shadow : Plane
  slots : Map Nat Slot
  gate : List Dword
  shape : BitVec 2
  ops : List MatOp
  /-- Poisoned words (R360), by store and index as `ErrPlace.matrix` numbers them. -/
  bad : List (Nat × Nat)
  deriving DecidableEq, Repr

/-- A placed troupe (R24, R25), by its key: core × 4 + the quadrant of rank 0. -/
structure Troupe where
  core : Nat
  quads : List Nat
  shape : BitVec 2
  vdi : Nat
  slot : Nat
  point : List Int
  member : Nat
  rings : Vector Ring 16
  bars : Map Nat Arrivals
  cues : Map Nat Arrivals
  /-- Paths that wait at a troupe barrier or at a cue barrier (true): unit, barrier number, the word's issue order. -/
  waits : List (Bool × UnitId × Nat × Nat)
  mx : Matrix
  /-- NHND, and the old handle of a restored point (R246, R328). -/
  nhnd : BitVec 16
  oldHandle : Option (BitVec 16)
  /-- The first cycle in which stagehands may start, and whether the units run (R285). -/
  startAt : Nat
  started : Bool
  stopped : Bool
  /-- Rings 0 to 15 whose state an uncorrectable error has struck, and 16 for the barriers (R360). -/
  badSync : List Nat := []
  deriving DecidableEq, Repr

/-- A merging window of an Usher: its line and the operations whose lanes it gathers (R117). -/
structure Window where
  line : Nat
  opened : Nat
  reqs : List (Nat × Nat)
  deriving DecidableEq, Repr

/-- An entry of a store coalescing buffer (R118): its line, the bytes held, and the unit that stored each. -/
structure Entry where
  line : Nat
  since : Nat
  bytes : List (Nat × Byte)
  units : List UnitId
  /-- Poisoned in the buffer (R360). -/
  bad : Bool := false
  deriving DecidableEq, Repr

/-- A macro of the control store (R254): operation words and mark bytes. -/
structure Macro where
  ops : List Word
  marks : List Byte
  deriving DecidableEq, Repr

/-- What a quadrant holds beside its casts (R22). -/
structure Quad where
  macros : Map Nat Macro
  /-- Poisoned words of the control store (R360): a macro, and the place of the operation in it. -/
  badMacros : List (Nat × Nat)
  windows : List Window
  entries : List Entry
  msgs : List (Dword × UnitId)
  /-- Slots that have issued in the round (R69). -/
  round : List (Nat × Bool)
  deriving DecidableEq, Repr

/-- A frontier-table entry (R47), with the points of the row that have been released. -/
structure Row where
  key : List Int
  state : BitVec 2
  lo : Int
  hi : Int
  p : Nat
  win : BitVec 64
  released : List Int
  /-- Which of the 512 entries of the table holds the row. -/
  entry : Nat := 0
  deriving DecidableEq, Repr

/-- A saved point (R291): its resume slot, the guest physical addresses of its save areas by member and rank, and what
the model keeps beside the areas, whose layout names no place for it: rings, barriers and matrix state of its troupes, and
of its units the accesses of parked lanes and the paths' identities. -/
structure SavedPoint where
  point : List Int
  resume : Nat
  areas : List (Nat × Nat × Nat)
  troupes : List Troupe
  ctxs : List (UnitId × Ctx)
  hands : List (UnitId × Hand)
  /-- Posts that its casts' cnt.x counted at the save, and of those the issue orders of the ones that have ended since (R315). -/
  posts : List FarOp
  freed : List Nat := []
  /-- Issue order at the save. -/
  stamp : Nat := 0
  /-- Save areas that an image brought, by member and rank, until they are written to a position's areas (R328). -/
  image : List (Nat × Nat × List Byte)
  /-- A restore that waits for Proscenium to repair stage 2 (R365). -/
  suspended : Bool := false
  deriving DecidableEq, Repr

/-- A nest slot in use (R43, R44). -/
structure Nest where
  vdi : Nat
  record : List Byte
  /-- Bound B of a GROW nest (R53) and capacity of a spawn nest (R58). -/
  bound : Int
  cap : Int
  closed : Bool
  stopped : Bool
  /-- Mean point duration D (R288). -/
  dur : Option Nat
  rows : List Row
  /-- Key of the last activated row. -/
  last : Option (List Int)
  /-- The outer indices that the unit examined last (R46): a whole key, or those below which a level is empty. -/
  seek : Option (List Int)
  /-- Values that SPAWN has passed to points that have not retired (R59). -/
  vals : Map Nat Dword
  /-- Highest i0 released, in a one-level GROW nest (R53). -/
  top : Option Int
  /-- Flushed points that wait to be released again (R295), with their resume slots. -/
  flushed : List (List Int × Nat)
  /-- Saved points that wait to be restored (R294). -/
  saved : List SavedPoint
  /-- Old handles of points that an image restored (R328). -/
  olds : List (List Int × BitVec 16)
  /-- Released points that have left in an image (R326, R337). -/
  gone : List (List Int)
  /-- Points that SPAWN has appended in this cycle: release uses the table as it stood at the start of the cycle (R50, R59). -/
  appended : Nat := 0
  deriving DecidableEq, Repr

/-- What a placed point is doing (R285, R288 to R291, R346). -/
inductive Phase where
  | starting | running | draining (l at_ : Nat) | saving (l at_ : Nat) | suspended
  | halted (u : UnitId) (pos : Nat) (word : Word)
  /-- A trap at the hypervisor level has halted the troupe (R244). -/
  | trapped (u : UnitId) (cause : Cause) (pos info : Dword)
  deriving DecidableEq, Repr

/-- A placed point (R283, R302). -/
structure Point where
  slot : Nat
  point : List Int
  vdi : Nat
  members : List Nat
  resume : Nat
  placedAt : Nat
  watch : Nat
  phase : Phase
  /-- Retirement holds in the next cycle (R56). -/
  retireAt : Option Nat
  /-- Save areas of a restored point, whose VALID its first issue clears (R294). -/
  valid : List Nat
  /-- The requester of its pre-emption, to which its quadrants go when they are free (R406). -/
  asked : Option Nat := none
  deriving DecidableEq, Repr

/-- A launched record that waits for a slot (R43). -/
structure Launch where
  record : List Byte
  addr : Dword
  deriving DecidableEq, Repr

/-- A copy record in a queue or an engine (R281). -/
structure Copy where
  vdi : Nat
  addr : Dword
  w0 : Dword
  src : Dword
  dst : Dword
  len : Dword
  /-- Bytes already written. -/
  pos : Nat
  faulted : Bool
  deriving DecidableEq, Repr

/-- A queue of an interface (R273, R366), its accepted entries, the sheet that runs, and completions held inside
the device (R367). -/
structure Queue where
  en : Bool
  kind : Bool
  pri : BitVec 2
  qlog2 : BitVec 4
  qbase : Dword
  cbase : Dword
  qtail : Word
  qacc : Word
  qdone : Word
  qcack : Word
  stop : BitVec 2
  xseq : Word
  rcause : BitVec 8
  accepted : List (Word × Word × Dword)
  running : Option (Word × Word)
  finished : List (Word × Word)
  /-- Cycle since which the context waits ready, levels gained by ageing (R277), and the core that it holds. -/
  readySince : Option Nat
  aged : Nat
  core : Option Nat
  deriving DecidableEq, Repr

/-- A fault-log record (R350). -/
structure FaultRec where
  w0 : Dword
  pos : Dword
  info : Dword
  dt : Dword
  deriving DecidableEq, Repr

/-- A virtual device interface with its tenant (R272, R286, R399). -/
structure Vdi where
  img : TenantImage
  queues : Map Nat Queue
  sptr : Dword
  hptr : Dword
  plnext : Dword
  plend : Dword
  toff : Dword
  tscale : Dword
  wdlim : Nat
  reserve : Nat
  launches : List Launch
  copies : List Copy
  /-- Placement cursors by shape and gang size (R284). -/
  cursors : List (Nat × Nat × Nat)
  /-- The quadrant set that every core of the partition's rectangle gives it (R286): the image's at creation, and as requesters have
  given quadrants out since (R406). -/
  quads : List Nat
  /-- Quadrants (core × 4 + quadrant) that a pre-emption withholds, each with its requester: 0 the time-slicer, 1 Proscenium, 2 the
  hypervisor (R406). -/
  withheld : List (Nat × Nat)
  log : Map Nat FaultRec
  fltail : Word
  flack : Word
  fllost : Word
  bme : Bool
  irqSent : List Nat
  irqHeld : List Nat
  perf : Map Nat Dword
  /-- Poisoned words of the code (R360). -/
  badCode : List Nat
  timeBudget : Int
  energyBudget : Int
  /-- The energy that has been charged (R301). -/
  charged : Nat
  partFault : Bool
  saveHold : Bool
  /-- PCIe configuration space and MSI-X table of the function, as far as the host has written them, by dword (R368). -/
  pcie : Map Nat Word := []
  msixTable : Map Nat Word := []
  /-- Resume slots in use (R296). -/
  resumes : List Nat
  tmeas : List Byte
  deriving DecidableEq, Repr

/-- A cached translation of a tenant (R124, R143): a stage-1 result, and for a combined entry the stage-2 leaf with
which it was walked. -/
structure Tlb where
  vdi : Nat
  one : Leaf
  two : Option Leaf
  /-- The base and size of the stage-2 pages in which the stage-1 walk read its table entries: what is derived through a stage-2
  entry goes with it (R143). -/
  via : List (Nat × Nat) := []
  deriving DecidableEq, Repr

/-- States of a Posted Collective Table entry (R307). -/
inductive PostState where
  | free | posted | ticketed | running | complete | aborted
  deriving DecidableEq, Repr

/-- The key of a post that a cast of a point made (R316). -/
structure PostKey where
  vdi : Nat
  slot : Nat
  handle : BitVec 16
  point : List Int
  member : Nat
  cast : Nat
  scseq : Word
  ordinal : Nat
  deriving DecidableEq, Repr

/-- An entry of the Posted Collective Table (R304, R307). -/
structure Post where
  gen : Nat
  state : PostState
  vdi : Nat
  addr : Dword
  desc : List Dword
  group : Nat
  key : Option PostKey
  /-- The point still holds the entry (R316). -/
  held : Bool
  /-- Privilege level of the post. -/
  lvl : BitVec 2
  ticket : Option Dword
  n : Nat
  rank : Nat
  root : Nat
  /-- Device time of the start, and of the last flit from each rank (R370). -/
  startedAt : Dword
  heard : Map Nat Dword
  /-- Data of the other participants that has arrived, by rank and byte of their input. -/
  data : List (Nat × Nat × Byte)
  /-- Reason that the engine has reported to the home switch, or that the switch has given for an abort (R370). -/
  failed : Option Nat
  /-- The input of a running entry, once the engine has read it and sent it to the other participants. -/
  own : Option (List Byte) := none
  /-- Its staging is poisoned (R361). -/
  bad : Bool := false
  deriving DecidableEq, Repr

/-- The post window of an interface, CPOST and CPRES, with the number of writes to CPOST (R335). -/
structure PostWindow where
  cpost : Dword := 0
  cpres : Dword := 0
  writes : Nat := 0
  deriving DecidableEq, Repr

/-- The collective engine (R303 to R310). -/
structure Coll where
  /-- Post windows by interface, whether it has a tenant or not (R335). -/
  windows : Map Nat PostWindow
  posts : Map Nat Post
  /-- Group table: group, VDI, home switch endpoint, member index, withdrawn (R303). -/
  groups : List (Nat × Nat × Nat × Nat × Bool)
  /-- Leaves that await the switch's acknowledgement (R311): unit, the word's issue order, group, and the SEQ of the leave. -/
  leaving : List (UnitId × Nat × Nat × Nat)
  horizon : Nat
  /-- Reserved staging in units of 64 KiB, shares of every port, and contexts (R310). -/
  staging : Nat
  shares : Nat
  contexts : Nat
  /-- What this device's engine has reported to home switches, oldest first: ticket and reason (R370). -/
  reports : List (Dword × Nat) := []
  deriving DecidableEq, Repr

/-- An event of an engine, the host, the fabric or the module, with the operands that its constructor's docstring
names. -/
structure Event where
  kind : Instr
  unit : UnitId := .cast 0 0 0
  id : Nat := 0
  a : Nat := 0
  b : Nat := 0
  c : Nat := 0
  d : Nat := 0
  e : Nat := 0
  port : Nat := 0
  word : Word := 0
  dword : Dword := 0
  flag : Bool := false
  point : List Int := []
  points : List (Nat × List Int) := []
  bytes : List (List Byte) := []
  flit : Option Flit := none
  image : Option TenantImage := none
  place : ErrPlace := .line 0
  time : Int := 0
  energy : Int := 0
  deriving DecidableEq, Repr

/-- A Fenpin port (R374). -/
structure Port where
  up : Bool
  dgen : Nat
  dtype : Nat
  ddst : Nat
  /-- Its two route tables: of the current generation, and of the old one while it drains or of the next one while it stands by; each
  gives the port by which a destination is reached (R318). -/
  routes : List (Nat × Nat) := []
  oldRoutes : List (Nat × Nat) := []
  deriving DecidableEq, Repr

/-- A control flit that awaits its acknowledgement, with the device times of its first and last sending (R373). -/
structure Unacked where
  flit : Flit
  first : Dword
  last : Dword
  deriving DecidableEq, Repr

/-- The fabric side (R317, R318, R373 to R375). -/
structure Fabric where
  endpoint : Nat
  ports : Map Nat Port
  gen : BitVec 8
  oldGen : BitVec 8
  state : BitVec 2
  /-- Device time of the last switch-over. -/
  remapAt : Dword
  /-- Flits that have left by their port, oldest first. -/
  sent : List (Option Nat × Flit)
  unacked : List Unacked
  /-- Highest SEQ delivered and last SEQ sent of each stream, by source and destination (R317). -/
  seen : Map (Nat × Nat) (BitVec 16)
  seqs : Map (Nat × Nat) (BitVec 16)
  /-- Flits that have overtaken an earlier one of their stream, with the time of their arrival (R318). -/
  waiting : List (Dword × Event)
  /-- The model's own: how many of `sent` counter 37 has counted, and the endpoints of the flits delivered in this cycle (R299). -/
  counted : Nat := 0
  arrived : List Nat := []
  /-- Flits queued on the ports, oldest first, each with the port by which its table sends it, when there is a route (R375). -/
  queued : List (Option Nat × Flit) := []
  /-- Proscenium has written the standby tables, of the next generation (R318). -/
  standby : Bool := false
  deriving DecidableEq, Repr

/-- Progress of an SPDM session (R322). -/
inductive Spdm where
  | idle | version | capabilities | algorithms | exchanged | secured
  deriving DecidableEq, Repr

/-- The connection of an SPDM requester (R322): the shared secret of its key exchange, its public key, and the messages that the
session has protected in each direction. -/
structure Conn where
  phase : Spdm := .idle
  secret : List Byte := []
  peer : List Byte := []
  received : Nat := 0
  sent : Nat := 0
  deriving DecidableEq, Repr

/-- A restore that waits for the counter authority, with the device time of its request (R327). -/
structure Restore where
  vdi : Nat
  image : List Byte
  sentAt : Dword
  /-- SEQ of the request, which its answer names. -/
  seq : BitVec 16
  deriving DecidableEq, Repr

/-- What the secure element holds of an SPDM session with another module, as its requester: the module's endpoint, and of its report the
identity digest, FWM, the encore public key, the identity public key and the signature (R326). -/
structure Target where
  endpoint : Nat
  dst : List Byte
  fwm : List Byte
  ek : List Byte
  key : List Byte
  sig : List Byte
  deriving DecidableEq, Repr

/-- A seal that waits, with its points by slot: for the session with its target, or for the counter authority (R326). -/
structure Seal where
  vdi : Nat
  points : List (Nat × List Int)
  dst : List Byte
  ek : List Byte
  buf : Nat
  sentAt : Dword
  seq : BitVec 16
  /-- Step 1 is done: the session is held, and its report attests the target. -/
  attested : Bool := true
  deriving DecidableEq, Repr

/-- The secure element (R319 to R328). -/
structure Secure where
  meas : List (List Byte)
  /-- Step 5 of R319 has been reached. -/
  booted : Bool
  /-- Boots of the module. -/
  boots : Nat
  recovery : Bool
  failedBoots : Nat
  /-- Connections by requester: 0 the host, 1 + its endpoint a peer or switch. -/
  conns : Map Nat Conn
  /-- The last SPDM response. -/
  reply : List Byte
  ephemerals : Nat
  restore : Option Restore
  /-- Sections of authenticated images, up to one of KIND 3, that wait for a nest slot and resume slots of their interface (R328). -/
  installs : List (Nat × List (Nat × Nat × List Byte))
  sealing : Option Seal
  /-- Seals reported to Proscenium as done, oldest first: their points by slot (R326). -/
  seals : List (List (Nat × List Int))
  /-- Refused restores reported to Proscenium: reason and counter (R377). -/
  refusals : List (Nat × Dword)
  /-- Module identity digest and encore private key of this boot (R321). -/
  identity : List Byte
  encoreKey : Nat
  /-- The identity key's signature over the encore public key and FWM (R321). -/
  encoreSig : List Byte
  /-- Sessions that it holds as a requester, and the secured session with the counter authority (R326). -/
  targets : List Target := []
  authority : Conn := {}
  deriving DecidableEq, Repr

/-- The flash and its recovery window (R378). -/
structure Flash where
  mem : Memory
  buffer : Memory
  cmd : BitVec 4
  off : BitVec 28
  busy : Bool
  err : Bool
  res : BitVec 8
  verified : Bool
  /-- KEY of FRCMD. -/
  key : BitVec 8 := 0
  deriving DecidableEq, Repr

/-- A unit that issues in this cycle: a slot of a cast, a cue stream, a Callboard context or a stagehand. `resume`
re-executes the word that holds the path. -/
structure Turn where
  unit : UnitId
  slotB : Bool
  resume : Bool
  deriving DecidableEq, Repr

/-- The word at issue: its unit and slot, its position and bits, and em and fm as its group found them (R174, R180,
R245). `trap` says that the word has trapped, and whether the earlier words of its group keep their effect (R171,
R339). -/
structure Cur where
  turn : Turn
  pos : Nat
  mstep : Option Nat
  word : Word
  /-- The position after the group, and after the word. -/
  nextPos : Nat
  after : Nat
  afterStep : Option Nat
  em : Word
  fm : Word
  /-- The window as the group found it. -/
  win : List WEnt
  /-- Device-wide issue order of the group and of the word. -/
  group : Nat
  stamp : Nat
  /-- The word's issue order when it was first tried. -/
  tag : Nat
  /-- The sources of a held word, when it is tried again. -/
  vals : Option (List Dword)
  trap : Option Bool
  /-- A word of the group demotes its path, once the group has issued (R79). -/
  demote : Bool
  /-- A word of the group is a TXL, whose fault takes the later words back (R355, R403). -/
  late : Bool
  deriving DecidableEq, Repr

/-- The whole module. -/
structure State where
  cycle : Nat
  /-- DT (R255). -/
  dt : Dword
  cur : Cur
  /-- Events that happen next, in order; they come from outside (`inputs`) and from the engines (`due`). -/
  agenda : List Event
  /-- The event at hand, whose operands its meaning reads. -/
  ev : Event
  /-- Units that still issue in this cycle. -/
  issueQ : List Turn
  /-- The model's own: the units of this cycle have been chosen. -/
  scheduled : Bool
  /-- The model's own: the Nest Release Unit has begun its work of this cycle. -/
  nestTurn : Bool
  /-- The model's own: what reaches the module from outside, by cycle. -/
  inputs : List (Nat × Event)
  /-- Engine operations that finish, by cycle. -/
  due : List (Nat × Event)
  /-- The model's own counter of open values. -/
  fresh : Nat
  /-- Device-wide issue order. -/
  stamp : Nat
  ctxs : Map UnitId Ctx
  hands : Map UnitId Hand
  troupes : Map Nat Troupe
  quads : Map Nat Quad
  fars : List FarOp
  vdis : Map Nat Vdi
  nests : Map Nat Nest
  /-- Generation counters of the 64 slots (R44) and the round-robin pointer (R50). -/
  gens : Vector (BitVec 10) 64
  rr : Nat
  points : List Point
  sems : Map Nat Dword
  bins : Map Nat Dword
  mem : Memory
  scratch : Memory
  hostMem : Memory
  /-- Poisoned memory lines and scratchpad words (R360). -/
  poison : List Nat
  scratchPoison : List Nat
  /-- Corrected-error counters by block (R360). -/
  corrected : Map Nat Nat
  tlb : List Tlb
  /-- Page moves in progress (R125): the physical address of the leaf, and the base and size of the frame that it still names. -/
  moves : List (Nat × Nat × Nat)
  engines : Map Nat Copy
  coll : Coll
  fabric : Fabric
  secure : Secure
  flash : Flash
  sensors : Map Nat Dword
  /-- Blocks whose clock is stopped, and blocks that skip cycles, with the cycle in which that ends and whether droop is why (R332): quadrants by key,
  then from 1024 the L2 slices, from 1056 the HBM4E controllers, and 1072 the base die. -/
  stopped : List Nat
  skipping : List (Nat × Nat × Bool)
  /-- Current limits of the blocks, in amperes (R332). -/
  limits : Map Nat Nat
  /-- Memory behind the CXL ports: base and size (R121, R329). -/
  expanders : List (Nat × Nat)
  refLost : Bool
  /-- Units held by SMSG until their message is queued, with the word's issue order, the quadrant and the message (R257). -/
  sending : List (UnitId × Nat × Nat × Dword)
  /-- Fault records in the layout of R250 that engines have handed to Proscenium, by interface, oldest first (R359, R404). -/
  records : List (Nat × List Dword)
  deriving DecidableEq, Repr

/-- An empty level block (R246). -/
def Level.zero : Level :=
  { tvec := 0, epc := 0, cause := 0, em := 0, park := 0, tval := 0, scr := 0, mstep := .none, busy := .none }

/-- An invalid translation register (R61). -/
def Tx.zero : Tx :=
  { base := 0, frame := 0, limit := 0, r := false, w := false, x := false, u := false, page := 0, pageSize := 0 }

/-- A unit's registers with every one zero and no path (R61, R276). -/
def Ctx.zero : Ctx :=
  { s := .replicate 48 0, v := .replicate 56 (.uni 0), st := 0, tx := .replicate 8 Tx.zero,
    h := .replicate 16 (.replicate 8 0), cctl := 0, dsmap := 0, nspill := 0, next := 0, sup := Level.zero,
    hyp := Level.zero, a := Path.none, b := Path.none, spilled := [], undo := [], pend := [], parked := [],
    whole := [], ordinal := 0, scseq := 0, sceneAt := .none, poisonS := [], poisonV := [], nextPid := 0,
    ended := false }

/-- A stagehand whose registers and stores are zero (R260, R405). -/
def Hand.zero : Hand :=
  { x := .replicate 32 0, pc := 0, instrs := [], data := [], h := .replicate 16 (.replicate 8 0), mcycle := 0,
    minstret := 0, exited := false, started := false, readyAt := 0, held := .none, asleep := false, tag := 0, poison := [] }

/-- A plane that is not loaded (R222). -/
def Plane.zero : Plane :=
  { loaded := false, fmt := 0, fromHandle := false, p := 1, cls := 0, structured := false, rows := [] }

/-- Matrix state at point start (R222). -/
def Matrix.start (shape : BitVec 2) : Matrix :=
  { cells := [], cellFmt := .none, active := Plane.zero, shadow := Plane.zero, slots := [], gate := [], shape := shape,
    ops := [], bad := [] }

/-- An absent ring (R119). -/
def Ring.zero : Ring := { desc := 0, tail := 0, head := 0, freed := 0, full := [] }

/-- A quadrant with no macro, window, entry or message (R405). -/
def Quad.zero : Quad := { macros := [], badMacros := [], windows := [], entries := [], msgs := [], round := [] }

/-- A queue at reset (R273). -/
def Queue.zero (copy : Bool) : Queue :=
  { en := false, kind := copy, pri := 0, qlog2 := 0, qbase := 0, cbase := 0, qtail := 0, qacc := 0, qdone := 0,
    qcack := 0, stop := 0, xseq := 0, rcause := 0, accepted := [], running := .none, finished := [],
    readySince := .none, aged := 0, core := .none }

/-- No word is at issue. -/
def Cur.idle : Cur :=
  { turn := { unit := .cast 0 0 0, slotB := false, resume := false }, pos := 0, mstep := .none, word := 0, nextPos := 0, after := 0,
    afterStep := .none,
    em := 0, fm := 0, win := [], group := 0, stamp := 0, tag := 0, vals := .none, trap := .none, demote := false,
    late := false }

/-- The module right after reset: no tenant, no point, no queue; semaphores, bins, sensors and the registers of the
fabric, the flash window and the secure element zero (R255, R273, R280, R320, R333, R335, R349, R374, R378); memory
with nothing listed (log entry 3). R44 gives the generation counters of the slots no reset value: they start at 0 (log entry 60). -/
def State.reset : State :=
  { cycle := 0, dt := 0, cur := Cur.idle, agenda := [], ev := { kind := .nop }, issueQ := [], scheduled := false, nestTurn := false, inputs := [], due := [], fresh := 0, stamp := 0,
    ctxs := [], hands := [], troupes := [], quads := [], fars := [], vdis := [], nests := [],
    gens := .replicate 64 0, rr := 0, points := [], sems := [], bins := [], mem := [], scratch := [], hostMem := [],
    poison := [], scratchPoison := [], corrected := [], tlb := [], moves := [], engines := [],
    coll := { windows := [], posts := [], groups := [], leaving := [], horizon := 0, staging := 0, shares := 0, contexts := 0 },
    fabric := { endpoint := 0, ports := [], gen := 0, oldGen := 0, state := 0, remapAt := 0, sent := [], unacked := [], seen := [],
                seqs := [], waiting := [] },
    secure := { meas := List.replicate 8 (List.replicate 48 0), booted := false, boots := 0, recovery := false, failedBoots := 0,
                conns := [], reply := [], ephemerals := 0, restore := .none, installs := [], sealing := .none, seals := [], refusals := [],
                identity := [], encoreKey := 0, encoreSig := [] },
    flash := { mem := [], buffer := [], cmd := 0, off := 0, busy := false, err := false, res := 0,
               verified := false },
    sensors := [], stopped := [], skipping := [], limits := [], expanders := [], refLost := false, sending := [], records := [] }

end Sys2Proof.Machine
end

