-- ==== Sys2Proof/Machine/Memory.lean ====
section
/-! DEFINITION. Byte memory: reads and writes that keep the canonical form, and little-endian values (R3). -/

namespace Sys2Proof.Machine

/-- The byte at address `a`. -/
def Memory.read : Memory → Nat → Byte
  | [], _ => Config.unlisted
  | (k, b) :: m, a => if k = a then b else if a < k then Config.unlisted else Memory.read m a

/-- Memory with byte `b` at address `a`; writing the unlisted byte removes the cell. -/
def Memory.write : Memory → Nat → Byte → Memory
  | [], a, b => if b = Config.unlisted then [] else [(a, b)]
  | (k, x) :: m, a, b =>
    if k < a then (k, x) :: Memory.write m a b
    else if k = a then (if b = Config.unlisted then m else (a, b) :: m)
    else if b = Config.unlisted then (k, x) :: m else (a, b) :: (k, x) :: m

/-- The `n` bytes from address `a` on. -/
def Memory.bytes (m : Memory) (a n : Nat) : List Byte := (List.range n).map (fun i => m.read (a + i))

/-- Bytes written one after another from address `a` on. -/
def Memory.putBytes (m : Memory) (a : Nat) : List Byte → Memory
  | [] => m
  | b :: bs => Memory.putBytes (m.write a b) (a + 1) bs

/-- The number whose little-endian bytes these are (R3). -/
def leNat : List Byte → Nat
  | [] => 0
  | b :: bs => b.toNat + 256 * leNat bs

/-- The `n` little-endian bytes of a number (R3). -/
def leBytes : Nat → Nat → List Byte
  | 0, _ => []
  | n + 1, x => BitVec.ofNat 8 x :: leBytes n (x / 256)

/-- The 32-bit value at `a` (R3). -/
def Memory.word (m : Memory) (a : Nat) : Word := BitVec.ofNat 32 (leNat (m.bytes a 4))

/-- The 64-bit value at `a` (R3). -/
def Memory.dword (m : Memory) (a : Nat) : Dword := BitVec.ofNat 64 (leNat (m.bytes a 8))

/-- `m` with a 32-bit value at `a`. -/
def Memory.putWord (m : Memory) (a : Nat) (v : Word) : Memory := m.putBytes a (leBytes 4 v.toNat)

/-- `m` with a 64-bit value at `a`. -/
def Memory.putDword (m : Memory) (a : Nat) (v : Dword) : Memory := m.putBytes a (leBytes 8 v.toNat)

/-- `n` bytes from `a` on made zero, when the unlisted byte is zero: their cells are dropped (R405). -/
def Memory.clear (m : Memory) (a n : Nat) : Memory := m.filter (fun c => !(decide (a ≤ c.1) && decide (c.1 < a + n)))

/-- Field `w` bits from `lo` of a number. -/
def bits (x lo w : Nat) : Nat := x / 2 ^ lo % 2 ^ w

/-- The `k`-th little-endian 64-bit word of a record. -/
def recWord (r : List Byte) (k : Nat) : Dword := BitVec.ofNat 64 (leNat ((r.drop (8 * k)).take 8))

end Sys2Proof.Machine
end

