-- ==== Sys2Proof/Machine/Units.lean ====
section
/-! DEFINITION. Finding and replacing the parts of the state: units, paths, troupes, quadrants, interfaces; the
scheduling of events; fault-log records (R349, R350), interrupts and counters (R256). -/

namespace Sys2Proof

/-- The core and quadrant in which a unit stands (R25, R26). -/
def UnitId.place : UnitId → Nat × Nat
  | .cast c q _ => (c, q)
  | .cue c q => (c, q)
  | .rigger c q => (c, q)
  | .striker c q => (c, q)
  | .board _ _ => (0, 0)

/-- The key of a quadrant. -/
def Machine.quadKey (core q : Nat) : Nat := core * 4 + q

/-- The quadrant key of a unit. -/
def UnitId.quadKey (u : UnitId) : Nat := Machine.quadKey u.place.1 u.place.2

/-- The kind of a unit that decodes Dexfy words. -/
def UnitId.kind : UnitId → Kind
  | .cue _ _ => .cue
  | .board _ _ => .board
  | _ => .cast

/-- The UNIT code of R350. -/
def UnitId.code : UnitId → Nat
  | .cast _ _ l => l
  | .cue _ _ => 4
  | .rigger _ _ => 5
  | .striker _ _ => 6
  | .board _ _ => 15

end Sys2Proof

namespace Sys2Proof.Machine

/-! ### Units and paths -/

/-- Replace a unit's registers. -/
def State.setCtx (s : State) (u : UnitId) (c : Ctx) : State := { s with ctxs := s.ctxs.put u c }

/-- The path in a slot. -/
def Ctx.path (c : Ctx) (slotB : Bool) : Path := if slotB then c.b else c.a

/-- Replace the path in a slot. -/
def Ctx.setPath (c : Ctx) (slotB : Bool) (p : Path) : Ctx := if slotB then { c with b := p } else { c with a := p }

/-- Change a unit's registers, when it exists. -/
def State.onCtx (s : State) (u : UnitId) (f : Ctx → Ctx) : State :=
  match s.ctxs.find u with
  | some c => s.setCtx u (f c)
  | none => s

/-- Change a stagehand, when it exists. -/
def State.onHand (s : State) (u : UnitId) (f : Hand → Hand) : State :=
  match s.hands.find u with
  | some h => { s with hands := s.hands.put u (f h) }
  | none => s

/-- The troupe that holds a quadrant, with its key (R24). -/
def State.troupeAt (s : State) (core q : Nat) : Option (Nat × Troupe) :=
  s.troupes.find? (fun t => decide (t.2.core = core) && t.2.quads.contains q)

/-- The troupe of a unit. -/
def State.troupeOf (s : State) (u : UnitId) : Option (Nat × Troupe) :=
  match u with
  | .board _ _ => none
  | _ => s.troupeAt u.place.1 u.place.2

/-- Change a troupe, when it exists. -/
def State.onTroupe (s : State) (k : Nat) (f : Troupe → Troupe) : State :=
  match s.troupes.find k with
  | some t => { s with troupes := s.troupes.put k (f t) }
  | none => s

/-- A quadrant's stores; one that nothing has written is empty. -/
def State.quad (s : State) (k : Nat) : Quad := (s.quads.find k).getD Quad.zero

/-- Replace a quadrant's stores. -/
def State.setQuad (s : State) (k : Nat) (q : Quad) : State := { s with quads := s.quads.put k q }

/-- Change an interface, when it exists. -/
def State.onVdi (s : State) (v : Nat) (f : Vdi → Vdi) : State :=
  match s.vdis.find v with
  | some x => { s with vdis := s.vdis.put v (f x) }
  | none => s

/-- The interface whose tenant a unit executes for. -/
def State.vdiOf (s : State) (u : UnitId) : Nat :=
  match u with
  | .board v _ => v
  | _ => ((s.troupeOf u).map (fun t => t.2.vdi)).getD 0

/-- The casts of a troupe in troupe-cast order (R25). -/
def Troupe.casts (t : Troupe) : List UnitId :=
  t.quads.flatMap (fun q => (List.range 4).map (fun c => UnitId.cast t.core q c))

/-- The cue stream of a troupe (R25). -/
def Troupe.cue (t : Troupe) : UnitId := .cue t.core (t.quads.headD 0)

/-- The stagehands of a troupe (R25). -/
def Troupe.hands (t : Troupe) : List UnitId :=
  t.quads.map (fun q => UnitId.rigger t.core q) ++ t.quads.map (fun q => UnitId.striker t.core q)

/-- Every unit of a troupe. -/
def Troupe.units (t : Troupe) : List UnitId := t.casts ++ t.cue :: t.hands

/-- The troupe-cast number of a cast: 4 × rank + local index (R25). -/
def Troupe.castNumber (t : Troupe) (u : UnitId) : Nat := (t.casts.findIdx? (fun x => decide (x = u))).getD 0

/-- Whether a path of a cast remains: live, waiting or spilled (R77). -/
def Ctx.pathCount (c : Ctx) : Nat :=
  (if c.a.live then 1 else 0) + (if c.b.live then 1 else 0) + c.nspill

/-! ### Places (R20, R25, R29) -/

/-- x coordinate of a core (R20). -/
def coreX (n : Nat) : Nat := 8 * (n / 32 % 4) + 4 * (n / 8 % 4 % 2) + n % 8 % 4
/-- y coordinate of a core (R20). -/
def coreY (n : Nat) : Nat := 4 * (n / 32 / 4) + 2 * (n / 8 % 4 / 2) + n % 8 / 4
/-- The core at coordinates inside the 32 × 8 grid (R20). -/
def coreAt (x y : Nat) : Nat := 32 * (x / 8 + 4 * (y / 4)) + 8 * (x % 8 / 4 + 2 * (y % 4 / 2)) + (x % 4 + 4 * (y % 2))
/-- The core at an offset, when it lies in the grid (R28). -/
def coreOffset (core : Nat) (dx dy : Int) : Option Nat :=
  let x : Int := coreX core + dx
  let y : Int := coreY core + dy
  if 0 ≤ x ∧ x < 32 ∧ 0 ≤ y ∧ y < 8 then some (coreAt x.toNat y.toNat) else none
/-- The ensemble of a core, which is also the number of its L2 slice (R18, R20). -/
def ensembleOf (core : Nat) : Nat := core / 8
/-- The compute die of a core (R20). -/
def dieOf (core : Nat) : Nat := core / 32
/-- The house of a core, which is also the number of its HBM4E stack: 2d + (e div 2) (R18, R20). -/
def houseOf (core : Nat) : Nat := 2 * dieOf core + core / 8 % 4 / 2
/-- The house of an ensemble or of its slice: house h consists of ensembles 2h and 2h + 1 (R20). -/
def houseOfSlice (slice : Nat) : Nat := slice / 2
/-- The die that carries a house (R18, R20). -/
def dieOfHouse (house : Nat) : Nat := house / 2

/-- The exclusive or of the low bits of a number (R159). -/
def parity : Nat → Nat → Nat
  | 0, _ => 0
  | n + 1, x => (x + parity n (x / 2)) % 2

/-- The exclusive or of the low 5-bit parts of a number (R160). -/
def foldParts : Nat → Nat → Nat
  | 0, _ => 0
  | n + 1, x => x % 32 ^^^ foldParts n (x / 32)

/-- The HBM4E stack of a physical address below the second tier (R121, R160). -/
def stackOf (pa : Nat) : Nat := bits pa 36 4

/-- The L2 slice that is home to the line of a physical address (R27, R160). -/
def homeSlice (pa : Nat) : Nat := if pa < 0x10000000000 then 2 * stackOf pa + parity 30 (bits pa 6 30) else foldParts 10 (bits pa 6 46)

/-- How an item travels between compute dies (R19). -/
inductive Route where
  | same | direct | base
  deriving DecidableEq, Repr

/-- Whether two compute dies differ by one in exactly one coordinate of their grid (R19). -/
def neighbours (d e : Nat) : Bool :=
  (decide (d / 4 = e / 4) && (decide (d % 4 = e % 4 + 1) || decide (e % 4 = d % 4 + 1))) || (decide (d % 4 = e % 4) && decide (d / 4 ≠ e / 4))

/-- The route of an item between two compute dies (R19). -/
def routeOf (d e : Nat) : Route := if d = e then .same else if neighbours d e then .direct else .base

/-- Die-to-die links that an item crosses (R19). -/
def Route.links : Route → Nat
  | .same => 0
  | .direct => 1
  | .base => 2

/-- Whether a core lies in the interface's rectangle (R286). -/
def Vdi.hasCore (v : Vdi) (core : Nat) : Bool :=
  let x := coreX core
  let y := coreY core
  decide (v.img.x0 ≤ x) && decide (x < v.img.x0 + v.img.w) && decide (v.img.y0 ≤ y) && decide (y < v.img.y0 + v.img.h)

/-- Whether a quadrant lies in the interface's partition (R286). -/
def Vdi.hasQuad (v : Vdi) (core q : Nat) : Bool := v.hasCore core && v.quads.contains q

/-- The interface's number of a core (R29). -/
def Vdi.coreNumber (v : Vdi) (core : Nat) : Nat := (coreY core - v.img.y0) * v.img.w + (coreX core - v.img.x0)

/-- The partition's cores in the interface's order (R29). -/
def Vdi.cores (v : Vdi) : List Nat :=
  (List.range v.img.h).flatMap (fun dy => (List.range v.img.w).map (fun dx => coreAt (v.img.x0 + dx) (v.img.y0 + dy)))

/-- Whether the clock of the home of an address, or of the controller that its slice needs, is stopped (R332). -/
def State.homeStops (s : State) (pa : Nat) : Bool :=
  s.stopped.contains (1024 + homeSlice pa) ||
    (decide (pa < 0x10000000000) && s.stopped.contains (1056 + stackOf pa) && !Config.l2Holds (pa / 64) s.cycle)

/-- Device-wide scratchpad address of an offset in a quadrant. -/
def devScratch (core q off : Nat) : Nat := quadKey core q * 2 ^ 20 + off

/-- Device-wide scratchpad address of a troupe address (R25). -/
def Troupe.scratchAddr (t : Troupe) (a : Nat) : Nat := devScratch t.core (t.quads.getD (a / 2 ^ 20) 0) (a % 2 ^ 20)

/-- Size of a troupe's scratchpad (R24). -/
def Troupe.scratchSize (t : Troupe) : Nat := t.quads.length * 2 ^ 20

/-! ### Events, open values and counters -/

/-- An event that happens next. -/
def State.soon (s : State) (i : Event) : State := { s with agenda := s.agenda ++ [i] }

/-- An event that happens once an operation of open duration is done (R402). -/
def State.later (s : State) (i : Event) : State :=
  { s with due := s.due ++ [(s.cycle + 1 + Config.latency s.fresh, i)], fresh := s.fresh + 1 }

/-- An event that happens in a given cycle. -/
def State.atCycle (s : State) (c : Nat) (i : Event) : State := { s with due := s.due ++ [(c, i)] }

/-- Add to a performance counter of a tenant (R256, R299). -/
def State.count (s : State) (v n k : Nat) : State :=
  s.onVdi v (fun x => { x with perf := x.perf.put n ((x.perf.find n).getD 0 + BitVec.ofNat 64 k) })

/-- What moves between the L2 slices and memory because of an access that a slice serves depends on what the slices hold, so a free
value says it (R299); what moves to or from the second tier crosses the link of the slice's die to the base die (R19). -/
def State.countMoved (s : State) (v : Nat) : State :=
  let hbm := Config.traffic 2 s.fresh
  let tier := Config.traffic 3 s.fresh
  ((({ s with fresh := s.fresh + 1 } : State).count v 34 hbm).count v 35 tier).count v 36 tier

/-- Bytes that the L2 slices serve to an engine of the base die, each over the link of the slice's die (R19, R299). -/
def State.countBase (s : State) (v n : Nat) : State := ((s.count v 33 n).count v 36 n).countMoved v

/-- Send an MSI-X vector, or hold it while Bus Master Enable is clear (R278, R368). -/
def State.msix (s : State) (v k : Nat) : State :=
  s.onVdi v (fun x => if x.bme then { x with irqSent := x.irqSent ++ [k] } else { x with irqHeld := x.irqHeld ++ [k] })

/-- Write a fault-log record, or count it as lost, and send vector 31 (R349). -/
def State.faultLog (s : State) (v : Nat) (r : FaultRec) : State :=
  match s.vdis.find v with
  | none => s
  | some x =>
    if x.fltail - x.flack = 64 then s.onVdi v (fun y => { y with fllost := y.fllost + 1 })
    else
      (s.onVdi v (fun y => { y with log := y.log.put ((y.fltail + 1).toNat % 64) r, fltail := y.fltail + 1 })).msix v 31

/-- The first word of a fault record (R350). -/
def faultWord (kind cause : Nat) (handle : BitVec 16) (core quad unit : Nat) : Dword :=
  BitVec.ofNat 64 (kind * 2 ^ 56 + cause * 2 ^ 48 + handle.toNat * 2 ^ 32 + core % 256 * 2 ^ 8 + quad % 4 * 2 ^ 6 +
    unit % 16 * 2 ^ 2)

/-- A code position with MSTEP in bits 36:32, as POS of a fault record holds it (R350). -/
def posDword (pos : Nat) (mstep : Option Nat) : Dword := BitVec.ofNat 64 (pos % 2 ^ 32 + mstep.getD 0 % 32 * 2 ^ 32)

/-- The 8-bit code of a cause (R351). -/
def Cause.code : Cause → Nat
  | .none => 0x00 | .illegalInstr => 0x01 | .reservedEncoding => 0x02 | .execData => 0x03 | .stallShort => 0x04
  | .privViolation => 0x05 | .operandShape => 0x06 | .misaligned => 0x07 | .scratchBounds => 0x08 | .pageFault => 0x09
  | .protFault => 0x0A | .nonCanonical => 0x0B | .topCross => 0x0C | .stage2Fault => 0x0D | .poisoned => 0x0E
  | .ringMisuse => 0x10 | .handleInvalid => 0x11 | .cueMisuse => 0x12 | .divStackOverflow => 0x13 | .breakpoint => 0x14
  | .nestBound => 0x15 | .watchdog => 0x16 | .collectiveAbort => 0x17 | .sealRefused => 0x18 | .uncorrectableECC => 0x19

/-- Every cause that a trap may have (R351). -/
def allCauses : List Cause :=
  [.illegalInstr, .reservedEncoding, .execData, .stallShort, .privViolation, .operandShape, .misaligned, .scratchBounds, .pageFault,
   .protFault, .nonCanonical, .topCross, .stage2Fault, .poisoned, .ringMisuse, .handleInvalid, .cueMisuse, .divStackOverflow,
   .breakpoint, .nestBound, .watchdog, .collectiveAbort, .sealRefused, .uncorrectableECC]

/-- The handle of a nest slot: generation × 64 + slot (R44). -/
def State.handleOf (s : State) (slot : Nat) : BitVec 16 :=
  BitVec.ofNat 16 ((s.gens[slot]?.getD 0).toNat * 64 + slot % 64)

/-! ### Counters of far operations (R114, R115) -/

/-- Operations of a unit in a class that its counter still counts. -/
def State.counter (s : State) (u : UnitId) (k : Cls) : Nat :=
  (s.fars.filter (fun f => decide (f.unit = u) && decide (f.cls = k))).length

/-- Drop the finished operations that no older operation of their unit and class holds (R114). -/
def leaveInOrder : List FarOp → List (UnitId × Cls) → List FarOp
  | [], _ => []
  | f :: fs, blocked =>
    if f.done && !blocked.contains (f.unit, f.cls) then leaveInOrder fs blocked
    else f :: leaveInOrder fs ((f.unit, f.cls) :: blocked)

/-- Whether an operation is performed in every lane (R116). -/
def FarOp.performed (f : FarOp) : Bool := f.done || decide (f.todo = 0#32)

/-- Whether an access is one that a fault can still roll back to: a far access (R80), or a remote ATOMS. -/
def FarOp.farAccess (f : FarOp) : Bool :=
  match f.cls, f.instr with
  | .a, .bin _ _ => false
  | .g, _ => true
  | .a, _ => true
  | .t, _ => true
  | _, _ => false

/-- A far access of R80 that is not yet performed. -/
def FarOp.unperformed (f : FarOp) : Bool := !f.performed && f.farAccess

/-- The words that hold a path (R70), the first of its group first. -/
def Path.holders (p : Path) : List Held := match p.held with | some h => h :: p.also | .none => []

/-- Change, or end when the answer is nothing, each word of a kind that holds a path; when the first ends, the next takes
its place. A path that a word no longer holds issues its next group no earlier than the next cycle. -/
def Path.onHolders (p : Path) (which : Held → Bool) (f : Held → Option Held) (cycle : Nat) : Path :=
  if p.holders.any which then
    let hs := p.holders.filterMap (fun h => if which h then f h else some h)
    { p with held := hs.head?, also := hs.tail, readyAt := max p.readyAt (cycle + 1) }
  else p

/-- A path whose first holding word has ended goes on to the next. -/
def Path.nextHolder (p : Path) : Path :=
  match p.held, p.also with
  | .none, h :: hs => { p with held := some h, also := hs }
  | _, _ => p

/-- Words that hold their path and may still fault as a whole, once the later words of their group have acted (R403). -/
def faultsWhole : Instr → Bool
  | .txl .. => true
  | _ => false

/-- The words whose check rests on a record, on a walk, or on a nest that may end while the word waits as a release. A failed check
is a word trap, and no word of its group has an effect (R220, R253, R254, R306, R339): the group issues once the check has passed. -/
def leadsGroup : Instr → Bool
  | .nestLaunch _ => true
  | .collPost .. => true
  | .spawn .. => true
  | .mappg .. => true
  | .mdef .. => true
  | _ => false

/-- Whether a word that holds its path has passed such a check and waits for something else: a place in a queue or a table, or
for a macro to be left (R43, R84, R304). -/
def Held.answered (h : Held) : Bool :=
  match h.instr with
  | .nestLaunch _ => decide (2 < h.vals.length)
  | .collPost .. => decide (2 < h.vals.length)
  | .mdef .. => decide (3 < h.vals.length)
  | _ => false

/-- The issue orders of what a unit has issued and may still be rolled back to: its unperformed far accesses (R80), and the words
that may still fault as a whole (R403). -/
def State.unsettled (s : State) (u : UnitId) : List Nat :=
  ((s.fars.filter (fun f => decide (f.unit = u) && f.unperformed)).map (fun f => f.id)) ++
    (match s.ctxs.find u with
     | none => []
     | some c => (c.a :: c.b :: c.spilled.map (fun (e : Nat × Path) => e.2)).filterMap (fun (p : Path) =>
         (p.holders.find? (fun (h : Held) => faultsWhole h.instr)).map (fun (h : Held) => h.tag)))

/-- Whether the unit's writes are logged: a far access of it is unperformed (R80). -/
def State.logging (s : State) (u : UnitId) : Bool := s.fars.any (fun f => decide (f.unit = u) && f.unperformed)

/-- Release the undo-log entries made before the oldest unperformed access of the unit (R80). -/
def State.trimUndo (s : State) (u : UnitId) : State :=
  match s.unsettled u with
  | [] => s.onCtx u (fun c => { c with undo := [] })
  | k :: ks => s.onCtx u (fun c => { c with undo := c.undo.filter (fun e => decide (ks.foldl min k ≤ e.stamp)) })

/-- Replace a far operation by its identifier. -/
def State.onFar (s : State) (id : Nat) (f : FarOp → FarOp) : State :=
  { s with fars := s.fars.map (fun o => if o.id = id then f o else o) }

/-- Mark an operation finished; operations leave their counters in order, and undo-log entries go (R80, R114). -/
def State.finishFar (s : State) (id : Nat) : State :=
  match s.fars.find? (fun o => decide (o.id = id)) with
  | none => s
  | some o =>
    ({ s with fars := leaveInOrder (s.fars.map (fun (x : FarOp) => if x.id = id then { x with done := true, todo := 0 } else x)) [] }).trimUndo o.unit

/-- An operation is given up: no counter counts it any longer. -/
def State.dropFar (s : State) (id : Nat) : State :=
  match s.fars.find? (fun o => decide (o.id = id)) with
  | none => s
  | some o => ({ s with fars := leaveInOrder (s.fars.filter (fun x => x.id ≠ id)) [] }).trimUndo o.unit

end Sys2Proof.Machine
end

