-- ==== Sys2Proof/Machine/Points.lean ====
section
/-! DEFINITION. Ends of points, nests and call sheets: freeing quadrants, flushing (R295), stopping a point (R346) and
a nest (R347), completing a nest (R54), ending a sheet (R275, R276, R348). -/

namespace Sys2Proof.Machine

/-- The placed point that a troupe belongs to. -/
def State.pointOf (s : State) (t : Troupe) : Option Point :=
  s.points.find? (fun p => decide (p.slot = t.slot) && decide (p.point = t.point))

/-- Change the placed points that `f` is meant for. -/
def State.onPoint (s : State) (slot : Nat) (pt : List Int) (f : Point → Point) : State :=
  { s with points := s.points.map (fun p => if p.slot = slot ∧ p.point = pt then f p else p) }

/-- Whether a unit belongs to one of the troupes. -/
def inTroupes (s : State) (ks : List Nat) (u : UnitId) : Bool :=
  match s.troupeOf u with
  | some (k, _) => ks.contains k
  | none => false

/-- The troupes of a point leave their quadrants: their units, operations, buffers and matrix state go, and the
scratchpad and the stagehands' stores stay (R295, R405). -/
def State.freeTroupes (s : State) (ks : List Nat) : State :=
  let gone := inTroupes s ks
  let quadKeys := ks.flatMap (fun k => ((s.troupes.find k).map (fun t => t.quads.map (quadKey t.core))).getD [])
  { s with
    ctxs := s.ctxs.filter (fun e => !gone e.1)
    hands := s.hands.map (fun e =>
      (e.1, if gone e.1 then { e.2 with started := false, exited := true, held := none } else e.2))
    fars := s.fars.filter (fun f => !gone f.unit)
    issueQ := s.issueQ.filter (fun t => !gone t.unit)
    sending := s.sending.filter (fun e => !gone e.1)
    coll := { s.coll with leaving := s.coll.leaving.filter (fun e => !gone e.1) }
    quads := s.quads.map (fun e =>
      (e.1, if quadKeys.contains e.1 then { e.2 with windows := [], entries := [], round := [] } else e.2))
    troupes := s.troupes.filter (fun e => !ks.contains e.1) }

/-- A post entry that its point no longer holds (R316). -/
def State.releasePosts (s : State) (slot : Nat) (pt : List Int) (which : PostKey → Bool) : State :=
  { s with coll := { s.coll with posts := s.coll.posts.map (fun e =>
      match e.2.key with
      | some k => (e.1, if k.slot = slot ∧ k.point = pt ∧ which k then { e.2 with held := false } else e.2)
      | none => e) } }

/-- Change a nest slot, when it is in use. -/
def State.onNest (s : State) (slot : Nat) (f : Nest → Nest) : State :=
  match s.nests.find slot with
  | some n => { s with nests := s.nests.put slot (f n) }
  | none => s

/-- The quadrants of a point that a pre-emption has asked for go to the requester: they are withheld from the placer until it gives
them out (R406). -/
def State.withhold (s : State) (p : Point) : State :=
  match p.asked with
  | none => s
  | some r =>
    let ks := p.members.flatMap (fun k => ((s.troupes.find k).map (fun (t : Troupe) => t.quads.map (quadKey t.core))).getD [])
    s.onVdi p.vdi (fun x => { x with withheld := x.withheld ++ ks.map (fun k => (k, r)) })

/-- Remove a placed point and free its quadrants (R406). -/
def State.removePoint (s : State) (p : Point) : State :=
  let s1 := (s.withhold p).freeTroupes p.members
  { s1 with points := s1.points.filter (fun q => !(decide (q.slot = p.slot) && decide (q.point = p.point))) }

/-- Free the slot of a nest: its generation counter stands when a slot is next allocated (R44); the next launch of
the interface may enter. -/
def State.freeSlot (s : State) (slot : Nat) : State :=
  match s.nests.find slot with
  | none => s
  | some n => { s with nests := s.nests.drop slot }.soon { kind := .nestSlotEntry, a := n.vdi }

/-- A stopped nest with no placed point frees its slot (R347). -/
def State.nestStopCheck (s : State) (slot : Nat) : State :=
  match s.nests.find slot with
  | some n =>
    if n.stopped && !(s.points.any (fun p => decide (p.slot = slot))) && !s.agenda.contains { kind := .nestStopSlotFree, a := slot } then
      s.soon { kind := .nestStopSlotFree, a := slot }
    else s
  | none => s

/-- A nest stops: it activates and releases nothing further (R347). -/
def State.nestStop (s : State) (slot : Nat) : State :=
  (s.onNest slot (fun n => { n with stopped := true })).nestStopCheck slot

/-- A nest stop without a failing point: a record of KIND 5 (R347, R350, R53). -/
def State.nestFail (s : State) (slot : Nat) (cause : Cause) (pos info : Dword) : State :=
  match s.nests.find slot with
  | none => s
  | some n =>
    (s.faultLog n.vdi { w0 := faultWord 5 cause.code (s.handleOf slot) 0 0 15, pos := pos, info := info, dt := s.dt }).nestStop slot

/-- Flush: the point's unperformed work is dropped, its quadrants are free at once, and it waits to be released
again with its resume slot (R295, R57). -/
def State.flushPoint (s : State) (p : Point) : State :=
  ((s.removePoint p).onNest p.slot (fun n => { n with flushed := n.flushed ++ [(p.point, p.resume)] })).nestStopCheck p.slot

/-- A point stops (R346): its troupes are flushed without re-release, its resume slot is returned, one record is
written, and its nest stops. -/
def State.stopPoint (s : State) (p : Point) (kind : Nat) (cause : Cause) (core quad unit : Nat) (pos info : Dword) : State :=
  let v := s.vdis.find p.vdi
  let r : FaultRec :=
    { w0 := faultWord kind cause.code (s.handleOf p.slot) ((v.map (fun x => x.coreNumber core)).getD 0) quad unit,
      pos := pos, info := info, dt := s.dt }
  let s1 := (s.removePoint p).releasePosts p.slot p.point (fun _ => true)
  let s2 := s1.onVdi p.vdi (fun x => { x with resumes := x.resumes.erase p.resume })
  (s2.faultLog p.vdi r).nestStop p.slot

/-- The point of a unit stops (R346). -/
def State.stopUnit (s : State) (u : UnitId) (kind : Nat) (cause : Cause) (pos info : Dword) : State :=
  match s.troupeOf u with
  | none => s
  | some (_, t) =>
    match s.pointOf t with
    | none => s
    | some p => s.stopPoint p kind cause u.place.1 u.place.2 u.code pos info

/-- The troupe of a unit issues nothing further, and its point stops once the accesses that the troupe has issued are
performed (R259): HALT, and a trap raised at the hypervisor level, which acts as HALT (R244). -/
def State.haltUnit (s : State) (u : UnitId) (phase : Phase) : State :=
  match s.troupeOf u with
  | none => s
  | some (k, t) =>
    (s.onTroupe k (fun y => { y with stopped := true })).onPoint t.slot t.point (fun p => { p with phase := phase })

/-- RSV of a descriptor (R304). -/
def dRsv (d : List Dword) : Nat := bits (d.headD 0).toNat 16 8
/-- LSH of a descriptor (R304). -/
def dLsh (d : List Dword) : Nat := bits (d.headD 0).toNat 24 6

/-- A running entry returns its reservation (R310). -/
def State.unreserve (s : State) (p : Post) : State :=
  if p.state = .running then
    { s with coll := { s.coll with staging := s.coll.staging - dRsv p.desc, shares := s.coll.shares - (dLsh p.desc + 1), contexts := s.coll.contexts - 1 } }
  else s

/-- An entry whose tenant has ended is free: its generation and an outcome that it had stand, and a post that was not yet free ends
aborted (R307). -/
def Post.orphaned (p : Post) : Post :=
  { p with held := false, key := none, data := [], own := none,
           state := match p.state with | .posted => .aborted | .ticketed => .aborted | .running => .aborted | x => x }

/-- A tenant ends (R259, R297): its points, nests, sheets, copies and cached translations go, its posts that are not free end aborted
and return their reservations, its entries of the group table go, and its interface has no tenant. The spec says no more of an end
(log entry 61). -/
def State.endTenant (s : State) (v : Nat) : State :=
  let s1 := (s.points.filter (fun (p : Point) => decide (p.vdi = v))).foldl State.removePoint s
  let board (u : UnitId) : Bool := match u with | .board w _ => decide (w = v) | _ => false
  let mine := s.coll.posts.filter (fun (e : Nat × Post) => decide (e.2.vdi = v))
  let s2 := mine.foldl (fun (x : State) (e : Nat × Post) => x.unreserve e.2) s1
  { s2 with vdis := s1.vdis.drop v, nests := s1.nests.filter (fun (n : Nat × Nest) => n.2.vdi ≠ v), ctxs := s1.ctxs.filter (fun (e : UnitId × Ctx) => !board e.1),
            engines := s1.engines.filter (fun (e : Nat × Copy) => e.2.vdi ≠ v), tlb := s1.tlb.filter (fun (t : Tlb) => t.vdi ≠ v),
            coll := { s2.coll with posts := s2.coll.posts.map (fun (e : Nat × Post) => if e.2.vdi = v then (e.1, e.2.orphaned) else e),
                                   groups := s2.coll.groups.filter (fun g => g.2.1 ≠ v) } }

/-! ### Sheets -/

/-- Change a queue, when it exists. -/
def State.onQueue (s : State) (v q : Nat) (f : Queue → Queue) : State :=
  s.onVdi v (fun x =>
    match x.queues.find q with
    | some y => { x with queues := x.queues.put q (f y) }
    | none => x)

/-- A queue of an interface. -/
def State.queue (s : State) (v q : Nat) : Option Queue := (s.vdis.find v).bind (fun x => x.queues.find q)

/-- A sheet ends with a status: its completion waits to be written, its core is free, and the next accepted entry
makes the context ready (R275 to R277). -/
def State.endSheet (s : State) (v q status : Nat) : State :=
  ((({ s with ctxs := s.ctxs.drop (.board v q) }).onQueue v q (fun y =>
    match y.running with
    | none => y
    | some (seq, _) =>
      { y with running := none, core := none, aged := 0,
               finished := y.finished ++ [(seq, BitVec.ofNat 32 status)],
               readySince := if y.en && !y.accepted.isEmpty then some s.cycle else none })).soon { kind := .completionWrite, a := v, b := q }).soon
    { kind := .contextDispatch }

/-- A sheet faults: STATUS 2 and a record of KIND 6 (R348, R350). -/
def State.sheetFault (s : State) (v q : Nat) (cause : Cause) (info : Dword) : State :=
  let seq := (((s.queue v q).bind (fun y => y.running)).map (fun r => r.1.toNat)).getD 0
  (s.faultLog v { w0 := faultWord 6 cause.code 0 0 0 15, pos := BitVec.ofNat 64 (q * 2 ^ 32 + seq), info := info,
                  dt := s.dt }).endSheet v q 2

/-- The device's semaphore for number `k` of an interface's share, when it lies in the share (R219, R280). -/
def State.semIndex (s : State) (v k : Nat) : Option Nat :=
  (s.vdis.find v).bind (fun x => if k < x.img.semShare then some (x.img.semBase + k) else none)

/-- The semaphore of its share and the value that a held word waits for (R219, R278). -/
def Held.semWait (h : Held) : Option (Nat × Dword) :=
  match h.instr with
  | .semwait _ k => some (k.toNat, h.vals.headD 0)
  | .cbSemwait _ k => some (k.toNat, h.vals.headD 0)
  | _ => none

/-- Whether a word waits for semaphore `n` of the device and the value that it now has. -/
def State.semReached (s : State) (u : UnitId) (n : Nat) (x : Dword) (h : Held) : Bool :=
  h.asleep && (match h.semWait with | some (k, a) => decide (s.semIndex (s.vdiOf u) k = some n) && decide (a.toNat ≤ x.toNat) | none => false)

/-- The registers of a stagehand that name the semaphore and the value that its XSEM.WAIT waits for (R269). -/
def Hand.semWait (h : Hand) : Option (Nat × Nat) :=
  match h.held with
  | some (.xsemWait b a) =>
    let r (n : BitVec 5) : Nat := if n = 0#5 then 0 else (h.x[n.toNat]?.getD 0).toNat
    if h.asleep then some (r a, r b) else none
  | _ => none

/-- A semaphore has a new value: the paths, contexts and stagehands that wait for it proceed (R219, R269, R277, R280). -/
def State.semWake (s : State) (n : Nat) : State :=
  let x := (s.sems.find n).getD 0
  let go (u : UnitId) (p : Path) : Path := p.onHolders (s.semReached u n x) (fun _ => none) s.cycle
  let ks := s.ctxs.map (fun (e : UnitId × Ctx) =>
    (e.1, { e.2 with a := go e.1 e.2.a, b := go e.1 e.2.b, spilled := e.2.spilled.map (fun (q : Nat × Path) => (q.1, go e.1 q.2)) }))
  let hs := s.hands.map (fun (e : UnitId × Hand) =>
    match e.2.semWait with
    | some (k, a) =>
      if s.semIndex (s.vdiOf e.1) k = some n ∧ a ≤ x.toNat then
        (e.1, { e.2 with pc := e.2.pc + 4, minstret := e.2.minstret + 1, held := none, asleep := false, readyAt := s.cycle + 1 })
      else e
    | none => e)
  let boards := s.ctxs.filterMap (fun (e : UnitId × Ctx) =>
    match e.1 with
    | .board v q => if e.2.a.holders.any (s.semReached e.1 n x) then some (v, q) else none
    | _ => none)
  let s1 := { s with ctxs := ks, hands := hs }
  if boards = [] then s1
  else (boards.foldl (fun (y : State) (b : Nat × Nat) => y.onQueue b.1 b.2 (fun q => { q with readySince := some s.cycle })) s1).soon { kind := .contextDispatch }

/-- Add to a hardware semaphore, modulo 2^64 (R280). -/
def State.semAdd (s : State) (k : Nat) (v : Dword) : State :=
  { s with sems := s.sems.put k ((s.sems.find k).getD 0 + v) }.semWake k

/-- The device's bin for number `k` of an interface's share (R220). -/
def State.binIndex (s : State) (v k : Nat) : Option Nat :=
  (s.vdis.find v).bind (fun x => if k < x.img.binShare then some (x.img.binBase + k) else none)

/-- Add to a bin, modulo 2^64 (R220). -/
def State.binAdd (s : State) (k : Nat) (v : Dword) : State :=
  { s with bins := s.bins.put k ((s.bins.find k).getD 0 + v) }

end Sys2Proof.Machine
end

