-- ==== Sys2Proof/Machine/Ops.lean ====
section
/-! DEFINITION. The shared operations over registers: writing a result, shifting the window, the undo log, reading an
operand under its latency; taking an exception, and returning from one. -/

namespace Sys2Proof.Machine

/-! ### The word at issue -/

/-- What a word needs to know of its issue to write registers. -/
structure Issue where
  cycle : Nat
  group : Nat
  stamp : Nat
  pos : Nat
  slotB : Bool
  /-- Writes are logged: a far access of the unit is unperformed (R80). -/
  log : Bool
  /-- The group holds a TXL, whose fault takes the later words back (R403). -/
  late : Bool
  kind : Kind
  em : Word
  fm : Word
  win : List WEnt
  deriving DecidableEq, Repr

/-- The issue of the word at issue. -/
def State.issue (s : State) : Issue :=
  { cycle := s.cycle, group := s.cur.group, stamp := s.cur.stamp, pos := s.cur.pos, slotB := s.cur.turn.slotB,
    log := s.logging s.cur.turn.unit, late := s.cur.late, kind := s.cur.turn.unit.kind, em := s.cur.em, fm := s.cur.fm, win := s.cur.win }

/-- A word whose effect lies in its unit's registers alone. -/
def State.onCur (s : State) (f : Issue → Ctx → Ctx) : Host.Outcome State Fault Refusal :=
  match s.ctxs.find s.cur.turn.unit with
  | none => .fault .noUnit
  | some c => .next (s.setCtx s.cur.turn.unit (f s.issue c))

/-- A word that reads its unit's registers and acts on the machine. -/
def State.withCur (s : State) (f : Issue → Ctx → State) : Host.Outcome State Fault Refusal :=
  match s.ctxs.find s.cur.turn.unit with
  | none => .fault .noUnit
  | some c => .next (f s.issue c)

/-- Change the path at issue. -/
def Ctx.onPath (c : Ctx) (slotB : Bool) (f : Path → Path) : Ctx := c.setPath slotB (f (c.path slotB))

/-! ### Values -/

/-- Lane `l` of a vector value (R64). -/
def VVal.lane (x : VVal) (l : Nat) : Word :=
  match x with
  | .uni v => v
  | .aff b s => b + BitVec.ofNat 32 l * s
  | .gen ls => ls[l]?.getD 0

/-- A general value, lane by lane (R64). -/
def VVal.ofFn (f : Nat → Word) : VVal := .gen ((List.range 32).map f)

/-- Whether a value's tag is uniform (R66). -/
def VVal.isUniform : VVal → Bool
  | .uni _ => true
  | _ => false

/-- A window value as a scalar word reads it (R63); a vector value that is not uniform traps before it is read. -/
def WVal.toScalar : WVal → Dword
  | .scalar v => v
  | .vec (.uni v) => v.setWidth 64
  | .vec _ => 0

/-- A window value as a vector word reads it (R63). -/
def WVal.toVec : WVal → VVal
  | .scalar v => .uni (v.setWidth 32)
  | .vec x => x

/-- Whether a lane is active in a mask (R159). -/
def active (em : Word) (l : Nat) : Bool := em.getLsbD l

/-- The active lanes in ascending order (R159). -/
def lanesOf (em : Word) : List Nat := (List.range 32).filter (active em)

/-- The mask of the lanes of a list. -/
def maskOf (ls : List Nat) : Word := ls.foldl (fun m l => m ||| (1#32 <<< l)) 0#32

/-- A register's content after a masked write of `new` (R65, R81): unchanged under em = 0, general under a partial
mask. -/
def merge (em : Word) (old new : VVal) : VVal :=
  if em = 0#32 then old
  else if em = BitVec.allOnes 32 then new
  else .ofFn (fun l => if active em l then new.lane l else old.lane l)

/-! ### Reading registers under their latencies (R9, R72) -/

/-- The value that an early read of scalar register `n` returns, when its newest result is not yet readable. -/
def earlyS (cycle n : Nat) : List Pend → Option Dword
  | [] => none
  | .s k prev ready _ :: ps => if k = n then (if cycle < ready then some prev else none) else earlyS cycle n ps
  | .v .. :: ps => earlyS cycle n ps

/-- The value that an early read of vector register `n`, which holds `now`, returns when the newest result of some lane is not
yet readable: such a lane reads what it held before (R72). `left` holds the lanes that no newer result has written. -/
def earlyV (cycle n : Nat) (now : VVal) : List Pend → Word → Option VVal
  | [], _ => none
  | .s .. :: ps, left => earlyV cycle n now ps left
  | .v k prev ready _ mask :: ps, left =>
    if k ≠ n then earlyV cycle n now ps left
    else
      let rest := earlyV cycle n now ps (left &&& ~~~ mask)
      let m := left &&& mask
      if cycle < ready ∧ m ≠ 0#32 then
        match rest with
        | none => some (if (List.range 32).all (fun l => active m l || decide (now.lane l = prev.lane l)) then prev else merge m now prev)
        | some r => some (merge m r prev)
      else rest

/-- Scalar register `n` as it stands. -/
def Ctx.sreg (c : Ctx) (n : Nat) : Dword := c.s[n]?.getD 0

/-- Vector register `n` as it stands: v0 to v47, then o0 to o7. -/
def Ctx.vreg (c : Ctx) (n : Nat) : VVal := c.v[n]?.getD (.uni 0)

/-- The register's value before the group that writes it, when an earlier word of the group has already done so. -/
def priorS (group n : Nat) : List Pend → Option Dword
  | [] => none
  | .s k prev _ g :: ps => if k = n then (if g = group then some prev else none) else priorS group n ps
  | .v .. :: ps => priorS group n ps

/-- The same for a vector register. -/
def priorV (group n : Nat) : List Pend → Option VVal
  | [] => none
  | .v k prev _ g _ :: ps => if k = n then (if g = group then some prev else none) else priorV group n ps
  | .s .. :: ps => priorV group n ps

/-- Window entry `k` (w1 is 0) as the group reads it (R11, R72); an entry that nothing has written reads as zero. -/
def Issue.entry (i : Issue) (k : Nat) : WVal :=
  match i.win[k]? with
  | none => .scalar 0
  | some e => if i.cycle < e.ready then e.before[k]?.getD (.scalar 0) else e.val

/-- A source in S space (R147), or in Q space in the cue stream. -/
def Ctx.rdS (c : Ctx) (i : Issue) (r : Reg) : Dword :=
  if r.toNat < 48 then (earlyS i.cycle r.toNat c.pend).getD (c.sreg r.toNat)
  else (i.entry (r.toNat - 56)).toScalar

/-- A source in V space (R147). -/
def Ctx.rdV (c : Ctx) (i : Issue) (r : Reg) : VVal :=
  if r.toNat < 56 then (earlyV i.cycle r.toNat (c.vreg r.toNat) c.pend (BitVec.allOnes 32)).getD (c.vreg r.toNat)
  else (i.entry (r.toNat - 56)).toVec

/-! ### Writing registers -/

/-- Log a write of a path to an old value, while a far access is unperformed (R80), or beside a TXL (R403). -/
def Ctx.logAs (c : Ctx) (i : Issue) (pid : Nat) (x : Saved) : Ctx :=
  if i.log || i.late then { c with undo := { saved := x, pid := pid, stamp := i.stamp, pos := i.pos, em := i.em, own := !i.log } :: c.undo } else c

/-- The same for the path at issue. -/
def Ctx.log (c : Ctx) (i : Issue) (x : Saved) : Ctx := c.logAs i (c.path i.slotB).pid x

/-- Shift a result into the window (R11); the cue stream has none (R85). -/
def Ctx.shift (c : Ctx) (i : Issue) (lat : Nat) (x : WVal) : Ctx :=
  if i.kind = .cue then c
  else c.onPath i.slotB (fun p =>
    { p with win := ({ val := x, ready := i.cycle + lat, before := i.win.map WEnt.val } :: p.win).take 8 })

/-- Write scalar register `n` for a path, readable after `lat` cycles (R9, R80). -/
def Ctx.putSAs (c : Ctx) (i : Issue) (pid lat n : Nat) (x : Dword) : Ctx :=
  let c1 := c.logAs i pid (.s n (c.sreg n))
  { c1 with s := c1.s.setIfInBounds n x, pend := .s n ((priorS i.group n c.pend).getD (c.sreg n)) (i.cycle + lat) i.group :: c1.pend,
            poisonS := c1.poisonS.filter (fun r => r ≠ n) }

/-- Write scalar register `n` for the path at issue. -/
def Ctx.putS (c : Ctx) (i : Issue) (lat n : Nat) (x : Dword) : Ctx := c.putSAs i (c.path i.slotB).pid lat n x

/-- Write vector register `n`, readable after `lat` cycles (R9, R80). -/
def Ctx.putV (c : Ctx) (i : Issue) (lat n : Nat) (x : VVal) : Ctx :=
  let c1 := c.log i (.v n (c.vreg n))
  { c1 with v := c1.v.setIfInBounds n x, pend := .v n ((priorV i.group n c.pend).getD (c.vreg n)) (i.cycle + lat) i.group i.em :: c1.pend,
            poisonV := c1.poisonV.filter (fun r => !(decide (r / 32 = n) && active i.em (r % 32))) }

/-- A scalar result: to the register, when `d` names one, and to the window (R11, R161). -/
def Ctx.wrS (c : Ctx) (i : Issue) (lat : Nat) (d : Reg) (x : Dword) : Ctx :=
  ((if d.toNat < 48 then c.putS i lat d.toNat x else c).shift i lat (.scalar x))

/-- A vector result `x` under the group's em: to the register, when `d` names one, and to the window, which takes
the register's whole new content, or zero in inactive lanes when there is no register (R184). With em = 0 and no register the
entry is a uniform zero: R65 leaves the tag of a register unchanged there, and no register stands behind the entry (log entry 81). -/
def Ctx.wrV (c : Ctx) (i : Issue) (lat : Nat) (d : Reg) (x : VVal) : Ctx :=
  if d.toNat < 56 then
    let y := merge i.em (c.vreg d.toNat) x
    ((if i.em = 0#32 then c else c.putV i lat d.toNat y).shift i lat (.vec y))
  else c.shift i lat (.vec (merge i.em (.uni 0) x))

/-- Lanes of vector register `n` are readable as they stand: no earlier result of theirs is awaited. -/
def settleLanes (n : Nat) (mask : Word) (ps : List Pend) : List Pend :=
  ps.filterMap (fun p =>
    match p with
    | .v k prev ready g m => if k = n then (if m &&& ~~~ mask = 0#32 then none else some (.v k prev ready g (m &&& ~~~ mask))) else some p
    | .s .. => some p)

/-- A vector result that never enters the window: the result of an asynchronous word (R11, R205), which is readable once it is
written (R15). A window-only destination receives nothing. -/
def Ctx.putLanes (c : Ctx) (mask : Word) (d : Nat) (f : Nat → Word) : Ctx :=
  if d < 56 ∧ mask ≠ 0#32 then
    { c with v := c.v.setIfInBounds d (.ofFn (fun l => if active mask l then f l else (c.vreg d).lane l)),
             pend := settleLanes d mask c.pend,
             poisonV := c.poisonV.filter (fun r => !(decide (r / 32 = d) && active mask (r % 32))) }
  else c

/-- Set bits of st, which only an explicit write clears (R62, R95). -/
def Ctx.setSt (c : Ctx) (b : BitVec 7) : Ctx := { c with st := c.st ||| b }

/-! ### Taking an exception -/

/-- Enter a handler (R244, R245): the level's registers are written, the path takes the level, its mask and the
handler's packet, and its window reads as zero. -/
def State.enterHandler (s : State) (u : UnitId) (slotB : Bool) (t : Trap) : State :=
  (s.onCtx u (fun c =>
    let p := c.path slotB
    let l0 := if t.level = 1 then c.sup else c.hyp
    let l1 : Level :=
      { l0 with epc := BitVec.ofNat 32 t.epc, cause := BitVec.ofNat 32 (p.plvl.toNat * 256 + t.cause), em := t.em,
                park := t.park, tval := t.tval, mstep := t.mstep, busy := some p.pid }
    let c0 := { c with whole := (if t.record = [] then [] else [(t.level, t.record)]) ++ c.whole.filter (fun (w : Nat × List Dword) => w.1 ≠ t.level) }
    let c1 := if t.level = 1 then { c0 with sup := l1 } else { c0 with hyp := l1 }
    c1.setPath slotB
      { p with plvl := BitVec.ofNat 2 t.level, em := if t.park ≠ 0#32 then t.park else t.em, win := [],
               pc := (l1.tvec.toNat % 2 ^ 30) * 4, mstep := none, readyAt := max p.readyAt (s.cycle + 1), held := none,
               also := [], delayed := false, entry := none })).count (s.vdiOf u) 6 1

/-- Raise an exception in a cast's path: the level that handles it (R244), the wait for a level that another path of
the cast uses (R342), the fault record of a whole-path fault (R403), and the halt of the troupe when it is raised at hypervisor
level (R244, R346). -/
def State.castTrap (s : State) (u : UnitId) (slotB : Bool) (cause : Cause) (tval : Dword) (epc : Nat)
    (mstep : Option Nat) (em park : Word) (record : List Dword) : State :=
  match s.ctxs.find u with
  | none => s
  | some c =>
    let p := c.path slotB
    if p.plvl = 2#2 then
      s.haltUnit u (.trapped u cause (posDword epc mstep) tval)
    else
      let l := if p.plvl = 0#2 ∧ cause ≠ .stage2Fault then 1 else 2
      let busy := if l = 1 then c.sup.busy else c.hyp.busy
      let t : Trap := { level := l, cause := cause.code, tval := tval, epc := epc, mstep := mstep, em := em,
                         park := park, record := record }
      if busy = none ∨ busy = some p.pid then s.enterHandler u slotB t
      else s.setCtx u (c.onPath slotB (fun q => { q with entry := some t, held := none, also := [] }))

/-- TAKING AN EXCEPTION at the word at issue: a cast's path enters its handler (R339, R245); a cue stream's point
stops with KIND 2 (R225, R346); a Callboard sheet ends with STATUS 2 (R348). The word has no effect. -/
def State.take (s : State) (cause : Cause) (tval : Dword) (epc : Nat) : State :=
  let u := s.cur.turn.unit
  match u with
  | .board v q => s.sheetFault v q cause tval
  | .cue _ _ => s.stopUnit u 2 cause (BitVec.ofNat 64 s.cur.pos) tval
  | _ =>
    match s.ctxs.find u with
    | none => s
    | some c =>
      let p := c.path s.cur.turn.slotB
      s.castTrap u s.cur.turn.slotB cause tval epc (if epc = s.cur.pos then s.cur.mstep else none) p.em 0#32 []

/-- A word trap (R339): xEPC is the faulting word and xTVAL the word itself. -/
def State.raise (s : State) (cause : Cause) : State :=
  { s.take cause (s.cur.word.setWidth 64) s.cur.pos with cur := { s.cur with trap := some false } }

/-- Whether an earlier word of the group still holds the path. -/
def State.trapBehind (s : State) : Bool :=
  match s.ctxs.find s.cur.turn.unit with
  | none => false
  | some c => (c.path s.cur.turn.slotB).held.isSome

/-- The cause that a code names (R351). -/
def causeNamed (k : Nat) : Cause := (allCauses.find? (fun c => decide (c.code = k))).getD .none

/-- A trap that has waited is taken (R342): the handler of its level is entered when no other path of the cast is inside one; at the
hypervisor level the troupe halts; a cue stream's point stops and a sheet ends. -/
def State.takeEntry (s : State) (u : UnitId) (slotB : Bool) (c : Ctx) (tr : Trap) : State :=
  let p := c.path slotB
  match u with
  | .board v q => s.sheetFault v q (causeNamed tr.cause) tr.tval
  | .cue _ _ => s.stopUnit u 2 (causeNamed tr.cause) (BitVec.ofNat 64 tr.epc) tr.tval
  | _ =>
    let busy := if tr.level = 1 then c.sup.busy else c.hyp.busy
    if p.plvl = 2#2 then s.haltUnit u (.trapped u (causeNamed tr.cause) (posDword tr.epc tr.mstep) tr.tval)
    else if busy = none ∨ busy = some p.pid then s.enterHandler u slotB tr
    else s

/-- A trap at a word whose group's earlier words keep their effect (R171, R248): it is taken once no earlier word of the group holds
the path. -/
def State.raiseAfter (s : State) (cause : Cause) (tval : Dword) (epc : Nat) : State :=
  let s1 :=
    if s.trapBehind then
      s.onCtx s.cur.turn.unit (fun c => c.onPath s.cur.turn.slotB (fun p =>
        { p with entry := some { level := if p.plvl = 0#2 ∧ cause ≠ .stage2Fault then 1 else 2, cause := cause.code, tval := tval, epc := epc,
                                 mstep := if epc = s.cur.pos then s.cur.mstep else none, em := p.em, park := 0, record := [] } }))
    else s.take cause tval epc
  { s1 with cur := { s.cur with trap := some true } }

/-- A word that traps on a condition, and acts otherwise. -/
def State.trapIf (s : State) (b : Bool) (cause : Cause) (k : State) : State := if b then s.raise cause else k

/-! ### Returning from an exception -/

/-- The registers of the path's current level (R249). -/
def Ctx.level (c : Ctx) (plvl : BitVec 2) : Level := if plvl = 2#2 then c.hyp else c.sup

/-- The registers of level 1 or 2, by its number. -/
def Ctx.levelOf (c : Ctx) (n : Nat) : Level := if n = 2 then c.hyp else c.sup

/-- Replace the registers of a level. -/
def Ctx.setLevel (c : Ctx) (plvl : BitVec 2) (l : Level) : Ctx :=
  if plvl = 2#2 then { c with hyp := l } else { c with sup := l }

/-- The replay of the unparked lanes (R249, R142): the unperformed parts of each parked access are issued again as an access
of the path, in issue order, translated afresh (R354). -/
def replayOps (stamp : Nat) (ks : List Park) : List Nat → List FarOp
  | [] => []
  | id :: ids =>
    let mine := ks.filter (fun k => decide (k.op.id = id))
    let m := maskOf (mine.map (fun k => k.lane))
    match mine with
    | [] => replayOps stamp ks ids
    | k :: _ =>
      { k.op with id := stamp, lanes := m, todo := m, hits := [], pa := [], checked := false, done := false, moving := false, shown := [],
                  lines := [], passed := false, stuck := false, spoiled := [] } ::
        replayOps (stamp + 1) ks ids

/-- The parked lanes that ERET replays: those of the level that xEM holds and xPARK does not (R249). -/
def Ctx.unparked (c : Ctx) (slotB : Bool) : List Park :=
  let p := c.path slotB
  let l := c.level p.plvl
  c.parked.filter (fun k => decide (k.level = p.plvl.toNat) && active l.em k.lane && !active l.park k.lane)

/-- RETURN FROM AN EXCEPTION (R249): em, level and position come from the level's registers, the unparked lanes of far accesses are
replayed, the lanes still parked are finished, and the window reads as zero. -/
def State.returnFrom (s : State) (u : UnitId) (slotB : Bool) : State :=
  match s.ctxs.find u with
  | none => s
  | some c =>
    let p := c.path slotB
    let l := c.level p.plvl
    let mine := c.parked.filter (fun k => decide (k.level = p.plvl.toNat) && active l.em k.lane)
    let go := (c.unparked slotB).filter (fun k => decide (k.op.cls ≠ .fetch))
    let ops := replayOps (s.stamp + 1) go ((go.map (fun k => k.op.id)).dedup)
    let c0 := (c.log s.issue (.ret p.plvl.toNat l mine (c.whole.filter (fun (w : Nat × List Dword) => w.1 = p.plvl.toNat)))).log s.issue (.em p.em)
    let c1 := c0.setLevel p.plvl { l with busy := none, mstep := none }
    let c2 := { c1 with parked := c1.parked.filter (fun k => !(decide (k.level = p.plvl.toNat) && active l.em k.lane)),
                        whole := c.whole.filter (fun (w : Nat × List Dword) => w.1 ≠ p.plvl.toNat) }
    let c3 := c2.setPath slotB
      { p with em := l.em &&& ~~~ l.park, plvl := (l.cause >>> 8).setWidth 2, win := [], pc := l.epc.toNat,
               mstep := l.mstep, held := none, also := [], delayed := false, entry := none,
               -- a replayed acquire holds the path's memory words again (R207)
               acq := match ops.find? (fun o => o.acq) with | some o => some o.id | none => p.acq }
    let s1 := s.setCtx u c3
    ops.foldl (fun (s2 : State) (o : FarOp) =>
        { s2 with fars := s2.fars ++ [o], stamp := s2.stamp + 1 }.later { kind := .translationWalkComplete, unit := u, id := o.id }) s1

/-! ### The reconvergence stack (R78) -/

/-- A stack entry: KIND 1 is a join record, KIND 2 a spilled path. -/
structure Stk where
  em : Word
  pc : Nat
  fm : Word
  seq : Nat
  parent : Option Nat
  cf : Bool
  arrived : Bool
  plvl : BitVec 2
  kind : Nat
  deriving DecidableEq, Repr

/-- The device-wide scratchpad address of entry `k` of a cast's stack (R78). -/
def stackAddr (u : UnitId) (k : Nat) : Nat :=
  match u with
  | .cast c q l => devScratch c q (0xFF000 + 1024 * l + 16 * k)
  | _ => 0

/-- The two words of an entry. -/
def Stk.words (e : Stk) : Dword × Dword :=
  (BitVec.ofNat 64 (e.em.toNat * 2 ^ 32 + e.pc % 2 ^ 32),
   BitVec.ofNat 64 (e.fm.toNat * 2 ^ 32 + e.seq % 256 * 2 ^ 24 + (e.parent.getD 0) % 64 * 2 ^ 18 +
     e.parent.isSome.toNat * 2 ^ 17 + e.cf.toNat * 2 ^ 16 + e.arrived.toNat * 2 ^ 15 + e.plvl.toNat * 4 + e.kind % 4))

/-- Read an entry. -/
def State.stack (s : State) (u : UnitId) (k : Nat) : Stk :=
  let x := (s.scratch.dword (stackAddr u k)).toNat
  let y := (s.scratch.dword (stackAddr u k + 8)).toNat
  { em := BitVec.ofNat 32 (x / 2 ^ 32), pc := x % 2 ^ 32, fm := BitVec.ofNat 32 (y / 2 ^ 32), seq := bits y 24 8,
    parent := if bits y 17 1 = 1 then some (bits y 18 6) else none, cf := decide (bits y 16 1 = 1),
    arrived := decide (bits y 15 1 = 1), plvl := BitVec.ofNat 2 (bits y 2 2), kind := bits y 0 2 }

/-- Write an entry. -/
def State.setStack (s : State) (u : UnitId) (k : Nat) (e : Stk) : State :=
  { s with scratch := (s.scratch.putDword (stackAddr u k) e.words.1).putDword (stackAddr u k + 8) e.words.2 }

/-- The position that an exited child leaves in its join record (R77). -/
def exitedPc : Nat := 0x3FFFFFFF

/-! ### Words that hold their path -/

/-- The word at issue holds its path (R70): it is tried again, or sleeps until an event wakes it. -/
def State.holdPath (s : State) (x : Instr) (vals : List Dword) (asleep : Bool) : State :=
  let k := s.cur
  let h : Held :=
    { instr := x, pos := k.pos, mstep := k.mstep, word := k.word, nextPos := k.nextPos, after := k.after,
      afterStep := k.afterStep, em := k.em, fm := k.fm, since := s.cycle, vals := vals, asleep := asleep, tag := k.tag, leads := false }
  s.onCtx k.turn.unit (fun c => c.onPath k.turn.slotB (fun p =>
    if p.held.isSome then { p with also := p.also ++ [h] } else { p with held := some h }))

end Sys2Proof.Machine
end

