-- ==== Sys2Proof/Machine/Operands.lean ====
section
/-! DEFINITION. Operand forms: immediates (R149, R166, R188), branch targets (R171), lane addresses of scratchpad and
far words (R208 to R211), sources of a held word. -/

namespace Sys2Proof.Machine

/-! ### Immediates -/

/-- A 6-bit immediate, sign-extended (R166: functions 0 to 5, A and B). -/
def immS (i : BitVec 6) : Dword := i.signExtend 64
/-- A 6-bit immediate, zero-extended (R166: functions 6 to 9, C and D). -/
def immU (i : BitVec 6) : Dword := i.setWidth 64
/-- An unsigned 7-bit immediate as a uniform operand (R188). -/
def immV (i : BitVec 7) : VVal := .uni (i.setWidth 32)

/-! ### Positions and branch targets -/

/-- The packet of a code position (R61). -/
def packetOf (pos : Nat) : Nat := pos / 4
/-- The target packet of a branch with a signed offset (R171). -/
def branchTarget {w : Nat} (pos : Nat) (off : BitVec w) : Int := (packetOf pos : Int) + off.toInt

/-! ### Sources of a word that may hold its path -/

/-- The scalar sources of a word, read at issue; a held word that is tried again keeps those of its issue. -/
def State.sources (s : State) (c : Ctx) (rs : List Reg) : List Dword :=
  match s.cur.vals with
  | some vs => vs
  | none => rs.map (c.rdS s.issue)

/-- Source `k` of such a list. -/
def nth (vs : List Dword) (k : Nat) : Dword := vs[k]?.getD 0

/-! ### Scratchpad addresses -/

/-- Lane address of LDS and STS: a + sext(b, 32) on exact integers (R208). -/
def ldsAddr (a : Dword) (b : Word) : Int := (a.toNat : Int) + b.toInt

/-- Whether an offset of a quadrant lies in its reserved top 4 KiB (R78). -/
def reservedOffset (off : Nat) : Bool := decide (0xFF000 ≤ off % 2 ^ 20)

/-- The checks of R113 on one lane, in their order: alignment, range, reserved area. -/
def scratchCheck (size bound : Nat) (a : Int) : Option Cause :=
  if a % (size : Int) ≠ 0 then some .misaligned
  else if a < 0 ∨ (bound : Int) ≤ a then some .scratchBounds
  else if reservedOffset a.toNat then some .scratchBounds
  else none

/-- The first failing lane's cause, in ascending lane order (R113). -/
def scratchChecks (size bound : Nat) (addr : Nat → Int) : List Nat → Option Cause
  | [] => none
  | l :: ls =>
    match scratchCheck size bound (addr l) with
    | some c => some c
    | none => scratchChecks size bound addr ls

/-- Access size of an LDS function (R208). -/
def ldsSize (z : BitVec 3) : Nat := if z.toNat ≤ 1 then 1 else if z.toNat ≤ 3 then 2 else 4

/-- Lane value of an LDS function from the bytes read (R208). -/
def ldsValue (z : BitVec 3) (x : Nat) : Word :=
  match z.toNat with
  | 0 => (BitVec.ofNat 8 x).signExtend 32
  | 1 => (BitVec.ofNat 8 x).setWidth 32
  | 2 => (BitVec.ofNat 16 x).signExtend 32
  | 3 => (BitVec.ofNat 16 x).setWidth 32
  | _ => BitVec.ofNat 32 x

/-- Lane addresses of a word that accesses the cast's own troupe scratchpad (R208, R209), when it is one. -/
def scratchAddrs (c : Ctx) (i : Issue) : Instr → Option (Nat → Int)
  | .lds _ a b _ => some (fun l => ldsAddr (c.rdS i a) ((c.rdV i b).lane l))
  | .sts _ a b _ => some (fun l => ldsAddr (c.rdS i a) ((c.rdV i b).lane l))
  | .atoms _ a _ _ _ x => if x = 0#1 then some (fun l => (((c.rdV i a).lane l).toNat : Int)) else none
  | _ => none

/-! ### Far addresses -/

/-- Lane address of a far word: BASE(tx) + sext(a, 32) on exact integers (R211). -/
def farAddr (base : Dword) (a : Word) : Int := (base.toNat : Int) + a.toInt

/-- The quadrant and offset that a remote lane word names (R152, R210): bits 21:20 and 19:0. -/
def remoteQuad (a : Word) : Nat := a.toNat / 2 ^ 20 % 4
/-- The offset of a remote lane word. -/
def remoteOff (a : Word) : Nat := a.toNat % 2 ^ 20

end Sys2Proof.Machine
end

