-- ==== Sys2Proof/Machine/Flags.lean ====
section
/-! DEFINITION. Flag computations: the carry cf of the integer words (R166), and the sticky bits of st (R95). -/

namespace Sys2Proof.Machine

/-- Carry out of a + b + c (R166). -/
def carryOut (a b : Dword) (c : Bool) : Bool := decide (2 ^ 64 ≤ a.toNat + b.toNat + c.toNat)

/-- Borrow out of a − b − c (R166). -/
def borrowOut (a b : Dword) (c : Bool) : Bool := decide (a.toNat < b.toNat + c.toNat)

/-- Write cf of the path at issue, with its own undo-log entry (R161). -/
def Ctx.putCf (c : Ctx) (i : Issue) (b : Bool) : Ctx :=
  (c.log i (.cf (c.path i.slotB).cf)).onPath i.slotB (fun p => { p with cf := b })

/-! ### st (R95) -/

/-- NV, invalid operation. -/
def stNV : BitVec 7 := 0x01
/-- OF, overflow. -/
def stOF : BitVec 7 := 0x02
/-- UF, underflow. -/
def stUF : BitVec 7 := 0x04
/-- NX, inexact. -/
def stNX : BitVec 7 := 0x08
/-- IOV, integer overflow. -/
def stIOV : BitVec 7 := 0x10
/-- SKNF, a sink that is not finite. -/
def stSKNF : BitVec 7 := 0x20
/-- SAT, a saturated result. -/
def stSAT : BitVec 7 := 0x40

end Sys2Proof.Machine
end

