-- ==== Sys2Proof/Machine/Issue.lean ====
section
/-! DEFINITION. Fetching, checking and issuing a group: packets and groups (R144 to R146), the checks of R157, what
holds a path back (R70), the choice of slots (R69), words that hold their path, and the run-on of unparked lanes
(R343 to R345). The meaning of a word is a parameter, which Step.lean supplies. -/

namespace Sys2Proof.Machine

/-! ### Fetching a group -/

/-- A word of a group: its position, inside a macro its operation's index, its bits, the word after it, and the
position after it. -/
structure Gw where
  pos : Nat
  mstep : Option Nat
  word : Word
  nxt : Word
  after : Nat
  afterStep : Option Nat
  deriving DecidableEq, Repr

/-- The code of the tenant that a unit executes for (R145, R399). -/
def State.code (s : State) (u : UnitId) : List Byte :=
  ((s.vdis.find (s.vdiOf u)).map (fun (v : Vdi) => v.img.code)).getD []

/-- The word at a code position (R145). -/
def codeWord (code : List Byte) (pos : Nat) : Word :=
  BitVec.ofNat 32 (leNat ((code.drop (12 * (pos / 4) + 4 * (pos % 4))).take 4))

/-- The number of packets of the code. -/
def codePackets (code : List Byte) : Nat := code.length / 12

/-- Whether a word is chained to the next (R144). -/
def chained (w : Word) : Bool := w.getLsbD 31
/-- The STALL field (R144). -/
def stallOf (w : Word) : Nat := (fld w 28 3).toNat

/-- The position after a word that stands at `w` of packet `p` (R145, R146). -/
def afterWord (p w : Nat) (x : Word) : Nat :=
  let e := w + (if fMaj x = 3 then 2 else 1)
  if 3 ≤ e then 4 * (p + 1) else 4 * p + e

/-- The words of the group that begins at word `w` of packet `p` (R145, R146), with fuel for its three words. -/
def packetGroup (code : List Byte) (p : Nat) : Nat → Nat → List Gw
  | 0, _ => []
  | n + 1, w =>
    let x := codeWord code (4 * p + w)
    let e := if fMaj x = 3 then w + 2 else w + 1
    { pos := 4 * p + w, mstep := none, word := x, nxt := if w = 2 then 0 else codeWord code (4 * p + w + 1),
      after := afterWord p w x, afterStep := none } ::
      (if chained x ∧ e ≤ 2 then packetGroup code p n e else [])

/-- One operand field of a macro operation under its mark (R254). -/
def markField (m : Nat) (f x y z : Reg) : Reg := if m = 1 then x else if m = 2 then y else if m = 3 then z else f

/-- A macro operation with its parameters substituted (R84, R179, R254). -/
def macroWord (op : Word) (mark : Byte) (x y z : Reg) : Word :=
  let f (lo k : Nat) : Reg := markField (bits mark.toNat k 2) (fld op lo 6) x y z
  (fld op 22 10 ++ f 16 0 ++ f 10 2 ++ f 4 4 ++ fld op 0 4 : BitVec 32)

/-- The operations of the macro's group that begins at index `k` (R84); after the last one, the path stands at
`done`. -/
def macroGroup (pos done : Nat) (x y z : Reg) : List (Word × Byte) → Nat → List Gw
  | [], _ => []
  | (op, mk) :: ops, k =>
    { pos := pos, mstep := some k, word := macroWord op mk x y z, nxt := 0,
      after := if ops.isEmpty then done else pos, afterStep := if ops.isEmpty then none else some (k + 1) } ::
      (if chained op then macroGroup pos done x y z ops (k + 1) else [])

/-- The macro that a path is inside, with its parameters (R84, R179). -/
def State.macroOf (s : State) (u : UnitId) (pos : Nat) : Option (List (Word × Byte) × Reg × Reg × Reg) :=
  let w := codeWord (s.code u) pos
  ((s.quad u.quadKey).macros.find (fld w 15 7).toNat).map (fun (m : Macro) =>
    (m.ops.zip m.marks, (fld w 10 5).setWidth 6, (fld w 5 5).setWidth 6, (fld w 0 5).setWidth 6))

/-- The position of a path's next group; word 3 of a packet is word 0 of the next. -/
def groupPos (p : Path) : Nat := if p.pc % 4 = 3 then p.pc + 1 else p.pc

/-- The words of a path's next group. -/
def State.groupAt (s : State) (u : UnitId) (p : Path) : List Gw :=
  let code := s.code u
  let pos := groupPos p
  match p.mstep with
  | none => packetGroup code (pos / 4) 3 (pos % 4)
  | some k =>
    let w := codeWord code pos
    let done := afterWord (pos / 4) (pos % 4) w
    match s.macroOf u pos with
    | none => [{ pos := pos, mstep := some k, word := w, nxt := 0, after := done, afterStep := none }]
    | some (ops, x, y, z) => macroGroup pos done x y z (ops.drop k) k

/-! ### The checks of R157 -/

/-- The privilege level that a word needs (R156, R246). -/
def levelNeeded : Instr → Nat
  | .eret => 1
  | .csrr _ n => if n.toNat < 0x100 then 0 else if n.toNat < 0x200 then 1 else 2
  | .csrw _ n => if n = 0x108#12 ∨ n = 0x109#12 ∨ 0x200 ≤ n.toNat then 2 else 1
  | .hmsgRead _ => 2
  | .tlbinv _ => 1
  | .tlbinvAll => 1
  | .mappg .. => 1
  | .mdef .. => 1
  | .frec .. => 1
  | .unpark _ => 1
  | .smsg .. => 2
  | .halt => 2
  | .tlbinvS2 _ => 2
  | .tlbinvS2All => 2
  | _ => 0

/-- The pipes (R400): scalar, vector, memory, matrix. -/
inductive Pipe where
  | scalar | vector | memory | matrix
  deriving DecidableEq, Repr

/-- The pipe of a word (R400, R205). -/
def pipeOf (w : Word) : Pipe :=
  let m := fMaj w
  let f := (fld w 0 4).toNat
  if 0x18 ≤ m ∧ m ≤ 0x26 then .vector
  else if m = 0x35 ∧ f = 1 ∨ m = 0x39 ∨ m = 0x38 ∧ f = 2 then .scalar
  else if 0x30 ≤ m ∧ m ≤ 0x3B ∨ m = 0x3E then .memory
  else if m = 0x3C ∨ m = 0x3D then .matrix
  else .scalar

/-- The control words (R10). -/
def isControl (w : Word) : Bool :=
  let m := fMaj w
  let f := (fld w 0 4).toNat
  decide (0x10 ≤ m ∧ m ≤ 0x15) || decide (m = 0x38 ∧ f = 2) || decide (m = 0x3F ∧ (f = 0 ∨ f = 1 ∨ f = 0xC))

/-- Whether a group obeys R10: one word for each pipe, a control word only at the end. -/
def composed : List Gw → Bool
  | [] => true
  | g :: gs => gs.all (fun h => decide (pipeOf h.word ≠ pipeOf g.word)) && (gs.isEmpty || !isControl g.word) && composed gs

/-- Whether a word is a POOL marker (R158). -/
def isMarker (w : Word) : Bool := decide (fMaj w = 0x3F) && decide (w.toNat % 16 = 0xF)

/-- Step 1 of R157: a LIMM placed against R146, and C = 1 on word 2 of the packet, when word 2 is an instruction; the words that follow a
marker in its packet are none (R158, R393). -/
def placement (code : List Byte) (ws : List Gw) : Option Gw :=
  match ws.find? (fun g => decide (fMaj g.word = 3) && (decide (g.pos % 4 = 2) || (decide (g.pos % 4 = 1) && chained g.word))) with
  | some g => some g
  | none =>
    match ws with
    | [] => none
    | g :: _ =>
      let p := g.pos / 4
      let w := g.pos % 4
      let limm (k : Nat) : Bool := decide (fMaj (codeWord code (4 * p + k)) = 3)
      let isWord := decide (w = 2) || (decide (w = 1) && !limm 1) || (decide (w = 0) && (limm 0 || !limm 1))
      let w2 := codeWord code (4 * p + 2)
      if isWord && chained w2 && !ws.any (fun h => isMarker h.word && decide (h.pos / 4 = p)) then some { g with pos := 4 * p + 2, word := w2, nxt := 0, after := 4 * (p + 1) } else none

/-- Step 2 of R157 for one word; a CSRR of HMSG is the read that takes a message (R258). -/
def checkWord (k : Kind) (plvl : BitVec 2) (g : Gw) : Except Cause Instr :=
  match decode k g.word g.nxt with
  | .error .unassignedMajor => .error .reservedEncoding
  | .error .cueMisuse => .error .cueMisuse
  | .error .illegalMajor => .error .illegalInstr
  | .error .reserved => .error .reservedEncoding
  | .ok (.pool _) => .error .execData
  | .ok i =>
    if plvl.toNat < levelNeeded i then .error .privViolation
    else match i with
      | .csrr d n => .ok (if n = 0x20A#12 then .hmsgRead d else .csrr d n)
      | _ => .ok i

/-- A failed check: the word that failed and the cause. -/
abbrev Failed := Gw × Cause

/-- Step 2 of R157 for the words in packet order. -/
def checkWords (k : Kind) (plvl : BitVec 2) : List Gw → Except Failed (List (Gw × Instr))
  | [] => .ok []
  | g :: gs =>
    match checkWord k plvl g with
    | .error c => .error (g, c)
    | .ok i =>
      match checkWords k plvl gs with
      | .error e => .error e
      | .ok is => .ok ((g, i) :: is)

/-- Whether a scalar word reads a window entry that is not a scalar and not uniform (R63), or an operand marked (u)
is not uniform (R66). -/
def badShape (c : Ctx) (i : Issue) (x : Instr) : Bool :=
  x.uses.sr.any (fun r => decide (56 ≤ r.toNat) &&
    (match i.entry (r.toNat - 56) with | .vec v => !v.isUniform | .scalar _ => false)) ||
  x.uses.uni.any (fun r => !(c.rdV i r).isUniform)

/-- Whether a word reads a register or window entry whose result is not yet readable (R72). -/
def readsEarly (c : Ctx) (i : Issue) (x : Instr) : Bool :=
  let win (r : Reg) : Bool := match i.win[r.toNat - 56]? with | some e => decide (i.cycle < e.ready) | none => false
  x.uses.sr.any (fun r => if r.toNat < 48 then (earlyS i.cycle r.toNat c.pend).isSome else win r) ||
  x.uses.vr.any (fun r => if r.toNat < 56 then (earlyV i.cycle r.toNat (c.vreg r.toNat) c.pend (BitVec.allOnes 32)).isSome else win r)

/-- Steps 3 and 4 of R157. -/
def checkGroup (c : Ctx) (i : Issue) (is : List (Gw × Instr)) : Option Failed :=
  match is with
  | [] => none
  | (g, _) :: _ =>
    if !composed (is.map (fun x => x.1)) then some (g, .illegalInstr)
    else
      match is.find? (fun x => badShape c i x.2) with
      | some x => some (x.1, .operandShape)
      | none =>
        if decide (i.kind = .cast) && c.cctl.getLsbD 0 && is.any (fun x => readsEarly c i x.2) then some (g, .stallShort)
        else none

/-- All checks of R157 on a group. -/
def checked (code : List Byte) (k : Kind) (plvl : BitVec 2) (c : Ctx) (i : Issue) (ws : List Gw) :
    Except Failed (List (Gw × Instr)) :=
  match (match ws with | g :: _ => if g.mstep.isNone then placement code ws else none | [] => none) with
  | some g => .error (g, .illegalInstr)
  | none =>
    match checkWords k plvl ws with
    | .error e => .error e
    | .ok is => match checkGroup c i is with | some e => .error e | none => .ok is

/-! ### What holds the next group back (R70) -/

/-- The class in which a word is counted (R114), for a path whose em is `em`; a word that accesses nothing under
em = 0 changes no counter (R83, R205). -/
def clsOf (em : Word) (x : Instr) : Option Cls :=
  let k : Option Cls := match x with
    | .ldg .. => some .g
    | .ldgN16 .. => some .g
    | .ldgN8 .. => some .g
    | .stg .. => some .g
    | .stg16 .. => some .g
    | .stg8 .. => some .g
    | .poll .. => some .g
    | .ldsx .. => some .g
    | .stsx .. => some .g
    | .atom .. => some .a
    | .atoms _ _ _ _ _ x => if x = 1#1 then some .a else none
    | .bin .. => some .a
    | .tld .. => some .t
    | .tst .. => some .t
    | .collPost .. => some .x
    | _ => none
  if em = 0#32 then none else k

/-- Whether the destination of a word is written when its operation returns (R73, R80). -/
def asyncDest : Instr → Bool
  | .ldg .. => true
  | .ldgN16 .. => true
  | .ldgN8 .. => true
  | .poll .. => true
  | .ldsx .. => true
  | .atom .. => true
  | .atoms _ _ _ _ _ x => decide (x = 1#1)
  | _ => false

/-- Whether a FORK under these masks splits (R178). -/
def forkSplits (em s : Word) : Bool := decide (em &&& s ≠ 0#32) && decide (em &&& ~~~ s ≠ 0#32)

/-- Whether the end of a path whose parent record is `r` makes its sibling go on (R77), with fuel for the records that end
with it. -/
def State.exitMerges (s : State) (u : UnitId) : Nat → Option Nat → Bool
  | 0, _ => false
  | _, none => false
  | n + 1, some r =>
    let e := s.stack u r
    e.arrived && (decide (e.pc ≠ exitedPc) || s.exitMerges u n e.parent)

/-- Undo-log entries that a word's writes add (R80, R161): a JOIN or an EXIT that merges writes em, fm and cf. -/
def State.logEntries (s : State) (u : UnitId) (c : Ctx) (i : Issue) (p : Path) (x : Instr) : Nat :=
  let em := p.em
  let regs := (x.uses.sw.filter (fun r => decide (r.toNat < 48))).length +
    (if asyncDest x ∨ em = 0#32 then 0 else (x.uses.vw.filter (fun r => decide (r.toNat < 56))).length)
  let more := match x with
    | .add .. => 1
    | .sub .. => 1
    | .addc .. => 1
    | .subc .. => 1
    | .addImm .. => 1
    | .subImm .. => 1
    | .call _ => 1
    | .setem _ => 1
    | .setfmt _ => 1
    | .fork a _ => if forkSplits em ((c.rdS i a).setWidth 32) then 1 else 0
    | .join => if i.kind = .cast ∧ (p.parent.map (fun r => (s.stack u r).arrived)).getD false then 3 else 0
    | .exit => if i.kind = .cast ∧ s.exitMerges u 65 p.parent then 3 else 0
    | .eret => 1
    | .thset .. => 1
    | .txl .. => 1
    | _ => 0
  regs + more

/-- The entries of R80 among those that a unit keeps: the model's own do not count. -/
def Ctx.logSize (c : Ctx) : Nat :=
  (c.undo.filter (fun e => match e.saved with | .ret .. => false | _ => !e.own)).length

/-- The words that wait for the path's own far accesses (R356). -/
def waitsForFar (c : Ctx) (i : Issue) (em : Word) : Instr → Bool
  | .fork a _ => forkSplits em ((c.rdS i a).setWidth 32)
  | .join => true
  | .atoms _ _ _ _ _ x => decide (x = 0#1)
  | .ringTicket .. => true
  | .ringFill .. => true
  | .ringTake .. => true
  | .ringFree _ => true
  | .barArv _ => true
  | .cueBar _ => true
  | _ => false

/-- Whether a far access of a path is unperformed (R356). -/
def State.pathFar (s : State) (u : UnitId) (p : Path) : Bool :=
  s.fars.any (fun f => decide (f.unit = u) && decide (f.pid = p.pid) && f.unperformed)

/-- Whether an access of the unit is not yet performed (R114, R116): BIN and remote ATOMS count here. -/
def State.accessing (s : State) (u : UnitId) : Bool :=
  s.fars.any (fun f => decide (f.unit = u) && !f.performed && (decide (f.cls = .g) || decide (f.cls = .a) || decide (f.cls = .t)))

/-- Whether an access of the path may still fault: a merge waits for it, and so does a trap of a younger word, which
a rollback would discard (R142, R345, R355). -/
def State.mayFault (s : State) (u : UnitId) (p : Path) : Bool :=
  s.fars.any (fun f => decide (f.unit = u) && decide (f.pid = p.pid) && f.unperformed && !f.checked)

/-- An ATOMS with .rel or .ar waits before issue until the unit's earlier accesses are performed (R207); at .device and .system it
drains the troupe's buffers as it issues. -/
def releaseWaits (s : State) (u : UnitId) : Instr → Bool
  | .atoms _ _ _ o _ _ => decide (2 ≤ o.toNat) && s.accessing u
  | _ => false

/-- Posts of a unit that wait for their descriptor or for an entry, on paths other than `pid`: cnt.x is to count them (R115). -/
def State.heldPosts (s : State) (u : UnitId) (pid : Nat) : Nat :=
  match s.ctxs.find u with
  | none => 0
  | some c => ((c.a :: c.b :: c.spilled.map (fun (e : Nat × Path) => e.2)).filter (fun (p : Path) =>
      decide (p.pid ≠ pid) && p.holders.any (fun (h : Held) => match h.instr with | .collPost .. => true | _ => false))).length

/-- Whether a word of a path's group would raise a counter to 64 (R115). -/
def State.counterFull (s : State) (u : UnitId) (p : Path) (words : List Instr) : Bool :=
  words.any (fun x => match clsOf p.em x with
    | some k => decide (63 ≤ s.counter u k + (if k = .x then s.heldPosts u p.pid else 0))
    | none => false)

/-- Whether the path's next group is held back by anything but its timing (R70). -/
def State.groupHeld (s : State) (u : UnitId) (c : Ctx) (i : Issue) (p : Path) (is : List (Gw × Instr)) : Bool :=
  let words := is.map (fun x => x.2)
  (i.log && decide (32 < c.logSize + (words.map (s.logEntries u c i p)).sum)) ||
  (s.pathFar u p && words.any (waitsForFar c i p.em)) ||
  (match p.acq with
   | some id => s.fars.any (fun f => decide (f.id = id) && !f.done) && is.any (fun x => decide (pipeOf x.1.word = .memory))
   | none => false) ||
  (is.any (fun x => decide (pipeOf x.1.word = .memory)) && s.fars.any (fun f => f.stuck && decide (f.unit.quadKey = u.quadKey))) ||
  words.any (fun x => x.uses.vw.any (fun d => s.fars.any (fun f => decide (f.unit = u) && decide (f.dest = some d.toNat) && !f.done))) ||
  s.counterFull u p words || words.any (releaseWaits s u)

/-- The largest number of elements of `xs` that share a key. -/
def mostShared (xs : List Nat) (key : Nat → Nat) : Nat :=
  xs.foldl (fun m x => max m (xs.filter (fun y => key y = key x)).length) 0

/-- Bank delay of a group: register banks (R12, R71) and scratchpad banks (R111). -/
def bankDelay (c : Ctx) (i : Issue) (em : Word) (size : Nat) (is : List (Gw × Instr)) : Nat :=
  let regs := ((is.flatMap (fun x => x.2.uses.vr)).filterMap (fun r => if r.toNat < 48 then some r.toNat else none)).dedup
  let d := mostShared regs (fun r => r % 4) - 1
  let k := is.foldl (fun m x =>
    match scratchAddrs c i x.2 with
    | none => m
    | some f =>
      let gs := ((lanesOf em).filterMap (fun l => if 0 ≤ f l ∧ f l < size then some ((f l).toNat / 64) else none)).dedup
      max m (mostShared gs (fun g => g / 2 ^ 14 * 16 + g % 16) - 1)) 0
  max d k

/-! ### The run-on (R343 to R345) -/

/-- Words that a run-on executes: vector words with a V-space destination that do not cross lanes, VLANEID and VAFF,
and the words of the own scratchpad. -/
def runsOn (g : Gw) (x : Instr) : Bool :=
  let m := fMaj g.word
  match x with
  | .vcmp .. => false
  | .vfcmp .. => false
  | .smovv .. => false
  | .vlaneid _ => true
  | .vaff .. => true
  | .vaffImm .. => true
  | .lds .. => true
  | .sts .. => true
  | .atoms _ _ _ _ _ x => decide (x = 0#1)
  | _ => decide (0x18 ≤ m ∧ m ≤ 0x22) || decide (m = 0x25) || decide (m = 0x26)

/-- The run-on of the path's own level, when there is one. -/
def Path.running (p : Path) : Option RunOn :=
  match p.runs with
  | r :: _ => if r.plvl = p.plvl then some r else .none
  | [] => .none

/-- Whether a word of the own scratchpad fails a check of R113 on a lane of `em`. -/
def scratchTraps (c : Ctx) (i : Issue) (em : Word) (bound : Nat) (x : Instr) : Bool :=
  let size := match x with | .lds _ _ _ z => ldsSize z | .sts _ _ _ z => ldsSize z | _ => 4
  match scratchAddrs c i x with
  | some f => (scratchChecks size bound f (lanesOf em)).isSome
  | none => false

/-! ### Eligibility (R70) -/

/-- The issue context of a path's next group. -/
def State.pathIssue (s : State) (u : UnitId) (slotB : Bool) (p : Path) : Issue :=
  { cycle := s.cycle, group := s.stamp + 1, stamp := s.stamp + 1, pos := p.pc, slotB := slotB, log := s.logging u, late := false,
    kind := u.kind, em := p.em, fm := p.fm, win := p.win }

/-- Whether the unit may issue at all: its block's clock runs, and its troupe has started and runs, or its context
holds a Callboard core (R332). The cue stream drives the array of every quadrant of its troupe, and needs the clock of each. -/
def State.unitRuns (s : State) (u : UnitId) : Bool :=
  match u with
  | .board v q => !s.stopped.contains 1072 && ((s.queue v q).map (fun (y : Queue) => y.core.isSome)).getD false
  | .cue _ _ => ((s.troupeOf u).map (fun (t : Nat × Troupe) =>
      t.2.started && !t.2.stopped && t.2.quads.all (fun q => !s.stopped.contains (quadKey t.2.core q)))).getD false
  | _ => !s.stopped.contains u.quadKey && ((s.troupeOf u).map (fun (t : Nat × Troupe) => t.2.started && !t.2.stopped)).getD false

/-- The checked words of the path's next group, when it would pass the checks if it issued now. -/
def State.wordsNow (s : State) (u : UnitId) (slotB : Bool) (c : Ctx) : List (Gw × Instr) :=
  let p := c.path slotB
  match checked (s.code u) u.kind p.plvl c (s.pathIssue u slotB p) (s.groupAt u p) with
  | .ok is => is
  | .error _ => []

/-- The words of the path's next group, for what decides when it issues: whether its sources are readable is checked when it does
(R70, R72, R157). -/
def State.nextWords (s : State) (u : UnitId) (slotB : Bool) (c : Ctx) : List (Gw × Instr) := s.wordsNow u slotB { c with cctl := 0 }

/-- Whether a path waits for something other than its next group (R70, R342, R344): a held word, a handler's level,
or a meeting. -/
def State.resumes (s : State) (u : UnitId) (slotB : Bool) (c : Ctx) : Bool :=
  let p := c.path slotB
  let is := s.wordsNow u slotB c
  p.live && ((match p.held with | some h => !h.asleep | none => false) || (p.held.isNone && p.entry.isSome) ||
    p.held.isNone && p.entry.isNone &&
    (match p.running with
     | some r => if r.parked = 0#32 then decide (r.meet = some (p.pc, p.mstep)) else decide (p.em = 0#32) || decide (is = []) ||
         is.any (fun x => !runsOn x.1 x.2 || scratchTraps c (s.pathIssue u slotB p) p.em (((s.troupeOf u).map (fun (t : Nat × Troupe) => t.2.scratchSize)).getD 0) x.2)
     | none => false))

/-- Whether nothing holds the path's next group but a bank delay and the order among siblings. -/
def State.readyButBanks (s : State) (u : UnitId) (slotB : Bool) (c : Ctx) : Bool :=
  let p := c.path slotB
  p.live && p.held.isNone && p.entry.isNone && s.unitRuns u && !s.resumes u slotB c && decide (p.readyAt ≤ s.cycle) &&
    !s.groupHeld u c (s.pathIssue u slotB p) p (s.nextWords u slotB c)

/-- The bank delay that a path still owes before its next group. -/
def State.owedDelay (s : State) (u : UnitId) (slotB : Bool) (c : Ctx) : Nat :=
  let p := c.path slotB
  if p.delayed then 0
  else bankDelay c (s.pathIssue u slotB p) p.em (((s.troupeOf u).map (fun (t : Nat × Troupe) => t.2.scratchSize)).getD 0)
    (s.nextWords u slotB c)

/-- Whether a path has ceased to be eligible by more than its timing (R70, R74, R79): a STALL interval and a bank delay end by
themselves, and its sibling keeps its turn (R13; log entry 13). -/
def State.ceased (s : State) (u : UnitId) (slotB : Bool) (c : Ctx) : Bool :=
  let p := c.path slotB
  !p.live || p.held.isSome || p.entry.isSome || p.demoted || s.resumes u slotB c ||
    s.groupHeld u c (s.pathIssue u slotB p) p (s.nextWords u slotB c)

/-- A demoted path, or a new one, no longer waits for its sibling when that has ceased to be eligible (R74, R79). -/
def State.releaseSibling (s : State) (u : UnitId) (slotB : Bool) : State :=
  match s.ctxs.find u with
  | none => s
  | some c =>
    if (c.path slotB).demoted && s.ceased u (!slotB) c then s.setCtx u (c.onPath slotB (fun p => { p with demoted := false })) else s

/-- What a cycle finds of a path before the slots are chosen. A word that would raise a counter to 64 waits as WAITC would, and
issues in the cycle after that wait ends (R115). A path that is otherwise eligible starts its bank delay (R71, R111). -/
def State.prepareSlot (s : State) (u : UnitId) (slotB : Bool) : State :=
  match s.ctxs.find u with
  | none => s
  | some c =>
    let p := c.path slotB
    if p.live && p.held.isNone && p.entry.isNone && s.counterFull u p ((s.nextWords u slotB c).map (fun x => x.2)) then
      s.setCtx u (c.setPath slotB { p with readyAt := max p.readyAt (s.cycle + 2) })
    else if s.readyButBanks u slotB c && !p.demoted then
      let d := s.owedDelay u slotB c
      (s.setCtx u (c.setPath slotB { p with delayed := true, readyAt := if d = 0 then p.readyAt else s.cycle + d })).count (s.vdiOf u) 5 d
    else s

/-- The slots of a unit before the choice: holds that end, then delays that begin. -/
def State.prepare (s : State) (u : UnitId) : State :=
  (((s.releaseSibling u false).releaseSibling u true).prepareSlot u false).prepareSlot u true

/-- Whether a slot is eligible (R70). -/
def State.eligible (s : State) (u : UnitId) (slotB : Bool) : Bool :=
  match s.ctxs.find u with
  | none => false
  | some c => s.readyButBanks u slotB c && !(c.path slotB).demoted

/-- Whether the slot's next group holds a memory word. -/
def State.holdsMemory (s : State) (u : UnitId) (slotB : Bool) : Bool :=
  match s.ctxs.find u with
  | none => false
  | some c => (s.groupAt u (c.path slotB)).any (fun g => decide (pipeOf g.word = .memory))

/-! ### The choice of slots (R69) -/

/-- The eight slots of a quadrant in the fixed order. -/
def quadSlots : List (Nat × Bool) := (List.range 4).flatMap (fun c => [(c, false), (c, true)])

/-- The slots that issue in this cycle, and the round after it. -/
def chooseSlots (elig : List (Nat × Bool)) (round : List (Nat × Bool)) (mem : Nat × Bool → Bool) :
    List (Nat × Bool) × List (Nat × Bool) :=
  let left := elig.filter (fun x => !round.contains x)
  let (cand, rd) := if left.isEmpty then (elig, []) else (left, round)
  match cand with
  | [] => ([], rd)
  | [x] => ([x], x :: rd)
  | x :: y :: _ => if x.1 ≠ y.1 ∧ !(mem x && mem y) then ([x, y], y :: x :: rd) else ([x], x :: rd)

/-- The scratchpad banks, numbered through the troupe, that the next group of a path takes (R111). -/
def State.banksOf (s : State) (u : UnitId) (slotB : Bool) : List Nat :=
  match s.ctxs.find u with
  | none => []
  | some c =>
    let p := c.path slotB
    let size := ((s.troupeOf u).map (fun (t : Nat × Troupe) => t.2.scratchSize)).getD 0
    (s.nextWords u slotB c).flatMap (fun x =>
      match scratchAddrs c (s.pathIssue u slotB p) x.2 with
      | none => []
      | some f => (lanesOf p.em).filterMap (fun l =>
          if 0 ≤ f l ∧ f l < size then some ((f l).toNat / 2 ^ 20 * 16 + (f l).toNat / 64 % 16) else none))

/-- A slot whose bank is taken in this cycle by a word of a lower-ranked quadrant of its troupe issues a cycle later still, and
tries again then (R71, R111, R256). -/
def State.yieldBanks (s : State) (taken : List Nat) (u : UnitId) (slotB : Bool) : State :=
  if s.eligible u slotB && (s.banksOf u slotB).any taken.contains then
    (s.onCtx u (fun c => c.onPath slotB (fun p => { p with readyAt := s.cycle + 1 }))).count (s.vdiOf u) 5 1
  else s

/-- A slot whose next group takes a bank of a quadrant whose clock is stopped waits for the clock (R332). -/
def State.yieldClock (s : State) (u : UnitId) (slotB : Bool) : State :=
  let qs := ((s.troupeOf u).map (fun (t : Nat × Troupe) => t.2.quads.map (fun q => quadKey t.2.core q))).getD []
  if s.stopped ≠ [] ∧ s.eligible u slotB ∧ (s.banksOf u slotB).any (fun b => s.stopped.contains (qs.getD (b / 16) 1073)) then
    s.onCtx u (fun c => c.onPath slotB (fun p => { p with readyAt := s.cycle + 1 }))
  else s

/-- Issue of a quadrant: its resumed paths and the slots that the ports choose, after the lower-ranked quadrants of its troupe. -/
def State.scheduleQuad (s : State) (core q : Nat) : State :=
  let us := (List.range 4).map (fun l => UnitId.cast core q l)
  let key := (s.troupeAt core q).map (fun (t : Nat × Troupe) => t.1)
  let taken := (s.issueQ.filter (fun t => !t.resume && decide ((s.troupeOf t.unit).map (fun (x : Nat × Troupe) => x.1) = key))).flatMap (fun t => s.banksOf t.unit t.slotB)
  let s0 := us.foldl State.prepare s
  let s1 := us.foldl (fun (x : State) u => (((x.yieldBanks taken u false).yieldBanks taken u true).yieldClock u false).yieldClock u true) s0
  let u (x : Nat × Bool) : UnitId := .cast core q x.1
  let elig := quadSlots.filter (fun x => s1.eligible (u x) x.2)
  let qd := s1.quad (quadKey core q)
  let (go, rd) := chooseSlots elig qd.round (fun x => s1.holdsMemory (u x) x.2)
  let res := quadSlots.filter (fun x => match s1.ctxs.find (u x) with | some c => s1.unitRuns (u x) && s1.resumes (u x) x.2 c | none => false)
  let turn (b : Bool) (x : Nat × Bool) : Turn := { unit := u x, slotB := x.2, resume := b }
  { s1.setQuad (quadKey core q) { qd with round := rd } with
    issueQ := s1.issueQ ++ quadSlots.filterMap (fun x =>
      if res.contains x then some (turn true x) else if go.contains x then some (turn false x) else none) }

/-- A unit with one path: the cue stream or a Callboard context. -/
def State.scheduleOne (s : State) (u : UnitId) : State :=
  match s.ctxs.find u with
  | none => s
  | some c =>
    if !s.unitRuns u then s
    else if s.resumes u false c then { s with issueQ := s.issueQ ++ [{ unit := u, slotB := false, resume := true }] }
    else if s.readyButBanks u false c then { s with issueQ := s.issueQ ++ [{ unit := u, slotB := false, resume := false }] }
    else s

/-- A stagehand issues when it runs and is not held by its last instruction. -/
def State.scheduleHand (s : State) (u : UnitId) : State :=
  match s.hands.find u with
  | none => s
  | some h =>
    if s.unitRuns u && h.started && !h.exited && !h.asleep && decide (h.readyAt ≤ s.cycle) then
      { s with issueQ := s.issueQ ++ [{ unit := u, slotB := false, resume := h.held.isSome }] }
    else s

/-- The units that issue in this cycle: every troupe's casts by rank, its stagehands and its cue stream (R214), then
the Callboard contexts. -/
def State.schedule (s : State) : State :=
  let one (s1 : State) (e : Nat × Troupe) : State :=
    let s2 := e.2.quads.foldl (fun (x : State) q => x.scheduleQuad e.2.core q) s1
    let s3 := e.2.hands.foldl State.scheduleHand s2
    s3.scheduleOne e.2.cue
  let s4 := s.troupes.foldl one s
  let boards := s4.ctxs.filterMap (fun (e : UnitId × Ctx) => match e.1 with | .board v q => some (UnitId.board v q) | _ => none)
  { boards.foldl State.scheduleOne s4 with scheduled := true }

/-! ### Running a group -/

/-- The meaning of a word. -/
abbrev Run := Instr → State → Host.Outcome State Fault Refusal

/-- Drop the results that are readable, and what an older write of the same register left, lane by lane in a vector register
(R72). `seen` holds the registers and lanes that a newer result has written. -/
def prunePend (cycle : Nat) : List Pend → List ((Bool × Nat) × Word) → List Pend
  | [], _ => []
  | p :: ps, seen =>
    let newer (k : Bool × Nat) : Word := seen.foldl (fun (m : Word) (x : (Bool × Nat) × Word) => if x.1 = k then m ||| x.2 else m) 0#32
    match p with
    | .s n v r g =>
      let rest := prunePend cycle ps (((false, n), BitVec.allOnes 32) :: seen)
      if newer (false, n) = 0#32 ∧ cycle < r then .s n v r g :: rest else rest
    | .v n v r g m =>
      let rest := prunePend cycle ps (((true, n), m) :: seen)
      let live := m &&& ~~~ newer (true, n)
      if live ≠ 0#32 ∧ cycle < r then .v n v r g live :: rest else rest

/-- The translation registers and handle fields that a word reads, by their numbers in `poisonS`. -/
def readsSpecial (c : Ctx) (i : Issue) (x : Instr) : List Nat :=
  let whole (h : Nat) : List Nat := (List.range 8).map (fun k => 128 + 8 * h + k)
  let named (r : Reg) : List Nat := whole (bits (c.rdS i r).toNat 0 4)
  match x with
  | .ldg _ _ t _ _ => [64 + t.toNat]
  | .ldgN16 _ _ t _ _ => [64 + t.toNat]
  | .ldgN8 _ _ t _ _ => [64 + t.toNat]
  | .stg _ _ t _ _ => [64 + t.toNat]
  | .stg16 _ _ t _ _ => [64 + t.toNat]
  | .stg8 _ _ t _ _ => [64 + t.toNat]
  | .poll _ _ t _ _ => [64 + t.toNat]
  | .atom _ _ t _ _ _ => [64 + t.toNat]
  | .thget _ n q h => if q = 0#1 then [128 + 8 * h.toNat + n.toNat] else []
  | .tld _ _ h => whole h.toNat
  | .tst _ _ h => whole h.toNat
  | .mldwH d => named d
  | .mmaoH d a _ => named d ++ named a
  | .mmawH _ a _ => named a
  | _ => []

/-- Whether a word reads a register that holds poison (R361). -/
def readsPoison (c : Ctx) (i : Issue) (x : Instr) : Bool :=
  (!c.poisonS.isEmpty && (readsSpecial c i x).any c.poisonS.contains) || x.uses.sr.any (fun r => c.poisonS.contains r.toNat) || x.uses.vr.any (fun r => c.poisonV.any (fun k => k / 32 = r.toNat))

/-- Whether the fetch of a group reads a poisoned word of the code or of the control store (R361). -/
def State.badFetch (s : State) (u : UnitId) (ws : List Gw) : Bool :=
  match s.vdis.find (s.vdiOf u) with
  | none => false
  | some v => ws.any (fun g => v.badCode.contains g.pos ||
      (match g.mstep with
       | some k => (s.quad u.quadKey).badMacros.contains ((fld (codeWord v.img.code g.pos) 15 7).toNat, k)
       | none => false))

/-- The state in which a word of the group runs. -/
def State.atWord (s : State) (base : Cur) (g : Gw) : State :=
  { s with stamp := s.stamp + 1,
           cur := { base with pos := g.pos, mstep := g.mstep, word := g.word, after := g.after, afterStep := g.afterStep,
                              stamp := s.stamp + 1, tag := s.stamp + 1, trap := none, demote := s.cur.demote } }

/-- The state in which word `i` of the group runs; the word that leads the group finds what its engine has answered, and keeps the
issue order of its request. -/
def State.forWord (s : State) (base : Cur) (ans : Option Held) (g : Gw) (i : Instr) : State :=
  let w := s.atWord base g
  match ans with
  | some h => if h.instr = i then { w with cur := { w.cur with tag := h.tag, vals := if h.vals = [] then none else some h.vals } } else w
  | none => w

/-- The words that hold the path of a turn. -/
def State.holdersAt (s : State) (t : Turn) : List Held := ((s.ctxs.find t.unit).map (fun (c : Ctx) => (c.path t.slotB).holders)).getD []

/-- Words that leave their path, change its level, or commit or meet at a point: in a group with an earlier word that holds
the path, they wait for it. -/
def waitsAlone : Instr → Bool
  | .exit => true
  | .join => true
  | .fork _ _ => true
  | .yield => true
  | .cueBar _ => true
  | .trap _ => true
  | .eret => true
  | .halt => true
  | .scene _ _ => true
  | _ => false

/-- Whether a matrix word of the cue stream waits to issue: its group has then not issued (R226). -/
def State.matrixWaits (s : State) (t : Turn) : Bool :=
  (s.holdersAt t).any (fun (h : Held) => !h.asleep && decide (pipeOf h.word = .matrix))

/-- The path tries its group again in the next cycle. -/
def State.deferGroup (s : State) (t : Turn) : State :=
  s.onCtx t.unit (fun c => c.onPath t.slotB (fun p => { p with readyAt := s.cycle + 1 }))

/-- Whether the word at issue waits for the earlier words of its group: one of them holds the path, or is a far access that the
word may not issue behind (R205, R356). A FORK that does not split waits for nothing. -/
def State.waitsInGroup (s : State) (i : Instr) : Bool :=
  match s.ctxs.find s.cur.turn.unit with
  | none => false
  | some c =>
    let p := c.path s.cur.turn.slotB
    let splits := match i with | .fork a _ => forkSplits s.cur.em ((c.rdS s.issue a).setWidth 32) | _ => true
    (!p.holders.isEmpty && waitsAlone i && splits) || (s.pathFar s.cur.turn.unit p && waitsForFar c s.issue s.cur.em i)

/-- The sources that such a word keeps, as its group read them (R72). -/
def State.sourcesKept (s : State) (i : Instr) : List Dword :=
  match s.ctxs.find s.cur.turn.unit, i with
  | some c, .fork a _ => [c.rdS s.issue a]
  | some c, .scene a n => (List.range n.toNat).map (fun k => c.rdS s.issue (a + BitVec.ofNat 6 k))
  | _, _ => []

/-- Run the words of a group in order. A word that traps gives up the whole group: it is taken from the state before
the group (R157, R339), also when the word would have waited; a trap after the group's effects keeps them (R171, R248). -/
def runWords (run : Run) (base : Cur) (ans : Option Held) (s0 : State) : List (Gw × Instr) → State → Host.Outcome State Fault Refusal
  | [], s => .next s
  | (g, i) :: is, s =>
    let w := s.forWord base ans g i
    match run i w with
    | .fault f => .fault f
    | .refused r => .refused r
    | .next s1 =>
      match s1.cur.trap with
      | some false => run i (s0.forWord base ans g i)
      | b =>
        if w.waitsInGroup i then runWords run base ans s0 is (w.holdPath i (w.sourcesKept i) false)
        else if b.isSome then .next s1
        else if s1.matrixWaits base.turn then .next (s0.deferGroup base.turn)
        else runWords run base ans s0 is s1

/-- A path's group, once its checks have passed: the path stands at the position after it before its words run. -/
def State.advance (s : State) (u : UnitId) (slotB : Bool) (p : Path) (next : Nat) (mstep : Option Nat) (stall : Nat) : State :=
  s.onCtx u (fun c =>
    let c1 := { c with pend := prunePend s.cycle c.pend [] }
    let other := c1.path (!slotB)
    (c1.setPath (!slotB) { other with demoted := false }).setPath slotB
      { p with pc := next, mstep := mstep, readyAt := s.cycle + 1 + stall, delayed := false })

/-- The path of a unit's slot. -/
def State.pathOf (s : State) (u : UnitId) (slotB : Bool) : Path := ((s.ctxs.find u).map (fun (c : Ctx) => c.path slotB)).getD Path.none

/-- A unit consumes poison in the fetch of a word or in a register that it reads (R361): the point stops with KIND 1, for a cue
stream with KIND 2, and a sheet ends with STATUS 2 (R348); the record names the failing word (R350). -/
def State.poisonStop (s : State) (t : Turn) (g : Option Gw) : State :=
  let pos := (g.map (fun (x : Gw) => x.pos)).getD s.cur.pos
  let ms := g.bind (fun (x : Gw) => x.mstep)
  let word : Dword := ((g.map (fun (x : Gw) => x.word)).getD 0).setWidth 64
  match t.unit with
  | .board v q => s.sheetFault v q .poisoned word
  | .cue _ _ => s.stopUnit t.unit 2 .poisoned (posDword pos ms) word
  | _ => s.stopUnit t.unit 1 .poisoned (posDword pos ms) word

/-- The word of a group that the group waits for before it issues; under em = 0 only MAPPG and MDEF have an effect (R83). -/
def leader (em : Word) (is : List (Gw × Instr)) : Option (Gw × Instr) :=
  is.find? (fun x => leadsGroup x.2 && (decide (em ≠ 0#32) || decide (fMaj x.1.word = 0x3F)))

/-- The word that holds the path leads its group, which has not issued. -/
def State.markLead (s : State) (t : Turn) : State :=
  s.onCtx t.unit (fun c => c.onPath t.slotB (fun p => { p with held := p.held.map (fun (h : Held) => { h with leads := true }) }))

/-- The words of a group issue, from the state before the group and the state in which its path has moved on. A group with a leader
waits for the leader's check first, unless a word of it traps now (R339). -/
def State.issueWords (run : Run) (t : Turn) (base : Cur) (ans : Option Held) (is : List (Gw × Instr)) (s0 s1 : State) :
    Host.Outcome State Fault Refusal :=
  let all := runWords run { base with late := is.any (fun x => faultsWhole x.2) } ans s0 is s1
  match all, (if ans.isSome then none else leader base.em is) with
  | .next s2, some (g, i) =>
    if s2.cur.trap = some false then all
    else
      match run i (s0.atWord base g) with
      | .next s3 => if (s3.holdersAt t).isEmpty then all else .next (s3.markLead t)
      | o => o
  | _, _ => all

/-- The words of the path's next group, after the checks of R157 and R341. -/
def State.issueChecked (run : Run) (s : State) (t : Turn) (c : Ctx) (ans : Option Held) : Host.Outcome State Fault Refusal :=
  let p := c.path t.slotB
  let code := s.code t.unit
  let pos := groupPos p
  let ws := s.groupAt t.unit p
  let (next, ms) := ((ws.getLast?).map (fun (g : Gw) => (g.after, g.afterStep))).getD (pos, none)
  let base : Cur :=
    { turn := t, pos := pos, mstep := p.mstep, word := 0, nextPos := next, after := next, afterStep := ms, em := p.em,
      fm := p.fm, win := p.win, group := s.stamp + 1, stamp := s.stamp + 1, tag := s.stamp + 1, vals := none, trap := none, demote := false,
      late := false }
  let s0 := { s with cur := base }
  if codePackets code ≤ pos / 4 then .next { s0.take .protFault 0 pos with cur := { base with trap := some false } }
  else if p.mstep.isSome ∧ ((s.macroOf t.unit pos).isNone ∨ ws = []) then
    .next ((ws.foldl (fun (x : State) g => x.atWord base g) s0).raise .illegalInstr)
  else if s.badFetch t.unit ws then
    .next (s0.poisonStop t (ws.find? (fun g => s.badFetch t.unit [g])))
  else
    match checked code t.unit.kind p.plvl c (s.pathIssue t.unit t.slotB p) ws with
    | .error (g, .execData) => run (.pool (fld g.word 4 18)) (s0.atWord base g)
    | .error (g, .reservedEncoding) => run (.reservedEncodingWord g.word) (s0.atWord base g)
    | .error (g, cause) => .next ((s0.atWord base g).raise cause)
    | .ok is =>
      if is.any (fun x => readsPoison c (s.pathIssue t.unit t.slotB p) x.2) then
        .next (s0.poisonStop t ((is.find? (fun x => readsPoison c (s.pathIssue t.unit t.slotB p) x.2)).map (fun x => x.1)))
      else
        let stall := ((ws.getLast?).map (fun (g : Gw) => stallOf g.word)).getD 0
        let s1 := (s0.advance t.unit t.slotB p next ms stall).count (s.vdiOf t.unit)
          (if t.unit.kind = .cue then 2 else 1) (if t.unit.kind = .board then 0 else 1)
        State.issueWords run t base ans is s0 s1

/-- Issue the next group of a path; `ans` is the word that has led it. A trap waits while an older access of the path may still
fault. -/
def State.issueGroup (run : Run) (s : State) (t : Turn) (c : Ctx) (ans : Option Held) : Host.Outcome State Fault Refusal :=
  match s.issueChecked run t c ans with
  | .next s1 =>
    if s1.cur.trap.isSome ∧ s.mayFault t.unit (c.path t.slotB) then .next { s.deferGroup t with cur := { s1.cur with demote := false } } else .next s1
  | o => o

/-- The run-on stops at its meeting word and the parked lanes enter the handler, or the resumed lanes have reached
it and the two groups merge (R344, R345). The cause of the lowest-numbered parked lane decides the handler (R244). -/
def State.meet (s : State) (u : UnitId) (slotB : Bool) (c : Ctx) (r : RunOn) (rest : List RunOn) : State :=
  let p := c.path slotB
  if s.mayFault u p then s
  else if r.parked = 0#32 then
    s.setCtx u (c.setPath slotB { p with em := p.em ||| r.wait, win := [], runs := rest })
  else
    let low := (lanesOf r.parked).headD 0
    match c.parked.find? (fun k => decide (k.pid = p.pid) && decide (k.lane = low) && decide (k.level = 3)) with
    | none => s
    | some k =>
      let info : Dword := k.op.word.setWidth 64
      if p.plvl = 2#2 then s.haltUnit u (.trapped u k.cause (posDword k.op.pos k.op.mstep) info)
      else
        let lvl := if p.plvl = 0#2 ∧ k.cause ≠ .stage2Fault then 1 else 2
        let q := { p with em := r.parked,
                          runs := { r with parked := 0, wait := r.wait ||| p.em, meet := some (p.pc, p.mstep) } :: rest }
        -- a lane's record replaces what an earlier fault left of it at this level
        let mine (x : Park) : Bool := decide (x.pid = p.pid) && decide (x.level = 3) && active r.parked x.lane
        let c1 := { c with parked := (c.parked.filter (fun (x : Park) => !(decide (x.level = lvl) && active r.parked x.lane))).map
                             (fun (x : Park) => if mine x then { x with level := lvl } else x) }
        let tr : Trap := { level := lvl, cause := k.cause.code, tval := info, epc := k.op.after, mstep := k.op.afterStep,
                           em := r.parked, park := r.parked, record := [] }
        let s1 := s.setCtx u (c1.setPath slotB q)
        let busy := if lvl = 1 then c.sup.busy else c.hyp.busy
        if busy = none ∨ busy = some p.pid then s1.enterHandler u slotB tr
        else s1.onCtx u (fun x => x.onPath slotB (fun y => { y with entry := some tr }))

/-- The other words that hold a path still hold it, once the first has been tried again. -/
def State.keepHolders (s : State) (t : Turn) (pid : Nat) (also : List Held) : State :=
  s.onCtx t.unit (fun c =>
    let g (p : Path) : Path := if p.pid = pid ∧ p.live then ({ p with also := p.also ++ also } : Path).nextHolder else p
    { c with a := g c.a, b := g c.b, spilled := c.spilled.map (fun (e : Nat × Path) => (e.1, g e.2)) })

/-- Words that wait, once they are held, until their path's far accesses are performed (R356). -/
def heldForFar : Instr → Bool
  | .fork _ _ => true
  | .join => true
  | .cueBar _ => true
  | _ => false

/-- The state in which the word that holds a path is tried again. -/
def State.asHeld (s : State) (t : Turn) (c : Ctx) (h : Held) : State :=
  let p := c.path t.slotB
  { s with cur :=
      { turn := t, pos := h.pos, mstep := h.mstep, word := h.word, nextPos := h.nextPos, after := h.after, afterStep := h.afterStep, em := h.em, fm := h.fm,
        win := p.win, group := s.stamp + 1, stamp := s.stamp + 1, tag := h.tag, vals := if h.vals = [] then none else some h.vals, trap := none,
        demote := false, late := false },
           stamp := s.stamp + 1 }.setCtx t.unit (c.setPath t.slotB { p with held := none, also := [], readyAt := max p.readyAt (s.cycle + 1) })

/-- A path that waits: its handler's level, its meeting word, or the word that holds it (R70, R342 to R345, R356). -/
def State.resumePath (run : Run) (s : State) (t : Turn) (c : Ctx) : Host.Outcome State Fault Refusal :=
  let p := c.path t.slotB
  match p.held with
  | some h =>
    if heldForFar h.instr && s.pathFar t.unit p then .next s
    else
      match run h.instr (s.asHeld t c h) with
      | .next s2 => .next (if s2.cur.trap.isSome then s2 else s2.keepHolders t p.pid p.also)
      | o => o
  | none =>
    match p.entry with
    | some tr => .next (s.takeEntry t.unit t.slotB c tr)
    | none =>
      match p.runs with
      | r :: rest => if r.plvl = p.plvl then .next (s.meet t.unit t.slotB c r rest) else .next s
      | [] => .next s

/-- The word that leads a group is tried again before the group issues: it traps, or it still waits, or its check has passed or it
faults as a whole, and then the group issues with it (R339, R403). -/
def State.tryLead (run : Run) (s : State) (t : Turn) (c : Ctx) (h : Held) : Option (Host.Outcome State Fault Refusal) :=
  match run h.instr (s.asHeld t c h) with
  | .next s2 =>
    if s2.cur.trap = some false then some (.next (if s.mayFault t.unit (c.path t.slotB) then s else s2))
    else if s2.cur.trap.isNone && (s2.holdersAt t).any (fun k => !k.answered) then some (.next (s2.markLead t))
    else none
  | o => some o

/-- The registers that a stagehand's instruction reads (R260, R263). -/
def handReads : Instr → List (BitVec 5)
  | .stagehandInstruction i _ =>
    match i with
    | .jalr _ a _ => [a]
    | .br _ a b _ => [a, b]
    | .ld _ _ a _ => [a]
    | .st _ a b _ => [a, b]
    | .opi _ _ a _ => [a]
    | .op _ _ a b => [a, b]
    | .md _ _ a b => [a, b]
    | .csr o _ a _ => match o with | .rw => [a] | .rs => [a] | .rc => [a] | _ => []
    | _ => []
  | .tcopyIn _ b a => [a, b]
  | .tcopyOut _ b a => [a, b]
  | .xhSet _ _ b a => [a, b]
  | .xwait a => [a]
  | .xbin b a => [a, b]
  | .xsemAdd b a => [a, b]
  | .xsemWait b a => [a, b]
  | .rngPut _ a => [a]
  | _ => []

/-- Whether the fetch of a stagehand's instruction or a register that it reads is poisoned (R361). -/
def Hand.consumes (h : Hand) (w : Word) (x : Instr) : Bool :=
  let pc := h.pc.toNat
  let last := pc + (if fld w 0 2 = 3#2 then 3 else 1)
  h.poison.contains (0x4000 + pc / 4) || h.poison.contains (0x4000 + last / 4) || (handReads x).any (fun r => h.poison.contains (0x3000 + r.toNat))

/-- A stagehand's instruction: its word is fetched from the instruction store (R261), or the instruction that stalls it
is tried again. Poison in the fetch or in a register stops the point with KIND 3 (R361). -/
def State.issueHand (run : Run) (s : State) (t : Turn) (h : Hand) : Host.Outcome State Fault Refusal :=
  let w : Word := h.instrs.word (h.pc.toNat)
  let tag := if h.held.isSome then h.tag else s.stamp + 1
  let s1 := { s with stamp := s.stamp + 1, cur := { Cur.idle with turn := t, pos := h.pc.toNat, word := w, stamp := s.stamp + 1, tag := tag } }
  match h.held with
  | some i => run i (s1.onHand t.unit (fun x => { x with held := none }))
  | none =>
    if 0x8000 ≤ h.pc.toNat ∨ (fld w 0 2 = 3#2 ∧ 0x7FFE ≤ h.pc.toNat) then
      .next (s1.stopUnit t.unit 3 .scratchBounds (h.pc.setWidth 64) 0)
    else if h.consumes w (decodeHand w) then .next (s1.stopUnit t.unit 3 .poisoned (h.pc.setWidth 64) (w.setWidth 64))
    else run (decodeHand w) s1

end Sys2Proof.Machine
end

