-- ==== Sys2Proof/Machine/Translate.lean ====
section
/-! DEFINITION. Translation (R121 to R125, R143, R352, R353): the two five-level walks, the cached translations, the
checks of an access, and memory as the engines reach it. -/

namespace Sys2Proof.Machine

/-- A translation that failed: the cause, and for a stage-2 fault the guest physical address (R250). -/
structure Xerr where
  cause : Cause
  gpa : Nat
  /-- The poison lies in what was to be read, and in no table entry on the way (R361). -/
  data : Bool := false
  deriving DecidableEq, Repr

/-- Whether a physical address is memory that something backs (R121). -/
def State.backed (s : State) (pa : Nat) : Bool :=
  decide (pa < 0x10000000000) ||
    (decide (pa < 0x90000000000) && s.expanders.any (fun e => decide (e.1 ≤ pa) && decide (pa < e.1 + e.2)))

/-- Whether the line that holds a physical address is poisoned (R360). -/
def State.lineBad (s : State) (pa : Nat) : Bool := s.poison.contains (pa / 64)

/-- The address that an entry's FRAME field holds, bits 51:12 (R123). -/
def frameOf (e : Nat) : Nat := bits e 12 40 * 4096

/-- Whether a virtual address is canonical (R122). -/
def canonical (va : Nat) : Bool := decide (bits va 57 7 = if bits va 56 1 = 1 then 127 else 0)

/-- The span of one entry at a level (R123). -/
def spanOf (lvl : Nat) : Nat := 2 ^ (12 + 9 * lvl)

/-- The page size of a leaf's SIZE field (R123). -/
def pageOf (size : Nat) : Nat :=
  match size with
  | 0 => 0x1000
  | 1 => 0x10000
  | 2 => 0x200000
  | 3 => 0x2000000
  | _ => 0x40000000

/-- Whether SIZE matches the level of a leaf (R123). -/
def sizeFits (size lvl : Nat) : Bool :=
  decide ((lvl = 0 ∧ size ≤ 1) ∨ (lvl = 1 ∧ (size = 2 ∨ size = 3)) ∨ (lvl = 2 ∧ size = 4))

/-- Whether an entry points to the next table (R123). -/
def isPointer (e : Nat) : Bool := decide (bits e 0 4 = 1)

/-- Whether the form of an entry at a level is right for the address being translated (R123, check 6 of R352). A pointer at
level 0 has no next table: the spec names no cause, and it counts as an entry whose form does not match its level (log entry
62). -/
def wellFormed (e lvl addr : Nat) : Bool :=
  decide (bits e 63 1 = 0) && decide (bits e 52 8 = 0) && decide (bits e 8 4 = 0) &&
    (if isPointer e then decide (bits e 60 3 = 0) && decide (lvl ≠ 0)
     else
       let size := bits e 60 3
       let g := spanOf lvl
       let p := pageOf size
       sizeFits size lvl && decide (frameOf e % g = 0) && decide (frameOf e % p / g = addr % p / g))

/-- The leaf that an entry holds, for the address being translated. -/
def leafOf (e lvl addr entry : Nat) : Leaf :=
  let p := pageOf (bits e 60 3)
  let g := spanOf lvl
  { base := addr - addr % p, size := p, target := frameOf e + addr % g - addr % p, r := decide (bits e 1 1 = 1),
    w := decide (bits e 2 1 = 1), x := decide (bits e 3 1 = 1), u := decide (bits e 4 1 = 1), entry := entry,
    moving := decide (bits e 7 1 = 1), word := BitVec.ofNat 64 e }

/-- The stage-2 walk of a guest physical address, from a table at physical address `table` down through the levels
(R123, R352). -/
def State.walk2 (s : State) (gpa : Nat) : List Nat → Nat → Except Xerr Leaf
  | [], _ => .error { cause := .protFault, gpa := gpa }
  | lvl :: ls, table =>
    let at_ := table + 8 * bits gpa (12 + 9 * lvl) 9
    let e := (s.mem.dword at_).toNat
    if !s.backed at_ then .error { cause := .protFault, gpa := 0 }
    else if s.lineBad at_ then .error { cause := .poisoned, gpa := 0 }
    else if bits e 0 1 = 0 then .error { cause := .stage2Fault, gpa := gpa }
    else if !wellFormed e lvl gpa then .error { cause := .protFault, gpa := 0 }
    else if isPointer e then s.walk2 gpa ls (frameOf e)
    else .ok (leafOf e lvl gpa at_)

/-- The levels of a walk, from the root (R123). -/
def levels : List Nat := [4, 3, 2, 1, 0]

/-- Stage 2 alone (R292, R296). -/
def State.stage2 (s : State) (v : Vdi) (gpa : Nat) : Except Xerr Leaf := s.walk2 gpa levels (frameOf v.hptr.toNat)

/-- The stage-1 walk: each table address is translated through stage 2 before its entry is read (R123, R352). The
leaf's `entry` is a physical address. -/
def State.walk1 (s : State) (v : Vdi) (va : Nat) : List Nat → Nat → Except Xerr Leaf
  | [], _ => .error { cause := .protFault, gpa := 0 }
  | lvl :: ls, table =>
    let gpa := table + 8 * bits va (12 + 9 * lvl) 9
    match s.stage2 v gpa with
    | .error e => .error e
    | .ok l =>
      let at_ := l.target + (gpa - l.base)
      let e := (s.mem.dword at_).toNat
      if !s.backed at_ then .error { cause := .protFault, gpa := 0 }
      else if s.lineBad at_ then .error { cause := .poisoned, gpa := 0 }
      else if bits e 0 1 = 0 then .error { cause := .pageFault, gpa := 0 }
      else if !wellFormed e lvl va then .error { cause := .protFault, gpa := 0 }
      else if isPointer e then s.walk1 v va ls (frameOf e)
      else .ok (leafOf e lvl va at_)

/-- Stage 1 (R123): the address is that of a canonical virtual address, bits 56:0. -/
def State.stage1 (s : State) (v : Vdi) (va : Nat) : Except Xerr Leaf := s.walk1 v (va % 2 ^ 57) levels (frameOf v.sptr.toNat)

/-- The address that a leaf gives. -/
def Leaf.apply (l : Leaf) (a : Nat) : Nat := l.target + (a - l.base)

/-- Whether a leaf's page holds an address. -/
def Leaf.holds (l : Leaf) (a : Nat) : Bool := decide (l.base ≤ a) && decide (a < l.base + l.size)

/-- A table entry without A and D, the bits that the walker sets (R353). -/
def entryKey (e : Dword) : Dword := e &&& ~~~ 0x60#64

/-- Whether a leaf still awaits the D of its first write: it was read, and cached, with D clear (R353). -/
def wantsD (w : Dword) : Bool := !w.getLsbD 6

/-- Set bits of a table entry at its home (R353). -/
def State.setEntry (s : State) (at_ b : Nat) : State :=
  { s with mem := s.mem.putDword at_ (s.mem.dword at_ ||| BitVec.ofNat 64 b) }

/-- The stage-2 pages, base and size, in which a stage-1 walk reads its table entries (R123, R143). -/
def State.walkVia (s : State) (v : Vdi) (va : Nat) : List Nat → Nat → List (Nat × Nat)
  | [], _ => []
  | lvl :: ls, table =>
    let gpa := table + 8 * bits va (12 + 9 * lvl) 9
    match s.stage2 v gpa with
    | .error _ => []
    | .ok l =>
      let e := (s.mem.dword (l.apply gpa)).toNat
      (l.base, l.size) :: (if isPointer e then s.walkVia v va ls (frameOf e) else [])

/-- A walk that caches a leaf sets A in it (R353): in the stage-1 leaf when that was walked too. -/
def State.cache (s : State) (vdi : Nat) (one two : Leaf) (via : List (Nat × Nat)) (walked : Bool) : State :=
  let s1 := (if walked then s.setEntry one.entry 0x20 else s).setEntry two.entry 0x20
  { s1 with tlb := { vdi := vdi, one := one, two := some two, via := via } :: s1.tlb.filter (fun t => !(decide (t.vdi = vdi) && t.one.holds one.base && decide (t.one.base = one.base))) }

/-- Translate a virtual address: by a cached combined translation, by a cached stage-1 result and a walk of stage 2,
or by a walk of both stages (R143). Whether a cached translation is still there is open, so a free value decides. -/
def State.translate (s : State) (vdi va : Nat) : State × Except Xerr Xlat :=
  match s.vdis.find vdi with
  | none => (s, .error { cause := .pageFault, gpa := 0 })
  | some v =>
    let a := va % 2 ^ 57
    let s1 := { s with fresh := s.fresh + 2 }
    let hit := (s.tlb.find? (fun t => decide (t.vdi = vdi) && t.one.holds a))
    let full : State × Except Xerr Xlat :=
      match s1.stage1 v va with
      | .error e => (s1, .error e)
      | .ok one =>
        match s1.stage2 v (one.apply a) with
        | .error e => (s1, .error e)
        | .ok two => (s1.cache vdi one two (s1.walkVia v a levels (frameOf v.sptr.toNat)) true, .ok { one := one, two := two, pa := two.apply (one.apply a) })
    match hit with
    | none => full
    | some t =>
      match t.two with
      | some two =>
        if Config.tlbKept s.fresh && two.holds (t.one.apply a) && !two.moving then
          (s1, .ok { one := t.one, two := two, pa := two.apply (t.one.apply a) })
        else if Config.tlbKept (s.fresh + 1) then
          match s1.stage2 v (t.one.apply a) with
          | .error e => (s1, .error e)
          | .ok two' => (s1.cache vdi t.one two' t.via false, .ok { one := t.one, two := two', pa := two'.apply (t.one.apply a) })
        else full
      | none =>
        if Config.tlbKept (s.fresh + 1) then
          match s1.stage2 v (t.one.apply a) with
          | .error e => (s1, .error e)
          | .ok two' => (s1.cache vdi t.one two' t.via false, .ok { one := t.one, two := two', pa := two'.apply (t.one.apply a) })
        else full

/-! ### Accesses -/

/-- What an access needs (R123). -/
structure Need where
  r : Bool
  w : Bool
  user : Bool
  x : Bool := false
  deriving DecidableEq, Repr

/-- A read at a privilege level. -/
def needR (lvl : BitVec 2) : Need := { r := true, w := false, user := decide (lvl = 0#2) }
/-- A write. -/
def needW (lvl : BitVec 2) : Need := { r := false, w := true, user := decide (lvl = 0#2) }
/-- A read-modify-write. -/
def needRW (lvl : BitVec 2) : Need := { r := true, w := true, user := decide (lvl = 0#2) }

/-- An instruction fetch. -/
def needX (lvl : BitVec 2) : Need := { r := false, w := false, user := decide (lvl = 0#2), x := true }

/-- Whether a translation grants what an access needs, in both stages (R123). -/
def Xlat.grants (x : Xlat) (n : Need) : Bool :=
  (!n.r || (x.one.r && x.two.r)) && (!n.w || (x.one.w && x.two.w)) && (!n.x || (x.one.x && x.two.x)) && (!n.user || x.one.u)

/-- Checks 1 to 3 of R352 on an address as an exact integer: canonical first byte, last byte, alignment. An address past
2^64 − 1 would wrap (R122); for one below 0 the spec names no cause, and the model takes NonCanonical (log entry 63). -/
def addressCheck (a : Int) (size : Nat) : Option Cause :=
  if (2 ^ 64 : Int) ≤ a then some .topCross
  else if a < 0 ∨ !canonical a.toNat then some .nonCanonical
  else if (2 ^ 64 : Int) ≤ a + size - 1 ∨ !canonical (a.toNat + size - 1) then some .topCross
  else if a % (size : Int) ≠ 0 then some .misaligned
  else none

/-- Checks 4 to 8 of R352: translate, then permissions, then that the address lies in memory. -/
def State.access (s : State) (vdi : Nat) (n : Need) (va : Nat) : State × Except Xerr Xlat :=
  match s.translate vdi va with
  | (s1, .error e) => (s1, .error e)
  | (s1, .ok x) =>
    if !x.grants n then (s1, .error { cause := .protFault, gpa := 0 })
    else if !s1.backed x.pa then (s1, .error { cause := .protFault, gpa := 0 })
    else (s1, .ok x)

/-- The first write through a leaf that was read as `w` sets D in its entry, and in the cached copies of that leaf (R353). -/
def State.markDirty (s : State) (at_ : Nat) (w : Dword) : State :=
  if !wantsD w then s
  else
    let leaf (l : Leaf) : Leaf := if l.entry = at_ ∧ entryKey l.word = entryKey w then { l with word := l.word ||| 0x60 } else l
    let s1 := s.setEntry at_ 0x60
    { s1 with
      tlb := s1.tlb.map (fun (t : Tlb) => { t with one := leaf t.one, two := t.two.map leaf })
      fars := s1.fars.map (fun (f : FarOp) =>
        { f with pages := f.pages.map (fun (p : Nat × Xlat) => (p.1, { p.2 with one := leaf p.2.one, two := leaf p.2.two })),
                 hits := f.hits.map (fun (h : Option Hit) => h.map (fun (h : Hit) =>
                   { h with w1 := if h.one = at_ ∧ entryKey h.w1 = entryKey w then h.w1 ||| 0x60 else h.w1,
                            w2 := if h.two = at_ ∧ entryKey h.w2 = entryKey w then h.w2 ||| 0x60 else h.w2 })) }) }

/-- Whether the D update of a leaf read as `w` would find that its entry has changed since (R353). -/
def State.staleLeaf (s : State) (at_ : Nat) (w : Dword) : Bool := wantsD w && decide (entryKey (s.mem.dword at_) ≠ entryKey w)

/-- The first write through both leaves of a translation sets D (R353). -/
def State.dirty (s : State) (x : Xlat) : State := (s.markDirty x.one.entry x.one.word).markDirty x.two.entry x.two.word

/-- A translation for a write that performs at once: when the update of D finds a changed entry, the cached leaf goes and the
walk is made again (R353). -/
def State.accessToWrite (s : State) (vdi : Nat) (n : Need) (va : Nat) : State × Except Xerr Xlat :=
  match s.access vdi n va with
  | (s1, .error e) => (s1, .error e)
  | (s1, .ok x) =>
    if s1.staleLeaf x.one.entry x.one.word || s1.staleLeaf x.two.entry x.two.word then
      { s1 with tlb := s1.tlb.filter (fun (t : Tlb) => !(decide (t.vdi = vdi) && t.one.holds (va % 2 ^ 57))) }.access vdi n va
    else (s1, .ok x)

/-- Whether a physical address lies in a page that is moving (R125). -/
def State.movingAt (s : State) (pa : Nat) : Bool := s.moves.any (fun (m : Nat × Nat × Nat) => decide (m.2.1 ≤ pa) && decide (pa < m.2.1 + m.2.2))

/-- Read `n` bytes of a tenant's virtual space, one translation for each aligned 8-byte word that they touch (R122,
R123, R143), with fuel for the words. The first failure ends the read, with its address. -/
def State.readVirtual (s : State) (vdi : Nat) (lvl : BitVec 2) : Nat → Nat → Nat → State × Except (Xerr × Nat) (List Byte)
  | 0, _, _ => (s, .ok [])
  | fuel + 1, va, n =>
    if n = 0 then (s, .ok [])
    else
      let k := min n (8 - va % 8)
      match addressCheck (va : Int) 1 with
      | some c => (s, .error ({ cause := c, gpa := 0 }, va))
      | none =>
        match s.access vdi (needR lvl) va with
        | (s1, .error e) => (s1, .error (e, va))
        | (s1, .ok x) =>
          if s1.lineBad x.pa then (s1, .error ({ cause := .poisoned, gpa := 0, data := true }, va))
          else
            match s1.readVirtual vdi lvl fuel (va + k) (n - k) with
            | (s2, .ok bs) => (s2, .ok (s1.mem.bytes x.pa k ++ bs))
            | (s2, .error e) => (s2, .error e)

/-- A physical write of bytes: a line that is wholly written loses its poison, and a partial write keeps it (R360). -/
def State.writePhys (s : State) (pa : Nat) (bs : List Byte) : State :=
  let whole (l : Nat) : Bool := decide (pa ≤ 64 * l) && decide (64 * l + 64 ≤ pa + bs.length)
  { s with mem := s.mem.putBytes pa bs, poison := s.poison.filter (fun l => !whole l) }

/-- Write bytes to a tenant's virtual space, one translation for each aligned 8-byte word (R123, R128), with fuel for the
words; `dry` goes through the translations alone. The first failure ends the write, with its address. -/
def State.writeVirtual (s : State) (vdi : Nat) (lvl : BitVec 2) (dry : Bool) : Nat → Nat → List Byte → State × Except (Xerr × Nat) Unit
  | 0, _, _ => (s, .ok ())
  | fuel + 1, va, bs =>
    if bs = [] then (s, .ok ())
    else
      let k := 8 - va % 8
      match addressCheck (va : Int) 1 with
      | some c => (s, .error ({ cause := c, gpa := 0 }, va))
      | none =>
        match s.accessToWrite vdi (needW lvl) va with
        | (s1, .error e) => (s1, .error (e, va))
        | (s1, .ok x) =>
          -- a line that is about to be written whole loses its poison (R360)
          let clear (y : State) : State := if va % 64 = 0 ∧ 64 ≤ bs.length then { y with poison := y.poison.filter (fun l => l ≠ x.pa / 64) } else y
          (if dry then s1 else clear ((s1.dirty x).writePhys x.pa (bs.take k))).writeVirtual vdi lvl dry fuel (va + k) (bs.drop k)

/-- A read of an engine of the base die, with its traffic (R19, R299). -/
def State.readBase (s : State) (vdi : Nat) (lvl : BitVec 2) (fuel va n : Nat) : State × Except (Xerr × Nat) (List Byte) :=
  let r := s.readVirtual vdi lvl fuel va n
  (r.1.countBase vdi n, r.2)

/-- A write of an engine of the base die, with its traffic (R19, R299). -/
def State.writeBase (s : State) (vdi : Nat) (lvl : BitVec 2) (fuel va : Nat) (bs : List Byte) : State × Except (Xerr × Nat) Unit :=
  let r := s.writeVirtual vdi lvl false fuel va bs
  (r.1.countBase vdi bs.length, r.2)

/-- A guest physical write through stage 2 alone, when it translates (R292). -/
def State.writeGuest (s : State) (v : Vdi) (gpa : Nat) (bs : List Byte) : Except Xerr State :=
  match s.stage2 v gpa with
  | .error e => .error e
  | .ok l =>
    if !l.w then .error { cause := .protFault, gpa := gpa }
    else if !s.backed (l.apply gpa) then .error { cause := .protFault, gpa := gpa }
    else .ok ((s.setEntry l.entry 0x60).writePhys (l.apply gpa) bs)

/-- A guest physical read through stage 2 alone: R of the leaf, and an address that something backs (R121, R123). -/
def State.readGuest (s : State) (v : Vdi) (gpa n : Nat) : Except Xerr (List Byte) :=
  match s.stage2 v gpa with
  | .error e => .error e
  | .ok l =>
    if !l.r || !s.backed (l.apply gpa) then .error { cause := .protFault, gpa := gpa }
    else .ok (s.mem.bytes (l.apply gpa) n)

end Sys2Proof.Machine
end

