-- ==== Sys2Proof/Machine/Paths.lean ====
section
/-! DEFINITION. Paths of a cast: the reconvergence stack (R78), spilling and resuming (R76), splitting (R74), joining
(R75), ending (R77) and demotion (R79); words that hold their path; the draining of the coalescing buffers (R118). -/

namespace Sys2Proof.Machine

/-! ### The entries of the stack (R78) -/

/-- Free entries of the stack, the lowest first. -/
def Ctx.freeEntries (c : Ctx) : List Nat := (List.range 64).filter (fun k => !c.dsmap.getLsbD k)
/-- Occupied entries of the stack. -/
def Ctx.usedEntries (c : Ctx) : List Nat := (List.range 64).filter (fun k => c.dsmap.getLsbD k)
/-- Mark an entry occupied. -/
def Ctx.useEntry (c : Ctx) (k : Nat) : Ctx := { c with dsmap := c.dsmap ||| (1#64 <<< k) }
/-- Mark an entry free; what the model keeps beside it goes. -/
def Ctx.dropEntry (c : Ctx) (k : Nat) : Ctx :=
  { c with dsmap := c.dsmap &&& ~~~ (1#64 <<< k), spilled := c.spilled.filter (fun e => e.1 ≠ k) }

/-- Live, waiting and spilled paths of a cast (R77, R86, R181, R218). -/
def State.castPaths (s : State) (u : UnitId) : Nat :=
  match s.ctxs.find u with
  | none => 0
  | some c =>
    c.pathCount + (c.usedEntries.filter (fun k =>
      let e := s.stack u k
      decide (e.kind = 1) && e.arrived && decide (e.pc ≠ exitedPc))).length

/-- The occupied entry of the oldest spilled path: order numbers are compared modulo 256 (R76, R78). -/
def State.oldestSpilled (s : State) (u : UnitId) (c : Ctx) : Option Nat :=
  let age (k : Nat) : Nat := (c.next - BitVec.ofNat 8 (s.stack u k).seq).toNat
  (c.usedEntries.filter (fun k => decide ((s.stack u k).kind = 2))).foldl
    (fun b k => match b with | none => some k | some j => if age j < age k then some k else some j) none

/-- Spill a path into an entry, with the next order number (R74, R78, R79). -/
def State.spillInto (s : State) (u : UnitId) (k : Nat) (p : Path) : State :=
  match s.ctxs.find u with
  | none => s
  | some c =>
    let e : Stk := { em := p.em, pc := p.pc, fm := p.fm, seq := c.next.toNat, parent := p.parent, cf := p.cf,
                     arrived := false, plvl := p.plvl, kind := 2 }
    let c1 := { (c.dropEntry k).useEntry k with next := c.next + 1, nspill := c.nspill + 1 }
    (s.setStack u k e).setCtx u { c1 with spilled := (k, { p with win := [] }) :: c1.spilled }

/-- The spilled path of an entry takes a slot, eligible 8 cycles later, with its window zeroed (R76). -/
def State.unspill (s : State) (u : UnitId) (k : Nat) (slotB : Bool) : State :=
  match s.ctxs.find u with
  | none => s
  | some c =>
    let e := s.stack u k
    let p0 := ((c.spilled.find? (fun x => decide (x.1 = k))).map (fun (x : Nat × Path) => x.2)).getD Path.none
    let p : Path := { p0 with live := true, pc := e.pc, em := e.em, fm := e.fm, cf := e.cf, plvl := e.plvl,
                              parent := e.parent, win := [], readyAt := s.cycle + 8, delayed := false, demoted := false }
    (s.setStack u k { e with kind := 0 }).setCtx u
      { (c.dropEntry k).setPath slotB p with nspill := c.nspill - 1 }

/-- A slot without a path takes the oldest spilled path (R75, R76). -/
def State.fillSlot (s : State) (u : UnitId) (slotB : Bool) : State :=
  match s.ctxs.find u with
  | none => s
  | some c =>
    if (c.path slotB).live then s
    else match s.oldestSpilled u c with
      | none => s
      | some k => s.unspill u k slotB

/-- Each free slot of the cast takes the oldest spilled path, slot A first. -/
def State.fillSlots (s : State) (u : UnitId) : State := (s.fillSlot u false).fillSlot u true

/-- Empty a slot. -/
def State.emptySlot (s : State) (u : UnitId) (slotB : Bool) : State := s.onCtx u (fun c => c.setPath slotB Path.none)

/-- Demote a path (R79, R177): behind the spilled paths when there are any, behind its sibling otherwise. -/
def State.demote (s : State) (u : UnitId) (slotB : Bool) : State :=
  match s.ctxs.find u with
  | none => s
  | some c =>
    if !(c.path slotB).live then s
    else match s.oldestSpilled u c with
      | none => s.setCtx u (c.onPath slotB (fun p => { p with demoted := true }))
      | some k => (s.unspill u k slotB).spillInto u k (c.path slotB)

/-- Demote the path with an identity, wherever it stands (R79): one that is spilled already takes the next order number in its
own entry, behind every other spilled path. -/
def State.demotePid (s : State) (u : UnitId) (pid : Nat) : State :=
  match s.ctxs.find u with
  | none => s
  | some c =>
    if c.a.live ∧ c.a.pid = pid then s.demote u false
    else if c.b.live ∧ c.b.pid = pid then s.demote u true
    else
      match c.spilled.find? (fun x => decide (x.2.pid = pid) && decide ((s.stack u x.1).kind = 2)) with
      | none => s
      | some (k, _) => (s.setStack u k { s.stack u k with seq := c.next.toNat }).setCtx u { c with next := c.next + 1 }

/-! ### Splitting, joining, ending (R74 to R77) -/

/-- The split of a path (R74): the join record, the continuing path with em AND s, and the new path at `target`. The
caller has checked that the entries are free. -/
def State.split (s : State) (u : UnitId) (slotB : Bool) (i : Issue) (m : Word) (target : Nat) : State :=
  match s.ctxs.find u with
  | none => s
  | some c =>
    let p := c.path slotB
    match c.freeEntries with
    | [] => s
    | r :: more =>
      let rec1 : Stk := { em := 0, pc := 0, fm := p.fm, seq := 0, parent := p.parent, cf := p.cf, arrived := false,
                          plvl := 0, kind := 1 }
      let stay : Path := { p with em := p.em &&& m, parent := some r }
      let new : Path := { p with pid := c.nextPid, pc := target, mstep := none, em := p.em &&& ~~~ m, parent := some r,
                                 held := none, also := [], demoted := false, acq := none, entry := none }
      let c1 := (c.log i (.em p.em)).useEntry r
      let c2 := { c1.setPath slotB stay with nextPid := c.nextPid + 1, spilled := (r, p) :: c1.spilled }
      let s1 := (s.setStack u r rec1).setCtx u c2
      if (c.path (!slotB)).live then
        match more with
        | [] => s1
        | k :: _ => s1.spillInto u k new
      else s1.setCtx u (c2.setPath (!slotB) { new with demoted := true })

/-- The two children of a join record merge (R75, R77): the path that executed the word goes on with `em` at `pc`, with
fm, cf and parent from the record and its window zeroed, in slot A when that is free. -/
def State.mergeAt (s : State) (u : UnitId) (slotB : Bool) (r : Nat) (em : Word) (pc : Nat) : State :=
  match s.ctxs.find u with
  | none => s
  | some c =>
    let p := c.path slotB
    let e := s.stack u r
    let old := ((c.spilled.find? (fun x => decide (x.1 = r))).map (fun (x : Nat × Path) => x.2)).getD p
    let m : Path := { p with pid := old.pid, pc := pc, mstep := none, em := em, fm := e.fm, cf := e.cf, parent := e.parent,
                             win := [], runs := old.runs, held := none, also := [], demoted := false }
    -- the writes of em, fm and cf (R80)
    let c0 := ((c.logAs s.issue old.pid (.em p.em)).logAs s.issue old.pid (.fm p.fm)).logAs s.issue old.pid (.cf p.cf)
    let c1 := (c0.setPath slotB Path.none).dropEntry r
    let toB := if c1.a.live then slotB else false
    ((s.setStack u r { e with kind := 0 }).setCtx u (c1.setPath toB m)).fillSlots u

/-- JOIN of a path (R75). -/
def State.joinPath (s : State) (u : UnitId) (slotB : Bool) : State :=
  match s.ctxs.find u with
  | none => s
  | some c =>
    let p := c.path slotB
    match p.parent with
    | none => s
    | some r =>
      let e := s.stack u r
      if e.arrived then s.mergeAt u slotB r (e.em ||| p.em) p.pc
      else ((s.setStack u r { e with em := p.em, arrived := true, pc := p.pc }).emptySlot u slotB).fillSlots u

/-- The end of a path (R77), with fuel for the records that it may resolve. What a handler and its parked lanes held
of the path goes with it. -/
def State.exitPath (u : UnitId) : Nat → Bool → State → State
  | 0, _, s => s
  | n + 1, slotB, s =>
    match s.ctxs.find u with
    | none => s
    | some c =>
      let p := c.path slotB
      let c1 := { c with parked := c.parked.filter (fun k => k.pid ≠ p.pid),
                         sup := if c.sup.busy = some p.pid then { c.sup with busy := none } else c.sup,
                         hyp := if c.hyp.busy = some p.pid then { c.hyp with busy := none } else c.hyp }
      let s1 := s.setCtx u c1
      match p.parent with
      | none => (s1.emptySlot u slotB).fillSlots u
      | some r =>
        let e := s.stack u r
        if !e.arrived then ((s1.setStack u r { e with arrived := true, pc := exitedPc }).emptySlot u slotB).fillSlots u
        else if e.pc = exitedPc then
          -- both children have exited: the merged path executes EXIT in its place
          let old := ((c.spilled.find? (fun x => decide (x.1 = r))).map (fun (x : Nat × Path) => x.2)).getD p
          let m : Path := { p with pid := old.pid, em := 0, fm := e.fm, cf := e.cf, parent := e.parent, win := [], runs := old.runs }
          State.exitPath u n slotB ((s1.setStack u r { e with kind := 0 }).setCtx u ((c1.dropEntry r).setPath slotB m))
        else s1.mergeAt u slotB r e.em e.pc

/-! ### Words that hold their path -/

/-- The word of a unit's path that sleeps under a tag. -/
def Ctx.sleeper (c : Ctx) (tag : Nat) : Option Held :=
  (c.a :: c.b :: c.spilled.map (fun (e : Nat × Path) => e.2)).findSome? (fun (p : Path) =>
    p.holders.find? (fun (h : Held) => h.asleep && decide (h.tag = tag)))

/-- Change the word that sleeps under a tag, on a path in a slot or spilled. -/
def Ctx.onSleeper (c : Ctx) (tag cycle : Nat) (f : Held → Option Held) : Ctx :=
  let g (p : Path) : Path := p.onHolders (fun (h : Held) => h.asleep && decide (h.tag = tag)) f cycle
  { c with a := g c.a, b := g c.b, spilled := c.spilled.map (fun (e : Nat × Path) => (e.1, g e.2)) }

/-- A sleeping path is awake again: its word is done, and its next group issues no earlier than the next cycle. -/
def State.wake (s : State) (u : UnitId) (tag : Nat) : State :=
  s.onCtx u (fun c => c.onSleeper tag s.cycle (fun _ => none))

/-- The engine that a sleeping word waits for has answered: the word is executed again, and finds a one after its
sources. -/
def State.rouse (s : State) (u : UnitId) (tag : Nat) : State :=
  s.onCtx u (fun c => c.onSleeper tag s.cycle (fun h => some { h with asleep := false, vals := h.vals ++ [1] }))

/-! ### Store coalescing buffers (R118) -/

/-- Count lines that the L2 slices serve to a core, 64 bytes each, and the bytes that so cross die-to-die links (R19, R299; log entry
21). -/
def State.countLines (s : State) (vdi core : Nat) (lines : List Nat) : State :=
  if lines = [] then s
  else
    ((s.count vdi 33 (64 * lines.length)).count vdi 36
      (lines.map (fun l => 64 * (routeOf (dieOf core) (homeSlice (64 * l) / 4)).links)).sum).countMoved vdi

/-- Drain one entry of a buffer of a core: its bytes are written at the home. One line request (R256). -/
def State.drainEntry (s : State) (vdi core : Nat) (e : Entry) : State :=
  let bad := e.bad || (s.poison.contains e.line && decide (e.bytes.length < 64))
  let rest := s.poison.filter (fun l => l ≠ e.line)
  let s1 := { s with mem := e.bytes.foldl (fun (m : Memory) (b : Nat × Byte) => m.write (64 * e.line + b.1) b.2) s.mem,
                     poison := if bad then e.line :: rest else rest }
  (s1.countLines vdi core [e.line]).count vdi 4 1

/-- Drain the entries of a troupe's buffers that satisfy `f`. -/
def State.drainWhere (s : State) (t : Troupe) (f : Entry → Bool) : State :=
  t.quads.foldl (fun (s1 : State) q =>
    let k := quadKey t.core q
    let es := (s1.quad k).entries
    let s2 := (es.filter f).foldl (fun (x : State) e => x.drainEntry t.vdi t.core e) s1
    if (es.filter f).isEmpty then s2 else s2.setQuad k { s2.quad k with entries := es.filter (fun e => !f e) }) s

/-- A release or FENCE at .device or .system scope by any unit of a troupe drains every entry of the troupe's buffers (R118,
R207, R213): a sibling's store that happens before the release is then performed at the home (R130). -/
def State.drainUnit (s : State) (u : UnitId) : State :=
  match s.troupeOf u with
  | none => s
  | some (_, t) => s.drainWhere t (fun _ => true)

end Sys2Proof.Machine
end

