-- ==== Sys2Proof/Machine/Scalar.lean ====
section
/-! DEFINITION. The scalar words, majors 0x00 to 0x09 (R161 to R170). -/

namespace Sys2Proof.Machine

/-- What a meaning answers. -/
abbrev Result := Host.Outcome State Fault Refusal

/-! ### Shared forms -/

/-- A word that writes a scalar result of latency 1 computed from two register sources (R161). -/
def scalar2 (f : Dword → Dword → Dword) (d a b : Reg) (s : State) : Result :=
  s.onCur (fun i c => c.wrS i 1 d (f (c.rdS i a) (c.rdS i b)))

/-- A word that writes a scalar result of latency 1 computed from one register source (R161). -/
def scalar1 (f : Dword → Dword) (d a : Reg) (s : State) : Result :=
  s.onCur (fun i c => c.wrS i 1 d (f (c.rdS i a)))

/-- A word that also reads and writes cf (R166). -/
def scalarCf (f : Dword → Dword → Bool → Dword) (g : Dword → Dword → Bool → Bool) (d a b : Reg) (s : State) : Result :=
  s.onCur (fun i c =>
    let x := c.rdS i a
    let y := c.rdS i b
    let k := (c.path i.slotB).cf
    (c.wrS i 1 d (f x y k)).putCf i (g x y k))

/-- The same with an immediate second operand (R166). -/
def scalarCfImm (f : Dword → Dword → Bool → Dword) (g : Dword → Dword → Bool → Bool) (d a : Reg) (y : Dword)
    (s : State) : Result :=
  s.onCur (fun i c =>
    let x := c.rdS i a
    let k := (c.path i.slotB).cf
    (c.wrS i 1 d (f x y k)).putCf i (g x y k))

/-! ### The functions of R166 to R170 -/

/-- Signed lesser (R166). -/
def minS (a b : Dword) : Dword := if a.slt b then a else b
/-- Signed greater (R166). -/
def maxS (a b : Dword) : Dword := if a.slt b then b else a
/-- Unsigned lesser (R166). -/
def minU (a b : Dword) : Dword := if a.ult b then a else b
/-- Unsigned greater (R166). -/
def maxU (a b : Dword) : Dword := if a.ult b then b else a
/-- The shift amount b[5:0] (R166). -/
def shiftOf (b : Dword) : Nat := b.toNat % 64
/-- Rotation to the left (R166). -/
def rotl64 (a b : Dword) : Dword := (a <<< shiftOf b) ||| (a >>> (64 - shiftOf b))

/-- Signed quotient, truncated toward zero; all ones for a divisor of 0 (R100, R167). -/
def divS (a b : Dword) : Dword := if b = 0#64 then BitVec.allOnes 64 else BitVec.ofInt 64 (a.toInt.tdiv b.toInt)
/-- Unsigned quotient (R100, R167). -/
def divU (a b : Dword) : Dword := if b = 0#64 then BitVec.allOnes 64 else BitVec.ofNat 64 (a.toNat / b.toNat)
/-- Signed remainder, with the dividend's sign; the dividend for a divisor of 0 (R100, R167). -/
def remS (a b : Dword) : Dword := if b = 0#64 then a else BitVec.ofInt 64 (a.toInt.tmod b.toInt)
/-- Unsigned remainder (R100, R167). -/
def remU (a b : Dword) : Dword := if b = 0#64 then a else BitVec.ofNat 64 (a.toNat % b.toNat)

/-- Number of zero bits above the highest set bit (R168). -/
def clz64 (a : Dword) : Dword := if a = 0#64 then 64 else BitVec.ofNat 64 (63 - Nat.log2 a.toNat)
/-- Number of set bits (R168). -/
def popc64 (a : Dword) : Dword := BitVec.ofNat 64 ((List.range 64).filter (fun k => a.getLsbD k)).length
/-- Bits in reverse order (R168). -/
def brev64 (a : Dword) : Dword := a.reverse
/-- Sign extension from n bits, where the field holds n − 1 (R168). -/
def sextFrom (a : Dword) (f : BitVec 6) : Dword := (a.setWidth (f.toNat + 1)).signExtend 64
/-- Zero extension from n bits (R168). -/
def zextFrom (a : Dword) (f : BitVec 6) : Dword := (a.setWidth (f.toNat + 1)).setWidth 64

/-- The integer condition of a code, on values of one width (R169, R190). -/
def condition {w : Nat} (f : BitVec 4) (a b : BitVec w) : Bool :=
  match f.toNat with
  | 0 => a == b
  | 1 => a != b
  | 2 => a.slt b
  | 3 => !a.slt b
  | 4 => !b.slt a
  | 5 => b.slt a
  | 6 => a.ult b
  | 7 => !a.ult b
  | 8 => !b.ult a
  | _ => b.ult a

/-! ### Waiting and constants -/

/-- NOP has no effect (R163). -/
def execNop (s : State) : Result := s.onCur (fun _ c => c)

/-- STALL n holds the path for n further cycles (R163). -/
def execStall (n : BitVec 12) (s : State) : Result :=
  s.onCur (fun i c => c.onPath i.slotB (fun p => { p with readyAt := p.readyAt + n.toNat }))

/-- MOVI writes sext(i16, 16) (R164). -/
def execMovi (d : Reg) (i : BitVec 16) (s : State) : Result := s.onCur (fun k c => c.wrS k 1 d (i.signExtend 64))

/-- MOVHI keeps d[15:0] and sign-extends from bit 31 (R164). -/
def execMovhi (d : Reg) (i : BitVec 16) (s : State) : Result :=
  s.onCur (fun k c => c.wrS k 1 d ((i ++ (c.rdS k d).setWidth 16 : BitVec 32).signExtend 64))

/-- LIMM.i32 writes sext(imm, 32) (R165). -/
def execLimmI32 (d : Reg) (imm : Word) (s : State) : Result := s.onCur (fun k c => c.wrS k 1 d (imm.signExtend 64))

/-- LIMM.n32 writes zext(imm, 32) (R165). -/
def execLimmN32 (d : Reg) (imm : Word) (s : State) : Result := s.onCur (fun k c => c.wrS k 1 d (imm.setWidth 64))

/-! ### Major 0x04 and 0x05 (R166) -/

/-- ADD: sum, and the carry to cf (R166). -/
def execAdd (d a b : Reg) (s : State) : Result :=
  scalarCf (fun a b _ => a + b) (fun a b _ => carryOut a b false) d a b s

/-- SUB: difference, and the borrow to cf (R166). -/
def execSub (d a b : Reg) (s : State) : Result :=
  scalarCf (fun a b _ => a - b) (fun a b _ => borrowOut a b false) d a b s

/-- ADDC: sum with carry in and out (R166). -/
def execAddc (d a b : Reg) (s : State) : Result :=
  scalarCf (fun a b k => a + b + (if k then 1 else 0)) (fun a b k => carryOut a b k) d a b s

/-- SUBC: difference with borrow in and out (R166). -/
def execSubc (d a b : Reg) (s : State) : Result :=
  scalarCf (fun a b k => a - b - (if k then 1 else 0)) (fun a b k => borrowOut a b k) d a b s

/-- AND: bitwise and (R166). -/
def execAnd (d a b : Reg) (s : State) : Result := scalar2 (fun a b => a &&& b) d a b s

/-- OR: bitwise or (R166). -/
def execOr (d a b : Reg) (s : State) : Result := scalar2 (fun a b => a ||| b) d a b s

/-- XOR: bitwise exclusive or (R166). -/
def execXor (d a b : Reg) (s : State) : Result := scalar2 (fun a b => a ^^^ b) d a b s

/-- ANDN: a and not b (R166). -/
def execAndn (d a b : Reg) (s : State) : Result := scalar2 (fun a b => a &&& ~~~ b) d a b s

/-- SHL: shift left by b[5:0] (R166). -/
def execShl (d a b : Reg) (s : State) : Result := scalar2 (fun a b => a <<< shiftOf b) d a b s

/-- SHR: logical shift right by b[5:0] (R166). -/
def execShr (d a b : Reg) (s : State) : Result := scalar2 (fun a b => a >>> shiftOf b) d a b s

/-- SRA: arithmetic shift right by b[5:0] (R166). -/
def execSra (d a b : Reg) (s : State) : Result := scalar2 (fun a b => a.sshiftRight (shiftOf b)) d a b s

/-- ROTL: rotate left by b[5:0] (R166). -/
def execRotl (d a b : Reg) (s : State) : Result := scalar2 (fun a b => rotl64 a b) d a b s

/-- MIN: signed lesser (R166). -/
def execMin (d a b : Reg) (s : State) : Result := scalar2 (fun a b => minS a b) d a b s

/-- MAX: signed greater (R166). -/
def execMax (d a b : Reg) (s : State) : Result := scalar2 (fun a b => maxS a b) d a b s

/-- MINU: unsigned lesser (R166). -/
def execMinu (d a b : Reg) (s : State) : Result := scalar2 (fun a b => minU a b) d a b s

/-- MAXU: unsigned greater (R166). -/
def execMaxu (d a b : Reg) (s : State) : Result := scalar2 (fun a b => maxU a b) d a b s

/-- ADD with a sign-extended immediate: sum, and the carry to cf (R166). -/
def execAddImm (d a : Reg) (i : BitVec 6) (s : State) : Result :=
  scalarCfImm (fun a b _ => a + b) (fun a b _ => carryOut a b false) d a (immS i) s

/-- SUB with a sign-extended immediate: difference, and the borrow to cf (R166). -/
def execSubImm (d a : Reg) (i : BitVec 6) (s : State) : Result :=
  scalarCfImm (fun a b _ => a - b) (fun a b _ => borrowOut a b false) d a (immS i) s

/-- AND with a sign-extended immediate: bitwise and (R166). -/
def execAndImm (d a : Reg) (i : BitVec 6) (s : State) : Result := scalar1 (fun a => a &&& (immS i)) d a s

/-- OR with a sign-extended immediate: bitwise or (R166). -/
def execOrImm (d a : Reg) (i : BitVec 6) (s : State) : Result := scalar1 (fun a => a ||| (immS i)) d a s

/-- XOR with a sign-extended immediate: bitwise exclusive or (R166). -/
def execXorImm (d a : Reg) (i : BitVec 6) (s : State) : Result := scalar1 (fun a => a ^^^ (immS i)) d a s

/-- ANDN with a sign-extended immediate: a and not b (R166). -/
def execAndnImm (d a : Reg) (i : BitVec 6) (s : State) : Result := scalar1 (fun a => a &&& ~~~ (immS i)) d a s

/-- SHL with a zero-extended immediate: shift left by b[5:0] (R166). -/
def execShlImm (d a : Reg) (i : BitVec 6) (s : State) : Result := scalar1 (fun a => a <<< shiftOf (immU i)) d a s

/-- SHR with a zero-extended immediate: logical shift right by b[5:0] (R166). -/
def execShrImm (d a : Reg) (i : BitVec 6) (s : State) : Result := scalar1 (fun a => a >>> shiftOf (immU i)) d a s

/-- SRA with a zero-extended immediate: arithmetic shift right by b[5:0] (R166). -/
def execSraImm (d a : Reg) (i : BitVec 6) (s : State) : Result := scalar1 (fun a => a.sshiftRight (shiftOf (immU i))) d a s

/-- ROTL with a zero-extended immediate: rotate left by b[5:0] (R166). -/
def execRotlImm (d a : Reg) (i : BitVec 6) (s : State) : Result := scalar1 (fun a => rotl64 a (immU i)) d a s

/-- MIN with a sign-extended immediate: signed lesser (R166). -/
def execMinImm (d a : Reg) (i : BitVec 6) (s : State) : Result := scalar1 (fun a => minS a (immS i)) d a s

/-- MAX with a sign-extended immediate: signed greater (R166). -/
def execMaxImm (d a : Reg) (i : BitVec 6) (s : State) : Result := scalar1 (fun a => maxS a (immS i)) d a s

/-- MINU with a zero-extended immediate: unsigned lesser (R166). -/
def execMinuImm (d a : Reg) (i : BitVec 6) (s : State) : Result := scalar1 (fun a => minU a (immU i)) d a s

/-- MAXU with a zero-extended immediate: unsigned greater (R166). -/
def execMaxuImm (d a : Reg) (i : BitVec 6) (s : State) : Result := scalar1 (fun a => maxU a (immU i)) d a s

/-! ### Major 0x06 (R167) -/

/-- MUL: low 64 bits of the product (R167). -/
def execMul (d a b : Reg) (s : State) : Result := scalar2 (fun a b => a * b) d a b s

/-- MULH: high 64 bits of the signed product (R167). -/
def execMulh (d a b : Reg) (s : State) : Result := scalar2 (fun a b => ((a.signExtend 128 * b.signExtend 128) >>> 64).setWidth 64) d a b s

/-- MULHU: high 64 bits of the unsigned product (R167). -/
def execMulhu (d a b : Reg) (s : State) : Result := scalar2 (fun a b => ((a.setWidth 128 * b.setWidth 128) >>> 64).setWidth 64) d a b s

/-- DIV: signed quotient (R167). -/
def execDiv (d a b : Reg) (s : State) : Result := scalar2 (fun a b => divS a b) d a b s

/-- DIVU: unsigned quotient (R167). -/
def execDivu (d a b : Reg) (s : State) : Result := scalar2 (fun a b => divU a b) d a b s

/-- REM: signed remainder (R167). -/
def execRem (d a b : Reg) (s : State) : Result := scalar2 (fun a b => remS a b) d a b s

/-- REMU: unsigned remainder (R167). -/
def execRemu (d a b : Reg) (s : State) : Result := scalar2 (fun a b => remU a b) d a b s

/-! ### Major 0x07 (R168) -/

/-- CLZ: leading zero bits (R168). -/
def execClz (d a : Reg) (s : State) : Result := scalar1 (fun a => clz64 a) d a s

/-- POPC: set bits (R168). -/
def execPopc (d a : Reg) (s : State) : Result := scalar1 (fun a => popc64 a) d a s

/-- BREV: reversed bits (R168). -/
def execBrev (d a : Reg) (s : State) : Result := scalar1 (fun a => brev64 a) d a s

/-- SEXT: sign extension from n bits (R168). -/
def execSext (d a : Reg) (n : BitVec 6) (s : State) : Result := scalar1 (fun a => sextFrom a n) d a s

/-- ZEXT: zero extension from n bits (R168). -/
def execZext (d a : Reg) (n : BitVec 6) (s : State) : Result := scalar1 (fun a => zextFrom a n) d a s

/-! ### Majors 0x08 and 0x09 (R169, R170) -/

/-- CMP.cc: 1 when the condition holds, and 0 otherwise (R169). -/
def execCmp (d a b : Reg) (f : BitVec 4) (s : State) : Result :=
  scalar2 (fun a b => if condition f a b then 1 else 0) d a b s

/-- SEL: a when c is not 0, and b otherwise; c names s0 to s15 (R170). -/
def execSel (d a b : Reg) (x : BitVec 4) (s : State) : Result :=
  s.onCur (fun i c => c.wrS i 1 d (if c.rdS i (x.setWidth 6) ≠ 0#64 then c.rdS i a else c.rdS i b))

end Sys2Proof.Machine
end

