-- ==== Sys2Proof/Machine/Sync.lean ====
section
/-! DEFINITION. Reorder rings (R119, R120, R214), troupe and cue barriers (R16, R86, R218), handle fields (R216). -/

namespace Sys2Proof.Machine

/-! ### Rings (R119, R120) -/

/-- Number of slots (R119). -/
def Ring.slots (r : Ring) : Nat := 2 ^ bits r.desc.toNat 24 4

/-- Whether the ring is present (R119). -/
def Ring.present (r : Ring) : Bool := r.desc.getLsbD 0

/-- The RSTAT register (R119). -/
def Ring.stat (r : Ring) : Dword := BitVec.ofNat 64 (r.tail.toNat * 2 ^ 32 + r.head.toNat * 2 ^ 16 + r.freed.toNat)

/-- The kind of unit, as PROD and CONS code it (R119). -/
def ringKind : UnitId → Nat
  | .rigger _ _ => 1
  | .striker _ _ => 2
  | .cue _ _ => 3
  | _ => 0

/-- The ring operations (R120). -/
inductive RingOp where
  | ticket | fill (t : BitVec 16) | take | free
  deriving DecidableEq, Repr

/-- What an operation does at the ring. -/
inductive RingAnswer where
  | misuse
  | wait
  | done (r : Ring) (t : BitVec 16)
  deriving DecidableEq, Repr

/-- An operation of a unit of kind `k`, applied at the ring (R120). -/
def Ring.apply (r : Ring) (k : Nat) (o : RingOp) : RingAnswer :=
  let n := r.slots
  let at_ (t : BitVec 16) : Nat := t.toNat % n
  let rel (t : BitVec 16) : Nat := (t - r.freed).toNat
  let owner := match o with
    | .ticket => bits r.desc.toNat 22 2
    | .fill _ => bits r.desc.toNat 22 2
    | .take => bits r.desc.toNat 20 2
    | .free => bits r.desc.toNat 20 2
  if !r.present ∨ owner ≠ k then .misuse
  else
    match o with
    | .ticket => if rel r.tail < n then .done { r with tail := r.tail + 1 } r.tail else .wait
    | .fill t =>
      if rel r.head ≤ rel t ∧ rel t < rel r.tail ∧ !r.full.contains (at_ t) then .done { r with full := at_ t :: r.full } t
      else .misuse
    | .take => if r.full.contains (at_ r.head) then .done { r with head := r.head + 1 } r.head else .wait
    | .free =>
      if r.freed = r.head then .misuse
      else .done { r with full := r.full.filter (fun x => x ≠ at_ r.freed), freed := r.freed + 1 } r.freed

/-- Apply an operation at ring `n` of a unit's troupe. -/
def State.ringOp (s : State) (u : UnitId) (n : Nat) (o : RingOp) : State × RingAnswer :=
  match s.troupeOf u with
  | none => (s, .misuse)
  | some (k, t) =>
    match (t.rings[n]?.getD Ring.zero).apply (ringKind u) o with
    | .done r x => (s.onTroupe k (fun t1 => { t1 with rings := t1.rings.setIfInBounds n r }), .done r x)
    | a => (s, a)

/-- The ring that a word waits at, with its side: true for a producer. -/
def ringWaits : Instr → Option (Nat × Bool)
  | .ringTicket _ n => some (n.toNat, true)
  | .ringTake _ n => some (n.toNat, false)
  | .rngTkt n _ => some (n.toNat, true)
  | .rngGet n _ => some (n.toNat, false)
  | _ => none

/-- The operation of a word that waits at a ring, with the register of its result. -/
def ringTaken : Instr → Option (RingOp × Reg)
  | .ringTicket d _ => some (.ticket, d)
  | .ringTake d _ => some (.take, d)
  | _ => none

/-- Words of spilled paths of a troupe that have waited at a ring, on the same side, since before the word at issue, in the order in
which they reached it: the unit, the stack entry, and the word. -/
def State.spilledAt (s : State) (t : Troupe) (x : Instr) : List (UnitId × Nat × Held) :=
  let all := t.casts.flatMap (fun u => ((s.ctxs.find u).map (fun (c : Ctx) => c.spilled.flatMap (fun (e : Nat × Path) =>
    (e.2.holders.filter (fun (h : Held) => (ringWaits h.instr).isSome && decide (ringWaits h.instr = ringWaits x) && decide (h.tag < s.cur.tag))).map
      (fun (h : Held) => (u, e.1, h))))).getD [])
  all.mergeSort (fun a b => decide (a.2.2.tag ≤ b.2.2.tag))

/-- A waiting operation of a spilled path is applied at the ring, when it can be: it reached the ring before the word at issue, and a
path that is spilled (R79) keeps no later operation waiting (R34, R120). Its result stands in the register once the path resumes. -/
def State.serveSpilled (s : State) (w : UnitId × Nat × Held) : State :=
  match s.ctxs.find w.1, ringTaken w.2.2.instr, ringWaits w.2.2.instr with
  | some c, some (o, d), some (n, _) =>
    match s.ringOp w.1 n o, c.spilled.lookup w.2.1 with
    | (s1, .done _ t), some p =>
      s1.onCtx w.1 (fun c1 =>
        let c2 := if d.toNat < 48 then c1.putSAs { s.pathIssue w.1 false p with pos := w.2.2.pos } p.pid 1 d.toNat (t.setWidth 64) else c1
        { c2 with spilled := c2.spilled.map (fun (e : Nat × Path) =>
            if e.1 = w.2.1 then (e.1, e.2.onHolders (fun (h : Held) => decide (h.tag = w.2.2.tag)) (fun _ => none) s.cycle) else e) })
    | _, _ => s
  | _, _, _ => s

/-- Whether another path of the troupe has waited at the ring, on the same side, since before the word at issue:
operations are applied in the order in which they reach the ring (R120). -/
def State.ringQueued (s : State) (x : Instr) : Bool :=
  match s.troupeOf s.cur.turn.unit with
  | none => false
  | some (_, t) => t.casts.any (fun u =>
      match s.ctxs.find u with
      | none => false
      | some c => (c.a :: c.b :: c.spilled.map (fun (e : Nat × Path) => e.2)).any (fun (p : Path) =>
          p.holders.any (fun (h : Held) => (ringWaits h.instr).isSome && decide (ringWaits h.instr = ringWaits x) && decide (h.tag < s.cur.tag))))

/-- Whether an uncorrectable error has struck a ring of a unit's troupe, or with number 16 its barriers (R360). -/
def State.syncBad (s : State) (u : UnitId) (n : Nat) : Bool :=
  match s.troupeOf u with | some (_, t) => t.badSync.contains n | none => false

/-- A unit that uses a ring or a barrier that an uncorrectable error has struck stops its point (R360, R361; log entry 18). -/
def State.stopAtSync (s : State) : State :=
  let u := s.cur.turn.unit
  { s.stopUnit u (match u with | .cue _ _ => 2 | .rigger _ _ => 3 | .striker _ _ => 3 | _ => 1) .uncorrectableECC
      (posDword s.cur.pos s.cur.mstep) (s.cur.word.setWidth 64) with
    cur := { s.cur with trap := some true } }

/-- A ring word of a cast (R214): misuse traps, a waiting operation holds the path, a result is a scalar. What spilled paths have
waited for since before is done first, when it can be (R34, R120). -/
def ringWord (x : Instr) (n : BitVec 4) (o : RingOp) (d : Option Reg) (s00 : State) : Result :=
  let s0 := match s00.troupeOf s00.cur.turn.unit with | some (_, t) => (s00.spilledAt t x).foldl State.serveSpilled s00 | none => s00
  s0.withCur (fun i _ =>
    let s := s0
    let u := s.cur.turn.unit
    if s.syncBad u n.toNat then s.stopAtSync
    else if s.ringQueued x then (match s.ringOp u n.toNat o with | (_, .misuse) => s.raise .ringMisuse | _ => s.holdPath x [] false)
    else
      match s.ringOp u n.toNat o with
      | (_, .misuse) => s.raise .ringMisuse
      | (_, .wait) => s.holdPath x [] false
      | (s1, .done _ t) => match d with
        | some d => s1.onCtx u (fun c => c.wrS i 1 d (t.setWidth 64))
        | none => s1)

/-- RING.TICKET (R214). -/
def execRingTicket (d : Reg) (n : BitVec 4) (s : State) : Result := ringWord (.ringTicket d n) n .ticket (some d) s

/-- RING.FILL (R214): bits 15:0 of a are the ticket. -/
def execRingFill (a : Reg) (n : BitVec 4) (s : State) : Result :=
  match s.ctxs.find s.cur.turn.unit with
  | none => .fault .noUnit
  | some c => ringWord (.ringFill a n) n (.fill ((c.rdS s.issue a).setWidth 16)) none s

/-- RING.TAKE (R214). -/
def execRingTake (d : Reg) (n : BitVec 4) (s : State) : Result := ringWord (.ringTake d n) n .take (some d) s

/-- RING.FREE (R214). -/
def execRingFree (n : BitVec 4) (s : State) : Result := ringWord (.ringFree n) n .free none s

/-! ### Barriers (R16, R86, R218) -/

/-- Whether a cast has executed EXIT (R77, R86): no path of it remains. -/
def State.exited (s : State) (u : UnitId) : Bool := decide (s.castPaths u = 0)

/-- Whether a participant has arrived at a cue barrier, or counts as arrived (R86). -/
def State.cueArrived (s : State) (t : Troupe) (n : Nat) (u : UnitId) : Bool :=
  ((t.cues.find n).getD []).contains u ||
    (match u with
     | .cue _ _ => ((s.ctxs.find u).map (fun (c : Ctx) => c.ended)).getD true
     | _ => s.exited u)

/-- The troupe barriers and the cue barriers whose phase is complete (R16, R218). -/
def State.metBarriers (s : State) (t : Troupe) : List (Bool × Nat) :=
  (t.bars.filter (fun (e : Nat × Arrivals) => !e.2.isEmpty && t.casts.all (fun u => e.2.contains u || s.exited u))).map (fun (e : Nat × Arrivals) => (false, e.1)) ++
    (t.cues.filter (fun (e : Nat × Arrivals) => !e.2.isEmpty && (t.cue :: t.casts).all (s.cueArrived t e.1))).map (fun (e : Nat × Arrivals) => (true, e.1))

/-- Complete the phases that are met: the arrivals clear and the waiting paths go on (R16, R218). -/
def State.meetBarriers (s : State) (k : Nat) : State :=
  match s.troupes.find k with
  | none => s
  | some t =>
    let met := s.metBarriers t
    let free := t.waits.filter (fun w => met.contains (w.1, w.2.2.1))
    let s1 := s.onTroupe k (fun t1 =>
      { t1 with bars := t1.bars.filter (fun (e : Nat × Arrivals) => !met.contains (false, e.1)),
                cues := t1.cues.filter (fun (e : Nat × Arrivals) => !met.contains (true, e.1)),
                waits := t1.waits.filter (fun w => !met.contains (w.1, w.2.2.1)) })
    free.foldl (fun (x : State) (w : Bool × UnitId × Nat × Nat) => x.wake w.2.1 w.2.2.2) s1

/-- A path waits at a barrier until its phase completes. -/
def State.waitAt (s : State) (k : Nat) (x : Instr) (cue : Bool) (n : Nat) : State :=
  (s.holdPath x [] true).onTroupe k (fun t => { t with waits := t.waits ++ [(cue, s.cur.turn.unit, n, s.cur.tag)] })

/-- BAR.ARV (R218). -/
def execBarArv (n : BitVec 4) (s : State) : Result :=
  s.withCur (fun _ _ =>
    let u := s.cur.turn.unit
    match s.troupeOf u with
    | none => s
    | some (k, t) =>
      if 1 < s.castPaths u then s.raise .illegalInstr
      else if s.syncBad u 16 then s.stopAtSync
      else if ((t.bars.find n.toNat).getD []).contains u then s.holdPath (.barArv n) [] false
      else (s.onTroupe k (fun t1 => { t1 with bars := t1.bars.put n.toNat (u :: (t1.bars.find n.toNat).getD []) })).meetBarriers k)

/-- BAR.WAIT (R218). -/
def execBarWait (n : BitVec 4) (s : State) : Result :=
  s.withCur (fun _ _ =>
    let u := s.cur.turn.unit
    match s.troupeOf u with
    | none => s
    | some (k, t) =>
      if 1 < s.castPaths u then s.raise .illegalInstr
      else if s.syncBad u 16 then s.stopAtSync
      else if ((t.bars.find n.toNat).getD []).contains u then s.waitAt k (.barWait n) false n.toNat
      else s)

/-- Whether the cue stream's earlier matrix words have completed (R16). -/
def State.cueQuiet (s : State) (t : Troupe) : Bool :=
  t.mx.ops.all (fun (o : MatOp) => o.done) && !(s.fars.any (fun f => decide (f.unit = t.cue) && !f.done))

/-- CUE.BAR (R16, R86): a diverged cast traps with CueMisuse; the cue stream arrives once its matrix words have
completed. -/
def execCueBar (n : BitVec 4) (s : State) : Result :=
  s.withCur (fun i _ =>
    let u := s.cur.turn.unit
    match s.troupeOf u with
    | none => s
    | some (k, t) =>
      if i.kind = .cast ∧ 1 < s.castPaths u then s.raise .cueMisuse
      else if s.syncBad u 16 then s.stopAtSync
      else if i.kind = .cue ∧ !s.cueQuiet t then s.holdPath (.cueBar n) [] false
      else
        let s1 := s.onTroupe k (fun t1 => { t1 with cues := t1.cues.put n.toNat (u :: (t1.cues.find n.toNat).getD []) })
        (s1.waitAt k (.cueBar n) true n.toNat).meetBarriers k)

/-! ### Handle fields (R216) -/

/-- The handle set that a word addresses: the cast's own, or with Q = 1 the cue stream's. -/
def State.handleUnit (s : State) (q : BitVec 1) : UnitId :=
  if q = 1#1 then ((s.troupeOf s.cur.turn.unit).map (fun (t : Nat × Troupe) => t.2.cue)).getD s.cur.turn.unit else s.cur.turn.unit

/-- Handle `h` of a register block. -/
def Ctx.handle (c : Ctx) (h : BitVec 4) : Handle := c.h[h.toNat]?.getD (.replicate 8 0)

/-- THSET (R216). -/
def execThset (r : Reg) (n : BitVec 6) (q : BitVec 1) (h : BitVec 4) (s : State) : Result :=
  s.withCur (fun i c =>
    let v := c.rdS i r
    let s1 := if q = 1#1 then
        s.onCtx s.cur.turn.unit (fun k => k.log i (.hq h.toNat (((s.ctxs.find (s.handleUnit q)).getD c).handle h)))
      else s
    s1.onCtx (s.handleUnit q) (fun k =>
      let k1 := if q = 1#1 then k else k.log i (.h h.toNat (k.handle h))
      { k1 with h := k1.h.setIfInBounds h.toNat ((k1.handle h).setIfInBounds n.toNat v), poisonS := k1.poisonS.filter (fun x => x ≠ 128 + 8 * h.toNat + n.toNat) }))

/-- THGET (R216). -/
def execThget (d : Reg) (n : BitVec 6) (q : BitVec 1) (h : BitVec 4) (s : State) : Result :=
  s.withCur (fun i c =>
    let v := (((s.ctxs.find (s.handleUnit q)).getD c).handle h)[n.toNat]?.getD 0
    s.onCtx s.cur.turn.unit (fun k => k.wrS i 1 d v))

end Sys2Proof.Machine
end

