-- ==== Sys2Proof/Machine/Control.lean ====
section
/-! DEFINITION. The control words, majors 0x10 to 0x16 (R171 to R183). -/

namespace Sys2Proof.Machine

/-! ### Branches (R171 to R175) -/

/-- A taken branch to a packet (R171): outside the code, the words before it keep their effect and the path faults at
the branch word. -/
def State.branchTo (s : State) (target : Int) : State :=
  let u := s.cur.turn.unit
  if target < 0 ∨ (codePackets (s.code u) : Int) ≤ target then
    s.raiseAfter .protFault (s.cur.word.setWidth 64) s.cur.pos
  else s.onCtx u (fun c => c.onPath s.cur.turn.slotB (fun p => { p with pc := 4 * target.toNat, mstep := none }))

/-- BRA (R172). -/
def execBra (o : BitVec 21) (s : State) : Result := s.withCur (fun _ _ => s.branchTo (branchTarget s.cur.pos o))

/-- CALL writes p + 1 to s47, in the cue stream to q15 (R162, R172). -/
def execCall (o : BitVec 21) (s : State) : Result :=
  s.withCur (fun i c =>
    let t := branchTarget s.cur.pos o
    let u := s.cur.turn.unit
    let link : Reg := if i.kind = .cue then 15 else 47
    if t < 0 ∨ (codePackets (s.code u) : Int) ≤ t then s.branchTo t
    else (s.setCtx u (c.wrS i 1 link (BitVec.ofNat 64 (packetOf s.cur.pos + 1)))).branchTo t)

/-- BRC.nz (R173). -/
def execBrcNz (a : Reg) (o : BitVec 15) (s : State) : Result :=
  s.withCur (fun i c => if c.rdS i a ≠ 0#64 then s.branchTo (branchTarget s.cur.pos o) else s)

/-- BRC.z (R173). -/
def execBrcZ (a : Reg) (o : BitVec 15) (s : State) : Result :=
  s.withCur (fun i c => if c.rdS i a = 0#64 then s.branchTo (branchTarget s.cur.pos o) else s)

/-- BRM.none (R174). -/
def execBrmNone (o : BitVec 20) (s : State) : Result :=
  s.withCur (fun i _ => if i.em = 0#32 then s.branchTo (branchTarget s.cur.pos o) else s)

/-- BRM.any (R174). -/
def execBrmAny (o : BitVec 20) (s : State) : Result :=
  s.withCur (fun i _ => if i.em ≠ 0#32 then s.branchTo (branchTarget s.cur.pos o) else s)

/-- BRM.all (R174). -/
def execBrmAll (o : BitVec 20) (s : State) : Result :=
  s.withCur (fun i _ => if i.em = BitVec.allOnes 32 then s.branchTo (branchTarget s.cur.pos o) else s)

/-- RET to packet a[29:0] (R175). -/
def execRet (a : Reg) (s : State) : Result :=
  s.withCur (fun i c => s.branchTo (((c.rdS i a).toNat % 2 ^ 30 : Nat) : Int))

/-! ### EXIT, JOIN, YIELD, FORK (R176 to R178) -/

/-- EXIT (R77, R85, R276): a cast's path ends, a cue stream ends, a sheet ends with STATUS 0. -/
def execExit (s : State) : Result :=
  s.withCur (fun _ c =>
    let u := s.cur.turn.unit
    let k := ((s.troupeOf u).map (fun (t : Nat × Troupe) => t.1)).getD 0
    match u with
    | .board v q => s.endSheet v q 0
    | .cue _ _ => (s.setCtx u { c with a := { c.a with live := false, pc := s.cur.pos, held := none, also := [] }, ended := true }).meetBarriers k
    | _ =>
      -- the cast keeps the exited path until its far accesses have performed (R356)
      if s.pathFar u (c.path s.cur.turn.slotB) then s.holdPath .exit [] false
      else (State.exitPath u 65 s.cur.turn.slotB s).meetBarriers k)

/-- JOIN (R14, R75); a NOP in the cue stream (R162). -/
def execJoin (s : State) : Result :=
  s.withCur (fun i _ => if i.kind = .cast then s.joinPath s.cur.turn.unit s.cur.turn.slotB else s)

/-- YIELD (R177); a NOP in the cue stream (R162). -/
def execYield (s : State) : Result :=
  s.withCur (fun i _ => if i.kind = .cast then s.demote s.cur.turn.unit s.cur.turn.slotB else s)

/-- Stack entries that are kept for FORKs of a cast's other paths which have issued and wait to split (R178, R356): each has passed
its check, and takes at most two. -/
def Ctx.entriesKept (c : Ctx) (pid : Nat) : Nat :=
  2 * ((c.a :: c.b :: c.spilled.map (fun (e : Nat × Path) => e.2)).filter (fun (p : Path) =>
    decide (p.pid ≠ pid) && p.holders.any (fun (h : Held) => match h.instr with | .fork .. => true | _ => false))).length

/-- FORK (R13, R74, R178). When it would split, its target lies outside the code and too few stack entries are free, the spec does
not say which trap comes first: the model takes ProtFault (log entry 80). -/
def execFork (a : Reg) (o : BitVec 16) (s : State) : Result :=
  s.withCur (fun i c =>
    let u := s.cur.turn.unit
    let m : Word := (nth (s.sources c [a]) 0).setWidth 32
    let t := branchTarget s.cur.pos o
    let need := if (c.path (!i.slotB)).live then 2 else 1
    if i.em &&& m = 0#32 then s.branchTo t
    else if i.em &&& ~~~ m = 0#32 then s
    else if t < 0 ∨ (codePackets (s.code u) : Int) ≤ t then s.branchTo t
    else if c.freeEntries.length < need + c.entriesKept (c.path i.slotB).pid then s.raise .divStackOverflow
    else s.split u i.slotB i m (4 * t.toNat))

/-! ### MCALL (R84, R179) -/

/-- MCALL enters macro m; an undefined macro traps. -/
def execMcall (m : BitVec 7) (_x _y _z : BitVec 5) (s : State) : Result :=
  s.withCur (fun i _ =>
    let u := s.cur.turn.unit
    match (s.quad u.quadKey).macros.find m.toNat with
    | none => s.raise .illegalInstr
    | some _ => s.onCtx u (fun c => c.onPath i.slotB (fun p => { p with pc := s.cur.pos, mstep := some 0 })))

/-! ### The mask and the format register (R180) -/

/-- SETEM (R180). -/
def execSetem (a : Reg) (s : State) : Result :=
  s.onCur (fun i c => (c.log i (.em (c.path i.slotB).em)).onPath i.slotB (fun p => { p with em := (c.rdS i a).setWidth 32 }))

/-- GETEM (R180). -/
def execGetem (d : Reg) (s : State) : Result := s.onCur (fun i c => c.wrS i 1 d (i.em.setWidth 64))

/-- Whether an element format is an integer format, codes 0x8 to 0xB (R89). -/
def isIntFmt (f : Nat) : Bool := decide (8 ≤ f ∧ f ≤ 0xB)

/-- Whether a value for fm obeys R93. -/
def fmLegal (x : Word) : Bool :=
  let a := bits x.toNat 28 4
  let b := bits x.toNat 24 4
  let acc := bits x.toNat 22 2
  decide (bits x.toNat 0 14 = 0) && decide (acc ≠ 3) && decide (bits x.toNat 18 4 ≤ 0xB) &&
    (if isIntFmt a && isIntFmt b then decide (acc = 1)
     else if !isIntFmt a && !isIntFmt b then decide (acc = 0 ∨ acc = 2) else false)

/-- SETFMT, checked under R93 (R180). -/
def execSetfmt (a : Reg) (s : State) : Result :=
  s.withCur (fun i c =>
    let x : Word := (c.rdS i a).setWidth 32
    if fmLegal x then
      s.setCtx s.cur.turn.unit ((c.log i (.fm (c.path i.slotB).fm)).onPath i.slotB (fun p => { p with fm := x }))
    else s.raise .illegalInstr)

/-- GETFMT (R180). -/
def execGetfmt (d : Reg) (s : State) : Result := s.onCur (fun i c => c.wrS i 1 d (i.fm.setWidth 64))

/-! ### SCENE (R181, R182) -/

/-- The guest physical address of a troupe cast's resume entry (R182, R296). -/
def resumeEntry (v : Vdi) (resume member cast : Nat) : Nat :=
  v.img.resumeBase + 0x4000 * resume + 128 * (16 * member + cast)

/-- The 128 bytes that a SCENE writes over an entry `old` (R182). -/
def sceneBytes (old : List Byte) (em : Word) (pc : Nat) (fm : Word) (first : Nat) (saves : List Dword) (seq : Word) : List Byte :=
  leBytes 8 (em.toNat * 2 ^ 32 + pc) ++ leBytes 8 (fm.toNat * 2 ^ 32 + first * 2 ^ 8 + saves.length * 2 ^ 4 + 1) ++
    leBytes 8 seq.toNat ++ leBytes 8 0 ++ saves.flatMap (fun x => leBytes 8 x.toNat) ++
    (old.drop (0x20 + 8 * saves.length)).take (64 - 8 * saves.length) ++ leBytes 32 0

/-- SCENE (R181): waits for the cast's counters and for its stores to be performed at device scope; the entry write
then takes its own time. -/
def execScene (a : Reg) (n : BitVec 6) (s : State) : Result :=
  s.withCur (fun _ c =>
    let u := s.cur.turn.unit
    let vals := s.sources c ((List.range n.toNat).map (fun k => a + BitVec.ofNat 6 k))
    if 1 < s.castPaths u then s.raise .illegalInstr
    else if 0 < s.counter u .g ∨ 0 < s.counter u .a ∨ 0 < s.counter u .t ∨ 0 < s.counter u .x then
      s.holdPath (.scene a n) vals false
    else ((s.drainUnit u).later { kind := .sceneCommitComplete, unit := u, id := s.cur.tag }).holdPath (.scene a n) vals true)

/-- The entry write of a SCENE is performed, and its path is eligible again (R181, R182). Posts that the committed
scene has passed are released (R316). -/
def execSceneCommitComplete (s : State) : Result :=
  let u := s.ev.unit
  match s.ctxs.find u, s.troupeOf u with
  | some c, some (_, t) =>
    match c.sleeper s.ev.id, s.pointOf t, s.vdis.find t.vdi with
    | some h, some p, some v =>
      let gpa := resumeEntry v p.resume t.member (t.castNumber u)
      let first := match h.instr with | .scene a _ => a.toNat | _ => 0
      let seq := c.scseq + 1
      let old := (match s.readGuest v gpa 128 with | .ok bs => bs | .error _ => [])
      let bytes := sceneBytes old h.em h.after h.fm first h.vals seq
      let s1 := (match s.writeGuest v gpa bytes with | .ok s2 => s2 | .error _ => s)
      let s2 := s1.onCtx u (fun x => { x with scseq := seq, ordinal := 0, sceneAt := some s.cycle })
      let s3 := s2.onPoint t.slot t.point (fun q => { q with watch := 0 })
      .next ((s3.releasePosts t.slot t.point
        (fun k => decide (k.member = t.member) && decide (k.cast = t.castNumber u) && decide (k.scseq ≠ seq))).wake u s.ev.id)
    | _, _, _ => .next s
  | _, _ => .next s

end Sys2Proof.Machine
end

