-- ==== Sys2Proof/Machine/Place.lean ====
section
/-! DEFINITION. What a tenant, a troupe and a unit hold when they are created (R61, R255, R272, R273, R276), and a
state whose next step fetches a given instruction (log entry 2). -/

namespace Sys2Proof.Machine

/-- An image with no code, data or share, on core 0 with all four quadrants. -/
def emptyImage : TenantImage :=
  { vdi := 0, tenant := 0, x0 := 0, y0 := 0, w := 1, h := 1, quads := [0, 1, 2, 3], nestSlots := 0, semBase := 0,
    semShare := 0, binBase := 0, binShare := 0, pctShare := 0, queues := [], policy := [], code := [],
    stagehandCode := [], stagehandData := [], data := [], relocs := [], memory := [], bodies := [], xmin := 0, xmax := 0, ymin := 0, ymax := 0, gangMax := 1,
    sptr := 0, hptr := 0, plnext := 0, plend := 0, stvec := 0, htvec := 0, cctl := 0, wdlim := 0, saveBase := 0,
    resumeBase := 0, reserve := 0, endpoint := 0, groups := [] }

/-- The queues of an interface by number (R272); the reset value of QCFG.KIND is 0, whatever kind the tenant's configuration
record names (R273, R323). -/
def queuesOf : Nat → List Bool → Map Nat Queue
  | _, [] => []
  | n, _ :: ks => (n, Queue.zero false) :: queuesOf (n + 1) ks

/-- An interface whose tenant has just been created (R255, R273, R349, R399). Its budgets are 0 until its first slice: R301 gives
them no first value (log entry 83). -/
def Vdi.create (img : TenantImage) (tmeas : List Byte) : Vdi :=
  { img := img, queues := queuesOf 0 img.queues, sptr := img.sptr, hptr := img.hptr, plnext := img.plnext,
    plend := img.plend, toff := 0, tscale := 0x100000000, wdlim := img.wdlim, reserve := img.reserve, launches := [],
    copies := [], cursors := [], quads := img.quads, withheld := [], log := [], fltail := 0, flack := 0, fllost := 0, bme := true,
    irqSent := [], irqHeld := [], perf := [], badCode := [], timeBudget := 0, energyBudget := 0, partFault := false, charged := 0,
    saveHold := false, resumes := [], tmeas := tmeas }

/-- A troupe with absent rings and no arrivals. -/
def Troupe.create (core : Nat) (quads : List Nat) (shape : BitVec 2) (vdi slot : Nat) (point : List Int) (member : Nat) :
    Troupe :=
  { core := core, quads := quads, shape := shape, vdi := vdi, slot := slot, point := point, member := member,
    rings := .replicate 16 Ring.zero, bars := [], waits := [], cues := [], mx := Matrix.start shape, nhnd := 0,
    oldHandle := none, startAt := 0, started := false, stopped := false }

/-- A live path at a position, with every lane (R61). -/
def Path.start (pc : Nat) : Path := { Path.none with live := true, pid := 1, pc := pc, em := BitVec.allOnes 32 }

/-! ### A state that fetches a given instruction -/

/-- The unit that executes the words (R155): the stagehand for a word that only its decoder reads. -/
def placeUnit (w0 w1 : Word) : UnitId :=
  match decode (kindOf w0) w0 w1 with
  | .ok _ => match kindOf w0 with | .cast => .cast 0 0 0 | .cue => .cue 0 0 | .board => .board 0 0
  | .error _ =>
    match parseX w0 with
    | some i => if encode i = [w0] then .rigger 0 0 else .cast 0 0 0
    | none => .cast 0 0 0

/-- A unit's registers with its one path at packet 0, at the hypervisor level, where every word of its unit may
execute (R156). -/
def placeCtx (s : State) (u : UnitId) : Ctx :=
  let c := (s.ctxs.find u).getD Ctx.zero
  { c with a := { c.a with live := true, pid := 1, pc := 0, mstep := none, em := BitVec.allOnes 32, plvl := 2#2,
                           parent := none, readyAt := 0, delayed := false, held := none, also := [], demoted := false, acq := none,
                           runs := [], entry := none },
           b := Path.none, nspill := 0, nextPid := 2, undo := [], pend := [], parked := [], whole := [], ended := false }

/-- `s` with an instruction where the next step fetches: the tenant of interface 0 has it as the start of its code, or
its stagehand as the start of its instruction store, and the unit issues next. -/
def placeWord (s : State) (_nbits w : Nat) : State :=
  let w0 : Word := BitVec.ofNat 32 w
  let w1 : Word := BitVec.ofNat 32 (w / 2 ^ 32)
  let u := placeUnit w0 w1
  let code := leBytes 4 w0.toNat ++ leBytes 4 w1.toNat ++ leBytes 4 0
  let v0 := (s.vdis.find 0).getD (Vdi.create emptyImage [])
  let q0 : Queue := { (v0.queues.find 0).getD (Queue.zero false) with en := true, running := some (1, 0), core := some 0 }
  let v1 : Vdi := { v0 with img := { v0.img with code := code, codeVa := none }, queues := v0.queues.put 0 q0 }
  let t0 := (s.troupes.find 0).getD (Troupe.create 0 [0] 0 0 0 [0] 0)
  let t1 : Troupe := { t0 with core := 0, vdi := 0, started := true, stopped := false }
  let s1 : State :=
    { s with vdis := s.vdis.put 0 v1, troupes := s.troupes.put 0 t1, agenda := [], scheduled := true,
             issueQ := [{ unit := u, slotB := false, resume := false }] }
  match u with
  | .rigger _ _ =>
    let h := (s.hands.find u).getD Hand.zero
    { s1 with hands := s.hands.put u { h with pc := 0, instrs := h.instrs.putWord 0 w0, started := true, exited := false,
                                              held := none, readyAt := 0 } }
  | _ => s1.setCtx u (placeCtx s u)

end Sys2Proof.Machine
end

