-- ==== Sys2Proof/Machine/Fp.lean ====
section
/-! DEFINITION. Number formats and arithmetic (R89 to R101): exact values, rounding with its flags, FP32 arithmetic,
conversions, and the transcendental functions. -/

namespace Sys2Proof.Machine

/-! ### Formats (R89, R90) -/

/-- A floating format: exponent and mantissa widths, bias, the largest finite value as mantissa × 2^exponent, and
whether it has infinities and NaNs. -/
structure FFmt where
  eb : Nat
  mb : Nat
  bias : Nat
  maxM : Nat
  maxE : Int
  hasInf : Bool
  hasNan : Bool
  deriving DecidableEq, Repr

/-- FP32. -/
def fp32 : FFmt := { eb := 8, mb := 23, bias := 127, maxM := 0xFFFFFF, maxE := 104, hasInf := true, hasNan := true }
/-- BF16. -/
def bf16 : FFmt := { eb := 8, mb := 7, bias := 127, maxM := 0xFF, maxE := 120, hasInf := true, hasNan := true }
/-- FP16. -/
def fp16 : FFmt := { eb := 5, mb := 10, bias := 15, maxM := 0x7FF, maxE := 5, hasInf := true, hasNan := true }
/-- E4M3: the largest finite value is 448. -/
def e4m3 : FFmt := { eb := 4, mb := 3, bias := 7, maxM := 14, maxE := 5, hasInf := false, hasNan := true }
/-- E5M2. -/
def e5m2 : FFmt := { eb := 5, mb := 2, bias := 15, maxM := 7, maxE := 13, hasInf := true, hasNan := true }
/-- E3M2. -/
def e3m2 : FFmt := { eb := 3, mb := 2, bias := 3, maxM := 7, maxE := 2, hasInf := false, hasNan := false }
/-- E2M3. -/
def e2m3 : FFmt := { eb := 2, mb := 3, bias := 1, maxM := 15, maxE := -1, hasInf := false, hasNan := false }
/-- E2M1. -/
def e2m1 : FFmt := { eb := 2, mb := 1, bias := 1, maxM := 3, maxE := 1, hasInf := false, hasNan := false }

/-- Width of a floating format. -/
def FFmt.width (f : FFmt) : Nat := 1 + f.eb + f.mb

/-- A format of VCVT (R196): floating, or an integer of a width and signedness. -/
inductive Fmt where
  | flt (f : FFmt)
  | int (signed : Bool) (w : Nat)
  deriving DecidableEq, Repr

/-- The formats by R89's codes, with 0xC for INT32 and 0xD for UINT32 (R196). -/
def fmtOf (code : Nat) : Fmt :=
  match code with
  | 0 => .flt fp32
  | 1 => .flt bf16
  | 2 => .flt fp16
  | 3 => .flt e4m3
  | 4 => .flt e5m2
  | 5 => .flt e3m2
  | 6 => .flt e2m3
  | 7 => .flt e2m1
  | 8 => .int true 8
  | 9 => .int false 8
  | 0xA => .int true 4
  | 0xB => .int false 4
  | 0xC => .int true 32
  | _ => .int false 32

/-- The exact value of an encoding (R90). -/
def FFmt.decode (f : FFmt) (x : Nat) : Num :=
  let m := x % 2 ^ f.mb
  let e := x / 2 ^ f.mb % 2 ^ f.eb
  let s := decide (x / 2 ^ (f.mb + f.eb) % 2 = 1)
  if e = 2 ^ f.eb - 1 ∧ f.hasInf then (if m = 0 then .inf s else .nan)
  else if e = 2 ^ f.eb - 1 ∧ f.hasNan ∧ m = 2 ^ f.mb - 1 then .nan
  else if e = 0 then .fin s m (1 - (f.bias : Int) - f.mb)
  else .fin s (2 ^ f.mb + m) ((e : Int) - f.bias - f.mb)

/-- The exact value of the low bits of a word in a format (R195, R196). -/
def Fmt.decode (f : Fmt) (x : Nat) : Num :=
  match f with
  | .flt g => g.decode (x % 2 ^ g.width)
  | .int true w =>
    let v := x % 2 ^ w
    if v < 2 ^ (w - 1) then .fin false v 0 else .fin true (2 ^ w - v) 0
  | .int false w => .fin false (x % 2 ^ w) 0

/-- The canonical NaN (R89). -/
def FFmt.nan (f : FFmt) : Nat :=
  if f.hasInf then (2 ^ f.eb - 1) * 2 ^ f.mb + 2 ^ (f.mb - 1) else if f.hasNan then 2 ^ (f.eb + f.mb) - 1 else 0

/-- The sign bit. -/
def FFmt.sign (f : FFmt) (neg : Bool) : Nat := if neg then 2 ^ (f.eb + f.mb) else 0

/-- An infinity, in a format that has them. -/
def FFmt.infinity (f : FFmt) (neg : Bool) : Nat := f.sign neg + (2 ^ f.eb - 1) * 2 ^ f.mb

/-- The encoding of a representable value n × 2^q, with n below 2^(mb + 1). -/
def FFmt.pack (f : FFmt) (neg : Bool) (n : Nat) (q : Int) : Nat :=
  f.sign neg + (if n < 2 ^ f.mb then n else ((q + f.mb + f.bias).toNat) * 2 ^ f.mb + (n - 2 ^ f.mb))

/-- The largest finite value. -/
def FFmt.largest (f : FFmt) (neg : Bool) : Nat := f.pack neg f.maxM f.maxE

/-! ### Rounding (R97, R98) -/

/-- The rounding modes of fm.RM and of VCVT's rm field (R92, R97). -/
inductive Mode where
  | rne | rz | rdn | rup
  deriving DecidableEq, Repr

/-- A mode by its code. -/
def modeOf (x : Nat) : Mode := match x % 4 with | 0 => .rne | 1 => .rz | 2 => .rdn | _ => .rup

/-- The mode of fm (R92). -/
def fmMode (fm : Word) : Mode := modeOf (bits fm.toNat 16 2)
/-- fm.SAT (R92). -/
def fmSat (fm : Word) : Bool := fm.getLsbD 15

/-- A magnitude m × 2^e, with more below m's last bit when `more`. -/
structure Mag where
  m : Nat
  e : Int
  more : Bool
  deriving DecidableEq, Repr

/-- Bits of a number. -/
def bitLen (m : Nat) : Nat := if m = 0 then 0 else Nat.log2 m + 1

/-- A magnitude rounded to a multiple of 2^q under a mode: the multiple, and whether it is inexact (R97). -/
def roundAt (mode : Mode) (neg : Bool) (x : Mag) (q : Int) : Nat × Bool :=
  if q ≤ x.e then
    let n := x.m * 2 ^ (x.e - q).toNat
    let up := x.more && (match mode with | .rdn => neg | .rup => !neg | _ => false)
    (n + up.toNat, x.more)
  else
    let r := (q - x.e).toNat
    let n := x.m / 2 ^ r
    let t := x.m % 2 ^ r
    let inexact := decide (t ≠ 0) || x.more
    let up := match mode with
      | .rne => decide (2 ^ r < 2 * t) || (decide (2 ^ r = 2 * t) && (x.more || decide (n % 2 = 1)))
      | .rz => false
      | .rdn => neg && inexact
      | .rup => !neg && inexact
    (n + up.toNat, inexact)

/-- The delivery of a finite overflow or an infinity, `over` for an overflow of the mode given (R98). -/
def FFmt.overflow (f : FFmt) (mode : Mode) (sat neg : Bool) : Nat × BitVec 7 :=
  let toInf := match mode with | .rne => true | .rz => false | .rdn => neg | .rup => !neg
  if !toInf then (f.largest neg, stOF ||| stNX)
  else if sat || !(f.hasInf || f.hasNan) then (f.largest neg, stOF ||| stNX ||| stSAT)
  else if f.hasInf then (f.infinity neg, stOF ||| stNX)
  else (f.nan, stOF ||| stNX ||| stNV)

/-- A nonzero magnitude rounded to a floating format (R97, R98), with its flags (R96). -/
def FFmt.round (f : FFmt) (mode : Mode) (sat neg : Bool) (x : Mag) : Nat × BitVec 7 :=
  let top : Int := x.e + bitLen x.m - 1
  let emin : Int := 1 - (f.bias : Int)
  let q := max (top - f.mb) (emin - f.mb)
  let (n0, inexact) := roundAt mode neg x q
  let (n, q1) := if n0 = 2 ^ (f.mb + 1) then (2 ^ f.mb, q + 1) else (n0, q)
  if f.maxE < q1 ∨ (q1 = f.maxE ∧ f.maxM < n) then f.overflow mode sat neg
  else
    (f.pack neg n q1, (if inexact then stNX else 0) ||| (if inexact ∧ top < emin then stUF else 0))

/-- An exact value in a floating format (R96, R98). -/
def FFmt.encode (f : FFmt) (mode : Mode) (sat : Bool) (x : Num) : Nat × BitVec 7 :=
  match x with
  | .nan => (f.nan, stNV)
  | .inf neg =>
    if f.hasInf then (f.infinity neg, 0)
    else if sat || !f.hasNan then (f.largest neg, stSAT)
    else (f.nan, stNV)
  | .fin neg m e => if m = 0 then (f.sign neg, 0) else f.round mode sat neg { m := m, e := e, more := false }

/-- An exact value in an integer format: rounded, then clamped (R99). The result is the format's bits. -/
def intEncode (signed : Bool) (w : Nat) (mode : Mode) (x : Num) : Nat × BitVec 7 :=
  let hi : Int := if signed then 2 ^ (w - 1) - 1 else 2 ^ w - 1
  let lo : Int := if signed then -(2 ^ (w - 1)) else 0
  let enc (v : Int) : Nat := (v % 2 ^ w).toNat
  match x with
  | .nan => (0, stNV)
  | .inf neg => (enc (if neg then lo else hi), stSAT)
  | .fin neg m e =>
    let (n, inexact) := roundAt mode neg { m := m, e := e, more := false } 0
    let v : Int := if neg then -(n : Int) else n
    let nx := if inexact then stNX else 0
    if v < lo then (enc lo, nx ||| stSAT) else if hi < v then (enc hi, nx ||| stSAT) else (enc v, nx)

/-- Conversion of one lane (R196). -/
def convert (src dst : Fmt) (mode : Mode) (sat : Bool) (x : Word) : Word × BitVec 7 :=
  let v := src.decode x.toNat
  let (r, f) := match dst with
    | .flt g => g.encode mode sat v
    | .int s w => intEncode s w mode v
  (BitVec.ofNat 32 r, f)

/-! ### Exact arithmetic -/

/-- A finite value from an exact integer at an exponent; the sign of a zero is given. -/
def numOfInt (v : Int) (e : Int) (zeroNeg : Bool) : Num :=
  if v = 0 then .fin zeroNeg 0 e else .fin (decide (v < 0)) v.natAbs e

/-- A signed significand. -/
def signed (neg : Bool) (m : Nat) : Int := if neg then -(m : Int) else m

/-- An exact sum; invalid for infinities of opposite signs. `zeroNeg` is the sign of a sum of nonzero values that
cancels (R191). -/
def Num.add (zeroNeg : Bool) (a b : Num) : Num :=
  match a, b with
  | .nan, _ => .nan
  | _, .nan => .nan
  | .inf s, .inf t => if s = t then .inf s else .nan
  | .inf s, _ => .inf s
  | _, .inf t => .inf t
  | .fin s m e, .fin t n f =>
    let g := min e f
    let v := signed s (m * 2 ^ (e - g).toNat) + signed t (n * 2 ^ (f - g).toNat)
    numOfInt v g (if m = 0 ∧ n = 0 ∧ s = t then s else zeroNeg)

/-- An exact product; invalid for 0 × inf. -/
def Num.mul (a b : Num) : Num :=
  match a, b with
  | .nan, _ => .nan
  | _, .nan => .nan
  | .inf s, .inf t => .inf (s != t)
  | .inf s, .fin t n _ => if n = 0 then .nan else .inf (s != t)
  | .fin s m _, .inf t => if m = 0 then .nan else .inf (s != t)
  | .fin s m e, .fin t n f => .fin (s != t) (m * n) (e + f)

/-- A value with its sign changed. -/
def Num.neg : Num → Num
  | .nan => .nan
  | .inf s => .inf (!s)
  | .fin s m e => .fin (!s) m e

/-- The value of an FP32 word. -/
def f32 (x : Word) : Num := fp32.decode x.toNat

/-- A value rounded to FP32 under a mode with SAT = 0: ieee of R191. -/
def ieee (mode : Mode) (x : Num) : Word × BitVec 7 :=
  let (r, f) := fp32.encode mode false x
  (BitVec.ofNat 32 r, f)

/-- VFADD of two words. -/
def fadd (mode : Mode) (a b : Word) : Word × BitVec 7 := ieee mode ((f32 a).add (decide (mode = .rdn)) (f32 b))
/-- VFMUL of two words. -/
def fmul (mode : Mode) (a b : Word) : Word × BitVec 7 := ieee mode ((f32 a).mul (f32 b))
/-- A fused product and sum, with the signs of product and addend given (R192). -/
def ffma (mode : Mode) (negP negC : Bool) (a b c : Word) : Word × BitVec 7 :=
  let p := (f32 a).mul (f32 b)
  let p := if negP then p.neg else p
  let d := if negC then (f32 c).neg else f32 c
  ieee mode (p.add (decide (mode = .rdn)) d)

/-- Whether an FP32 word is a NaN. -/
def isNan (a : Word) : Bool := decide (f32 a = .nan)

/-- The order of two values that are not NaN: a < b, with −0 equal to +0. -/
def Num.lt (a b : Num) : Bool :=
  match a, b with
  | .nan, _ => false
  | _, .nan => false
  | .inf s, .inf t => s && !t
  | .inf s, _ => s
  | _, .inf t => !t
  | .fin s m e, .fin t n f =>
    let g := min e f
    decide (signed s (m * 2 ^ (e - g).toNat) < signed t (n * 2 ^ (f - g).toNat))

/-- Whether two values are equal, with −0 equal to +0; a NaN equals nothing. -/
def Num.eqv (a b : Num) : Bool := decide (a ≠ .nan) && decide (b ≠ .nan) && !a.lt b && !b.lt a

/-- FP32 minimum or maximum, with −0 below +0 (R97). -/
def fminmax (wantMax : Bool) (a b : Word) : Word × BitVec 7 :=
  if isNan a ∧ isNan b then (BitVec.ofNat 32 fp32.nan, stNV)
  else if isNan a then (b, 0)
  else if isNan b then (a, 0)
  else
    let less := (f32 a).lt (f32 b) || (!(f32 b).lt (f32 a) && a.getLsbD 31 && !b.getLsbD 31)
    (if less != wantMax then a else b, 0)

/-- The conditions of VFCMP (R193). -/
def fcondition (f : BitVec 4) (a b : Word) : Bool :=
  let x := f32 a
  let y := f32 b
  let ord := !isNan a && !isNan b
  match f.toNat with
  | 0 => ord && x.eqv y
  | 1 => !(ord && x.eqv y)
  | 2 => ord && x.lt y
  | 3 => ord && !x.lt y
  | 4 => ord && !y.lt x
  | 5 => ord && y.lt x
  | 6 => !ord
  | _ => ord

/-! ### Transcendental functions (R101)

The irrational ones are computed in fixed point with 192 fraction bits and an error below 2^-170, and both ends of
the interval are rounded; an FP32 result of these functions is decided well before that (log entry 20). -/

/-- Fraction bits of the fixed-point values. -/
def fxBits : Nat := 192
/-- floor(ln 2 × 2^192). -/
def fxLn2 : Nat := 4350955369971217654477563090224794165364344896676135745069
/-- floor(log2 e × 2^192). -/
def fxLog2e : Nat := 9055943544797870567083544809312461607371518589544137143473

/-- A fixed-point product. -/
def fxMul (a b : Nat) : Nat := a * b / 2 ^ fxBits

/-- The series of e^t, from the term `t^k / k!` on, for t below 1. -/
def fxExpSeries (t : Nat) : Nat → Nat → Nat → Nat
  | 0, _, _ => 0
  | n + 1, k, term => term + fxExpSeries t n (k + 1) (fxMul term t / (k + 1))

/-- 2^f for a fixed-point f in [0, 1). -/
def fxExp2 (f : Nat) : Nat := fxExpSeries (fxMul f fxLn2) 60 0 (2 ^ fxBits)

/-- The series of atanh z, from the term z^(2k+1) / (2k+1) on. -/
def fxAtanhSeries (z2 : Nat) : Nat → Nat → Nat → Nat
  | 0, _, _ => 0
  | n + 1, k, pow => pow / (2 * k + 1) + fxAtanhSeries z2 n (k + 1) (fxMul pow z2)

/-- ln y for a fixed-point y in [1, 2]. -/
def fxLn (y : Nat) : Nat :=
  let one := 2 ^ fxBits
  let z := (y - one) * one / (y + one)
  2 * fxAtanhSeries (fxMul z z) 70 0 z

/-- The fixed-point value of a magnitude, rounded down. -/
def fxOf (m : Nat) (e : Int) : Nat :=
  let k := e + fxBits
  if 0 ≤ k then m * 2 ^ k.toNat else m / 2 ^ (-k).toNat

/-- The fixed-point error bound. -/
def fxErr : Nat := 2 ^ 20

/-- A positive fixed-point value v × 2^(k − 192), known to lie within the error bound, rounded to FP32 with its
flags, NX included. -/
def fxRound (neg : Bool) (v : Nat) (k : Int) : Word × BitVec 7 :=
  let r (x : Nat) : Nat × BitVec 7 := fp32.round .rne false neg { m := x, e := k - fxBits, more := true }
  let lo := r (v - fxErr)
  (BitVec.ofNat 32 lo.1, lo.2 ||| stNX)

/-- g = t × log2 e for a magnitude m × 2^e, in fixed point. -/
def fxScaled (m : Nat) (e : Int) : Nat :=
  let k := e
  if 0 ≤ k then m * 2 ^ k.toNat * fxLog2e else m * fxLog2e / 2 ^ (-k).toNat

/-- 2^(−g) split as u × 2^(−n), with u a fixed-point value in [1, 2]. -/
def fxExp2Neg (g : Nat) : Nat × Nat :=
  let one := 2 ^ fxBits
  let n := (g + one - 1) / one
  (fxExp2 (n * one - g), n)

/-- FP32 infinity. -/
def inf32 (neg : Bool) : Word := BitVec.ofNat 32 (fp32.infinity neg)
/-- The canonical FP32 NaN. -/
def nan32 : Word := 0x7FC00000#32
/-- A zero. -/
def zero32 (neg : Bool) : Word := BitVec.ofNat 32 (fp32.sign neg)
/-- One. -/
def one32 (neg : Bool) : Word := if neg then 0xBF800000#32 else 0x3F800000#32

/-- VFRCP (R101). -/
def frcp (a : Word) : Word × BitVec 7 :=
  match f32 a with
  | .nan => (nan32, stNV)
  | .inf s => (zero32 s, 0)
  | .fin s m e =>
    if m = 0 then (inf32 s, 0)
    else
      let (r, f) := fp32.round .rne false s { m := 2 ^ 80 / m, e := -e - 80, more := decide (2 ^ 80 % m ≠ 0) }
      (BitVec.ofNat 32 r, if f &&& stOF ≠ 0 then stOF else f ||| stNX)

/-- The significand and exponent of a positive value with an even exponent. -/
def evenExp (m : Nat) (e : Int) : Nat × Int := if e % 2 = 0 then (m, e) else (2 * m, e - 1)

/-- VFSQRT (R101). -/
def fsqrt (a : Word) : Word × BitVec 7 :=
  match f32 a with
  | .nan => (nan32, stNV)
  | .inf s => if s then (nan32, stNV) else (inf32 false, 0)
  | .fin s m e =>
    if m = 0 then (a, 0)
    else if s then (nan32, stNV)
    else
      let (n, k) := evenExp m e
      let t := n * 2 ^ 80
      let r := Nat.sqrt t
      let (x, f) := fp32.round .rne false false { m := r, e := k / 2 - 40, more := decide (r * r ≠ t) }
      (BitVec.ofNat 32 x, f)

/-- VFRSQ (R101). -/
def frsq (a : Word) : Word × BitVec 7 :=
  match f32 a with
  | .nan => (nan32, stNV)
  | .inf s => if s then (nan32, stNV) else (zero32 false, 0)
  | .fin s m e =>
    if m = 0 then (inf32 s, 0)
    else if s then (nan32, stNV)
    else
      let (n, k) := evenExp m e
      let t := 2 ^ 160 / n
      let r := Nat.sqrt t
      let (x, f) := fp32.round .rne false false { m := r, e := -(k / 2) - 80, more := decide (r * r * n ≠ 2 ^ 160) }
      (BitVec.ofNat 32 x, f ||| stNX)

/-- The integer that a value is, when it is one. -/
def Num.asInt : Num → Option Int
  | .fin s m e =>
    if 0 ≤ e then some (signed s (m * 2 ^ e.toNat))
    else if m % 2 ^ (-e).toNat = 0 then some (signed s (m / 2 ^ (-e).toNat)) else none
  | _ => none

/-- Whether a value is at least an integer. -/
def Num.atLeast (x : Num) (k : Int) : Bool := !x.lt (numOfInt k 0 false)

/-- VFEXP2 (R101). -/
def fexp2 (a : Word) : Word × BitVec 7 :=
  let x := f32 a
  match x with
  | .nan => (nan32, stNV)
  | .inf s => (if s then zero32 false else inf32 false, 0)
  | .fin s m e =>
    if x.atLeast 128 then (inf32 false, stOF)
    else if !x.atLeast (-150) then (zero32 false, stUF)
    else
      match x.asInt with
      | some k =>
        let (r, f) := fp32.round .rne false false { m := 1, e := k, more := false }
        (BitVec.ofNat 32 r, if k = -150 then f ||| stNX else 0)
      | none =>
        let g := fxOf m e
        let one := 2 ^ fxBits
        if s then
          let n := (g + one - 1) / one
          fxRound false (fxExp2 (n * one - g)) (-(n : Int))
        else fxRound false (fxExp2 (g % one)) (g / one : Nat)

/-- VFLOG2 (R101). -/
def flog2 (a : Word) : Word × BitVec 7 :=
  match f32 a with
  | .nan => (nan32, stNV)
  | .inf s => if s then (nan32, stNV) else (inf32 false, 0)
  | .fin s m e =>
    if m = 0 then (inf32 true, 0)
    else if s then (nan32, stNV)
    else
      let top : Int := e + bitLen m - 1
      if m = 2 ^ (bitLen m - 1) then
        let (r, _) := fp32.encode .rne false (numOfInt top 0 false)
        (BitVec.ofNat 32 r, 0)
      else
        let y := fxOf m (1 - (bitLen m : Int))
        let l : Int := top * 2 ^ fxBits + ((fxLn y * 2 ^ fxBits / fxLn2 : Nat) : Int)
        fxRound (decide (l < 0)) l.natAbs 0

/-- VFTANH (R101). Below 2^-20 the value rounds to the input itself. -/
def ftanh (a : Word) : Word × BitVec 7 :=
  let x := f32 a
  match x with
  | .nan => (nan32, stNV)
  | .inf s => (one32 s, 0)
  | .fin s m e =>
    if m = 0 then (a, 0)
    else if !(Num.fin false m e).lt (.fin false 10 0) then (one32 s, 0)
    else if (Num.fin false m e).lt (.fin false 1 (-20)) then
      (a, stNX ||| (if (Num.fin false 1 (-126)).lt (.fin false m e) then 0 else stUF))
    else
      let one := 2 ^ fxBits
      let (u, n) := fxExp2Neg (2 * fxScaled m e)
      let t := u / 2 ^ n
      fxRound s ((one - t) * one / (one + t)) 0

/-- VFSIG (R101). -/
def fsig (a : Word) : Word × BitVec 7 :=
  let x := f32 a
  match x with
  | .nan => (nan32, stNV)
  | .inf s => (if s then zero32 false else one32 false, 0)
  | .fin s m e =>
    let one := 2 ^ fxBits
    if m = 0 then (0x3F000000#32, stNX)
    else if x.atLeast 20 then (one32 false, 0)
    else if !x.atLeast (-110) then (zero32 false, stUF ||| stNX)
    else
      let (u, n) := fxExp2Neg (fxScaled m e)
      let den := one + u / 2 ^ n
      if s then fxRound false (u * one / den) (-(n : Int)) else fxRound false (one * one / den) 0

/-! ### The generator (R110) -/

/-- Rotation to the left of a word (R159). -/
def rotl32 (x : Word) (n : Nat) : Word := x.rotateLeft n

/-- grx (R110). -/
def grx (base : BitVec 128) (off : Word) (key : Dword) : Word :=
  let c := base + off.setWidth 128
  let c0 : Word := c.extractLsb' 0 32
  let c1 : Word := c.extractLsb' 32 32
  let c2 : Word := c.extractLsb' 64 32
  let c3 : Word := c.extractLsb' 96 32
  let k0 : Word := key.extractLsb' 0 32
  let k1 : Word := key.extractLsb' 32 32
  let x0 := c0 ^^^ k0
  let y0 := c1 ^^^ k1
  let x1 := (x0 * 0x6A09E667#32) ^^^ rotl32 y0 13 ^^^ c2
  let y1 := (y0 * 0xBB67AE85#32) ^^^ rotl32 x1 7 ^^^ c3
  let x2 := (x1 * 0x6A09E667#32) ^^^ rotl32 y1 13 ^^^ k1
  let y2 := (y1 * 0xBB67AE85#32) ^^^ rotl32 x2 7 ^^^ k0
  x2 ^^^ rotl32 y2 16

end Sys2Proof.Machine
end

