-- ==== Sys2Proof/Machine/Vector.lean ====
section
/-! DEFINITION. The vector words, majors 0x18 to 0x26 (R184 to R204). -/

namespace Sys2Proof.Machine

/-! ### Results and their tags (R64, R65) -/

/-- A lane-wise result of one operand: uniform when the operand is (R65). -/
def lanes1 (f : Word → Word) (x : VVal) : VVal :=
  match x with
  | .uni a => .uni (f a)
  | _ => .ofFn (fun l => f (x.lane l))

/-- A lane-wise result of two operands: uniform when both are (R65). -/
def lanes2 (f : Word → Word → Word) (x y : VVal) : VVal :=
  match x, y with
  | .uni a, .uni b => .uni (f a b)
  | _, _ => .ofFn (fun l => f (x.lane l) (y.lane l))

/-- A lane-wise result of three operands: uniform when all are (R65). -/
def lanes3 (f : Word → Word → Word → Word) (x y z : VVal) : VVal :=
  match x, y, z with
  | .uni a, .uni b, .uni c => .uni (f a b c)
  | _, _, _ => .ofFn (fun l => f (x.lane l) (y.lane l) (z.lane l))

/-- The sum, affine for an affine and a uniform operand (R65). -/
def vAddVal (x y : VVal) : VVal :=
  match x, y with
  | .aff b s, .uni u => .aff (b + u) s
  | .uni u, .aff b s => .aff (b + u) s
  | _, _ => lanes2 (fun a b => a + b) x y

/-- The difference, affine for an affine first and a uniform second operand (R65). -/
def vSubVal (x y : VVal) : VVal :=
  match x, y with
  | .aff b s, .uni u => .aff (b - u) s
  | _, _ => lanes2 (fun a b => a - b) x y

/-- The status bits that the active lanes set (R95). -/
def laneFlags (em : Word) (f : Nat → BitVec 7) : BitVec 7 := (lanesOf em).foldl (fun z l => z ||| f l) 0#7

/-! ### Shared forms -/

/-- An integer word of two vector operands (R184). -/
def vector2 (f : VVal → VVal → VVal) (d a b : Reg) (s : State) : Result :=
  s.onCur (fun i c => c.wrV i 2 d (f (c.rdV i a) (c.rdV i b)))

/-- An integer word of a vector operand and an immediate (R188). -/
def vectorImm (f : VVal → VVal → VVal) (d a : Reg) (k : BitVec 7) (s : State) : Result :=
  s.onCur (fun i c => c.wrV i 2 d (f (c.rdV i a) (immV k)))

/-- An integer word of one vector operand (R189). -/
def vector1 (f : Word → Word) (d a : Reg) (s : State) : Result :=
  s.onCur (fun i c => c.wrV i 2 d (lanes1 f (c.rdV i a)))

/-- An integer word that reads d, a and b (R189). -/
def vectorAcc (f : Word → Word → Word → Word) (d a b : Reg) (s : State) : Result :=
  s.onCur (fun i c => c.wrV i 2 d (lanes3 f (c.rdV i d) (c.rdV i a) (c.rdV i b)))

/-- A word of one operand whose lanes set status bits, of latency `lat` (R191, R194, R196). -/
def vectorSt1 (lat : Nat) (f : Word → Word → Word × BitVec 7) (d a : Reg) (s : State) : Result :=
  s.onCur (fun i c =>
    let x := c.rdV i a
    (c.wrV i lat d (lanes1 (fun u => (f i.fm u).1) x)).setSt (laneFlags i.em (fun l => (f i.fm (x.lane l)).2)))

/-- A word of two operands whose lanes set status bits, of latency `lat` (R191). -/
def vectorSt2 (lat : Nat) (f : Word → Word → Word → Word × BitVec 7) (d a b : Reg) (s : State) : Result :=
  s.onCur (fun i c =>
    let x := c.rdV i a
    let y := c.rdV i b
    (c.wrV i lat d (lanes2 (fun u v => (f i.fm u v).1) x y)).setSt
      (laneFlags i.em (fun l => (f i.fm (x.lane l) (y.lane l)).2)))

/-- A fused word, which reads d, a and b (R192). -/
def vectorFma (negP negC : Bool) (d a b : Reg) (s : State) : Result :=
  s.onCur (fun i c =>
    let z := c.rdV i d
    let x := c.rdV i a
    let y := c.rdV i b
    let f := fun (w u v : Word) => ffma (fmMode i.fm) negP negC u v w
    (c.wrV i 4 d (lanes3 (fun w u v => (f w u v).1) z x y)).setSt
      (laneFlags i.em (fun l => (f (z.lane l) (x.lane l) (y.lane l)).2)))

/-- A mask of the active lanes that meet a condition, written whatever em holds (R190). -/
def vectorMask (lat : Nat) (p : Word → Word → Bool) (d a b : Reg) (s : State) : Result :=
  s.onCur (fun i c =>
    let x := c.rdV i a
    let y := c.rdV i b
    c.wrS i lat d ((maskOf ((lanesOf i.em).filter (fun l => p (x.lane l) (y.lane l)))).setWidth 64))

/-! ### Lane functions -/

/-- The shift amount, bits 4:0 (R187). -/
def shift32 (b : Word) : Nat := b.toNat % 32
/-- Signed lesser (R187). -/
def vMinS (a b : Word) : Word := if a.slt b then a else b
/-- Signed greater (R187). -/
def vMaxS (a b : Word) : Word := if a.slt b then b else a
/-- Unsigned lesser (R187). -/
def vMinU (a b : Word) : Word := if a.ult b then a else b
/-- Unsigned greater (R187). -/
def vMaxU (a b : Word) : Word := if a.ult b then b else a
/-- High half of the signed product (R187). -/
def vMulHi (a b : Word) : Word := ((a.signExtend 64 * b.signExtend 64) >>> 32).setWidth 32
/-- Clamp to the signed range of a word, and SAT when clamped (R187). -/
def clamp32 (x : Int) : Word × BitVec 7 :=
  if x < -(2 ^ 31) then (0x80000000#32, stSAT) else if 2 ^ 31 - 1 < x then (0x7FFFFFFF#32, stSAT) else (BitVec.ofInt 32 x, 0)
/-- Absolute value (R189). -/
def vAbsW (a : Word) : Word := if a.msb then -a else a
/-- Leading zeros (R189). -/
def clz32 (a : Word) : Word := if a = 0#32 then 32 else BitVec.ofNat 32 (31 - Nat.log2 a.toNat)
/-- Set bits (R189). -/
def popc32 (a : Word) : Word := BitVec.ofNat 32 ((List.range 32).filter (fun k => a.getLsbD k)).length
/-- The byte dot product of R189 over the widened bytes. -/
def dot4 (ext : BitVec 8 → Word) (d a b : Word) : Word :=
  [0, 1, 2, 3].foldl (fun z j => z + ext (a.extractLsb' (8 * j) 8) * ext (b.extractLsb' (8 * j) 8)) d
/-- Element width in bits of VPACK and VUNPACK (R197). -/
def packWidth (w : BitVec 3) : Nat := match w.toNat with | 0 => 16 | 1 => 8 | _ => 4
/-- The low `n` bits of a word (R159). -/
def lowBits (n : Nat) (x : Word) : Word := BitVec.ofNat 32 (x.toNat % 2 ^ n)

/-! ### Major 0x18 (R187) -/

/-- VADD: lane sum (R187), affine as R65 says. -/
def execVadd (d a b : Reg) (s : State) : Result := vector2 vAddVal d a b s

/-- VSUB: lane difference (R187), affine as R65 says. -/
def execVsub (d a b : Reg) (s : State) : Result := vector2 vSubVal d a b s

/-- VMUL: low 32 bits of the product (R187). -/
def execVmul (d a b : Reg) (s : State) : Result := vector2 (lanes2 (fun a b => a * b)) d a b s

/-- VMULH: high 32 bits of the signed product (R187). -/
def execVmulh (d a b : Reg) (s : State) : Result := vector2 (lanes2 (fun a b => vMulHi a b)) d a b s

/-- VAND: bitwise and (R187). -/
def execVand (d a b : Reg) (s : State) : Result := vector2 (lanes2 (fun a b => a &&& b)) d a b s

/-- VOR: bitwise or (R187). -/
def execVor (d a b : Reg) (s : State) : Result := vector2 (lanes2 (fun a b => a ||| b)) d a b s

/-- VXOR: bitwise exclusive or (R187). -/
def execVxor (d a b : Reg) (s : State) : Result := vector2 (lanes2 (fun a b => a ^^^ b)) d a b s

/-- VSHL: left shift by b[4:0] (R187). -/
def execVshl (d a b : Reg) (s : State) : Result := vector2 (lanes2 (fun a b => a <<< shift32 b)) d a b s

/-- VSHR: logical right shift (R187). -/
def execVshr (d a b : Reg) (s : State) : Result := vector2 (lanes2 (fun a b => a >>> shift32 b)) d a b s

/-- VSRA: arithmetic right shift (R187). -/
def execVsra (d a b : Reg) (s : State) : Result := vector2 (lanes2 (fun a b => a.sshiftRight (shift32 b))) d a b s

/-- VMIN: signed lesser (R187). -/
def execVmin (d a b : Reg) (s : State) : Result := vector2 (lanes2 (fun a b => vMinS a b)) d a b s

/-- VMAX: signed greater (R187). -/
def execVmax (d a b : Reg) (s : State) : Result := vector2 (lanes2 (fun a b => vMaxS a b)) d a b s

/-- VMINU: unsigned lesser (R187). -/
def execVminu (d a b : Reg) (s : State) : Result := vector2 (lanes2 (fun a b => vMinU a b)) d a b s

/-- VMAXU: unsigned greater (R187). -/
def execVmaxu (d a b : Reg) (s : State) : Result := vector2 (lanes2 (fun a b => vMaxU a b)) d a b s

/-- VADDSAT: saturating signed sum (R187). -/
def execVaddsat (d a b : Reg) (s : State) : Result :=
  vectorSt2 2 (fun _ x y => clamp32 (x.toInt + y.toInt)) d a b s

/-- VSUBSAT: saturating signed difference (R187). -/
def execVsubsat (d a b : Reg) (s : State) : Result :=
  vectorSt2 2 (fun _ x y => clamp32 (x.toInt - y.toInt)) d a b s

/-! ### Major 0x19 (R188) -/

/-- VADD with an unsigned 7-bit immediate (R188). -/
def execVaddImm (d a : Reg) (i : BitVec 7) (s : State) : Result := vectorImm vAddVal d a i s

/-- VSUB with an unsigned 7-bit immediate (R188). -/
def execVsubImm (d a : Reg) (i : BitVec 7) (s : State) : Result := vectorImm vSubVal d a i s

/-- VMUL with an unsigned 7-bit immediate (R188). -/
def execVmulImm (d a : Reg) (i : BitVec 7) (s : State) : Result := vectorImm (lanes2 (fun a b => a * b)) d a i s

/-- VAND with an unsigned 7-bit immediate (R188). -/
def execVandImm (d a : Reg) (i : BitVec 7) (s : State) : Result := vectorImm (lanes2 (fun a b => a &&& b)) d a i s

/-- VOR with an unsigned 7-bit immediate (R188). -/
def execVorImm (d a : Reg) (i : BitVec 7) (s : State) : Result := vectorImm (lanes2 (fun a b => a ||| b)) d a i s

/-- VSHL with an unsigned 7-bit immediate (R188). -/
def execVshlImm (d a : Reg) (i : BitVec 7) (s : State) : Result := vectorImm (lanes2 (fun a b => a <<< shift32 b)) d a i s

/-- VSHR with an unsigned 7-bit immediate (R188). -/
def execVshrImm (d a : Reg) (i : BitVec 7) (s : State) : Result := vectorImm (lanes2 (fun a b => a >>> shift32 b)) d a i s

/-- VSRA with an unsigned 7-bit immediate (R188). -/
def execVsraImm (d a : Reg) (i : BitVec 7) (s : State) : Result := vectorImm (lanes2 (fun a b => a.sshiftRight (shift32 b))) d a i s

/-! ### Major 0x1A (R189) -/

/-- VMAD: product plus d (R189). -/
def execVmad (d a b : Reg) (s : State) : Result := vectorAcc (fun z x y => x * y + z) d a b s

/-- VABS: absolute value (R189). -/
def execVabs (d a : Reg) (s : State) : Result := vector1 vAbsW d a s

/-- VNEG: negation (R189). -/
def execVneg (d a : Reg) (s : State) : Result := vector1 (fun x => -x) d a s

/-- VCLZ: leading zeros (R189). -/
def execVclz (d a : Reg) (s : State) : Result := vector1 clz32 d a s

/-- VPOPC: set bits (R189). -/
def execVpopc (d a : Reg) (s : State) : Result := vector1 popc32 d a s

/-- VDOT4.i8: signed byte dot product added to d (R189). -/
def execVdot4I8 (d a b : Reg) (s : State) : Result := vectorAcc (dot4 (fun x => x.signExtend 32)) d a b s

/-- VDOT4.n8: unsigned byte dot product added to d (R189). -/
def execVdot4N8 (d a b : Reg) (s : State) : Result := vectorAcc (dot4 (fun x => x.setWidth 32)) d a b s

/-- VCMP.cc: mask of the active lanes whose condition holds (R190). -/
def execVcmp (d a b : Reg) (f : BitVec 4) (s : State) : Result := vectorMask 2 (condition f) d a b s

/-! ### Majors 0x1C to 0x1F (R191 to R194) -/

/-- VFADD: the rounded sum (R191). -/
def execVfadd (d a b : Reg) (s : State) : Result := vectorSt2 4 (fun fm x y => fadd (fmMode fm) x y) d a b s

/-- VFSUB: the rounded difference (R191); a NaN operand gives the canonical NaN whichever sign it has (R96). -/
def execVfsub (d a b : Reg) (s : State) : Result :=
  vectorSt2 4 (fun fm x y => fadd (fmMode fm) x (y ^^^ 0x80000000#32)) d a b s

/-- VFMUL: the rounded product (R191). -/
def execVfmul (d a b : Reg) (s : State) : Result := vectorSt2 4 (fun fm x y => fmul (fmMode fm) x y) d a b s

/-- VFMIN: minimum under R97 (R191). -/
def execVfmin (d a b : Reg) (s : State) : Result := vectorSt2 4 (fun _ x y => fminmax false x y) d a b s

/-- VFMAX: maximum under R97 (R191). -/
def execVfmax (d a b : Reg) (s : State) : Result := vectorSt2 4 (fun _ x y => fminmax true x y) d a b s

/-- VFCOPYSIGN: a with b's sign bit (R191). -/
def execVfcopysign (d a b : Reg) (s : State) : Result :=
  vectorSt2 4 (fun _ x y => ((x &&& 0x7FFFFFFF#32) ||| (y &&& 0x80000000#32), 0)) d a b s

/-- VFMA: a × b + d, rounded once (R192). -/
def execVfma (d a b : Reg) (s : State) : Result := vectorFma false false d a b s

/-- VFMS: a × b − d, rounded once (R192). -/
def execVfms (d a b : Reg) (s : State) : Result := vectorFma false true d a b s

/-- VFNMA: −(a × b) + d, rounded once (R192). -/
def execVfnma (d a b : Reg) (s : State) : Result := vectorFma true false d a b s

/-- VFCMP.cc: mask of the active lanes whose condition holds; no status bit (R193). -/
def execVfcmp (d a b : Reg) (f : BitVec 4) (s : State) : Result := vectorMask 4 (fcondition f) d a b s

/-- VFRCP: reciprocal of R101 (R194). -/
def execVfrcp (d a : Reg) (s : State) : Result := vectorSt1 8 (fun _ x => frcp x) d a s

/-- VFRSQ: reciprocal square root of R101 (R194). -/
def execVfrsq (d a : Reg) (s : State) : Result := vectorSt1 8 (fun _ x => frsq x) d a s

/-- VFSQRT: square root of R101 (R194). -/
def execVfsqrt (d a : Reg) (s : State) : Result := vectorSt1 8 (fun _ x => fsqrt x) d a s

/-- VFEXP2: 2 to the power a of R101 (R194). -/
def execVfexp2 (d a : Reg) (s : State) : Result := vectorSt1 8 (fun _ x => fexp2 x) d a s

/-- VFLOG2: base-2 logarithm of R101 (R194). -/
def execVflog2 (d a : Reg) (s : State) : Result := vectorSt1 8 (fun _ x => flog2 x) d a s

/-- VFTANH: hyperbolic tangent of R101 (R194). -/
def execVftanh (d a : Reg) (s : State) : Result := vectorSt1 8 (fun _ x => ftanh x) d a s

/-- VFSIG: logistic sigmoid of R101 (R194). -/
def execVfsig (d a : Reg) (s : State) : Result := vectorSt1 8 (fun _ x => fsig x) d a s

/-- VFABS: bit 31 cleared (R194). -/
def execVfabs (d a : Reg) (s : State) : Result := vectorSt1 4 (fun _ x => (x &&& 0x7FFFFFFF#32, 0)) d a s

/-- VFNEG: bit 31 inverted (R194). -/
def execVfneg (d a : Reg) (s : State) : Result := vectorSt1 4 (fun _ x => (x ^^^ 0x80000000#32, 0)) d a s

/-! ### Major 0x20 (R196) -/

/-- VCVT: x is the source format and y the destination; rounding by the rm field r, overflow by fm.SAT (R196). -/
def execVcvt (d a : Reg) (x y : BitVec 4) (r : BitVec 2) (s : State) : Result :=
  vectorSt1 4 (fun fm u => convert (fmtOf x.toNat) (fmtOf y.toNat) (modeOf r.toNat) (fmSat fm) u) d a s

/-! ### Majors 0x21 to 0x23 (R197 to R199) -/

/-- VPACK: earlier elements shifted up, b's low element inserted (R197). -/
def execVpack (d a b : Reg) (w : BitVec 3) (s : State) : Result :=
  vector2 (lanes2 (fun x y => (x <<< packWidth w) ||| lowBits (packWidth w) y)) d a b s

/-- VUNPACK: element k, zero-extended (R197). -/
def execVunpack (d a : Reg) (k : BitVec 6) (w : BitVec 3) (s : State) : Result :=
  vector1 (fun x => lowBits (packWidth w) (x >>> (packWidth w * k.toNat))) d a s

/-- VSEL: a where the scalar mask has a one, else b; the mask counts as a vector operand for the tag (R198). -/
def execVsel (d a b : Reg) (x : BitVec 4) (s : State) : Result :=
  s.onCur (fun i c =>
    let m : Word := (c.rdS i (x.setWidth 6)).setWidth 32
    let u := c.rdV i a
    let v := c.rdV i b
    let f := fun (l : Nat) => if active m l then u.lane l else v.lane l
    c.wrV i 2 d (if u.isUniform && v.isUniform && (m == 0#32 || m == BitVec.allOnes 32) then .uni (f 0) else .ofFn f))

/-- VSHUF: each lane reads the lane of a that b names; general (R199). -/
def execVshuf (d a b : Reg) (s : State) : Result :=
  vector2 (fun x y => .ofFn (fun l => x.lane (shift32 (y.lane l)))) d a b s

/-- VBCAST: lane k of a (R199). -/
def execVbcast (d a : Reg) (k : BitVec 6) (s : State) : Result :=
  s.onCur (fun i c =>
    let x := c.rdV i a
    c.wrV i 2 d (match x with | .uni v => .uni v | _ => .ofFn (fun _ => x.lane k.toNat)))

/-- VLANEID: the lane number, affine (R199). -/
def execVlaneid (d : Reg) (s : State) : Result := s.onCur (fun i c => c.wrV i 2 d (.aff 0 1))

/-- VAFF: A + l × S from uniform registers, affine (R199). -/
def execVaff (d a b : Reg) (s : State) : Result :=
  s.onCur (fun i c => c.wrV i 2 d (.aff ((c.rdV i a).lane 0) ((c.rdV i b).lane 0)))

/-- VAFF with immediates, affine (R199). -/
def execVaffImm (d : Reg) (i j : BitVec 6) (s : State) : Result :=
  s.onCur (fun k c => c.wrV k 2 d (.aff (i.signExtend 32) (j.signExtend 32)))

/-! ### Major 0x24 (R200, R201) -/

/-- An operation of R200 with its status bits. -/
def combine (mode : Mode) (op : Nat) (u w : Word) : Word × BitVec 7 :=
  match op with
  | 0 => (u + w, 0)
  | 1 => (vMinS u w, 0)
  | 2 => (vMaxS u w, 0)
  | 3 => (vMinU u w, 0)
  | 4 => (vMaxU u w, 0)
  | 5 => (u &&& w, 0)
  | 6 => (u ||| w, 0)
  | 7 => (u ^^^ w, 0)
  | 8 => fadd mode u w
  | 9 => fminmax false u w
  | _ => fminmax true u w

/-- The identity of an operation (R200). -/
def identity (op : Nat) : Word :=
  match op with
  | 1 => 0x7FFFFFFF#32
  | 2 => 0x80000000#32
  | 3 | 5 => 0xFFFFFFFF#32
  | 9 => 0x7F800000#32
  | 10 => 0xFF800000#32
  | _ => 0#32

/-- comb of R200, where none stands for no value; the status bits gather. -/
def comb (mode : Mode) (op : Nat) (u w : Option Word × BitVec 7) : Option Word × BitVec 7 :=
  match u.1, w.1 with
  | none, y => (y, u.2 ||| w.2)
  | x, none => (x, u.2 ||| w.2)
  | some x, some y => (some (combine mode op x y).1, u.2 ||| w.2 ||| (combine mode op x y).2)

/-- One level of the reduction tree: neighbours combine (R200). -/
def combPairs (mode : Mode) (op : Nat) : List (Option Word × BitVec 7) → List (Option Word × BitVec 7)
  | u :: w :: xs => comb mode op u w :: combPairs mode op xs
  | xs => xs

/-- The reduction of the active lanes over the five levels of the tree (R200). -/
def reduce (mode : Mode) (op : Nat) (em : Word) (x : VVal) : Option Word × BitVec 7 :=
  let leaves := (List.range 32).map (fun l => (if active em l then some (x.lane l) else none, (0#7)))
  ((List.range 5).foldl (fun xs _ => combPairs mode op xs) leaves).headD (none, 0)

/-- The scan over the active lanes in ascending order: lane values and status bits (R200). -/
def scan (mode : Mode) (op : Nat) (inclusive : Bool) (x : VVal) :
    List Nat → Option Word × BitVec 7 → List (Nat × Word) × BitVec 7
  | [], acc => ([], acc.2)
  | l :: ls, acc =>
    let acc1 := comb mode op acc (some (x.lane l), 0)
    let r := scan mode op inclusive x ls acc1
    ((l, if inclusive then acc1.1.getD 0 else acc.1.getD (identity op)) :: r.1, r.2)

/-- The latency of a reduction or scan (R185). -/
def reduceLatency (op : Nat) : Nat := if 8 ≤ op then 4 else 2

/-- VREDUCE: the active lanes combined in the fixed tree order (R200). -/
def execVreduce (d a : Reg) (p : BitVec 6) (s : State) : Result :=
  s.onCur (fun i c =>
    let x := c.rdV i a
    let r := reduce (fmMode i.fm) p.toNat i.em x
    let v := r.1.getD 0
    (c.wrV i (reduceLatency p.toNat) d (if x.isUniform then .uni v else .ofFn (fun _ => v))).setSt r.2)

/-- A scan word (R200); its result is general. -/
def scanWord (inclusive : Bool) (d a : Reg) (p : BitVec 6) (s : State) : Result :=
  s.onCur (fun i c =>
    let r := scan (fmMode i.fm) p.toNat inclusive (c.rdV i a) (lanesOf i.em) (none, 0)
    (c.wrV i (reduceLatency p.toNat) d (.ofFn (fun l => (r.1.lookup l).getD 0))).setSt r.2)

/-- VSCAN inclusive (R200). -/
def execVscanInclusive (d a : Reg) (p : BitVec 6) (s : State) : Result := scanWord true d a p s

/-- VSCAN exclusive (R200). -/
def execVscanExclusive (d a : Reg) (p : BitVec 6) (s : State) : Result := scanWord false d a p s

/-- BALLOT: mask of the active lanes whose word is not 0 (R201). -/
def execBallot (d a : Reg) (s : State) : Result := vectorMask 2 (fun x _ => x != 0#32) d a a s

/-! ### Majors 0x25 and 0x26 (R202, R203) -/

/-- VRNG: outputs of the counter generator; the result is general (R202). -/
def execVrng (d a b : Reg) (s : State) : Result :=
  s.onCur (fun i c =>
    let base : BitVec 128 := c.rdS i (b + 1) ++ c.rdS i b
    let key := c.rdS i (b + 2)
    let x := c.rdV i a
    c.wrV i 8 d (.ofFn (fun l => grx base (x.lane l) key)))

/-- VMOVS: scalar bits 31:0 to the active lanes (R203). -/
def execVmovs (d a : Reg) (s : State) : Result :=
  s.onCur (fun i c => c.wrV i 2 d (.uni ((c.rdS i a).setWidth 32)))

/-- SMOVV: lane k to a scalar register, whatever em holds (R203). -/
def execSmovv (d a : Reg) (k : BitVec 6) (s : State) : Result :=
  s.onCur (fun i c => c.wrS i 2 d (((c.rdV i a).lane k.toNat).setWidth 64))

end Sys2Proof.Machine
end

