-- ==== Sys2Proof/Machine/Far.lean ====
section
/-! DEFINITION. The engines of far accesses (R114 to R118): issuing, checking lane by lane (R352), the merging windows,
the coalescing buffers, performing in the orders of the forbidden shapes (R133 to R142), rollback and parking (R343,
R355, R403). -/

namespace Sys2Proof.Machine

/-! ### What a far word does -/

/-- Access size in bytes of a far or scratchpad word (R208 to R212). -/
def farSize : Instr → Nat
  | .ldgN16 .. => 2
  | .ldgN8 .. => 1
  | .stg16 .. => 2
  | .stg8 .. => 1
  | .lds _ _ _ z => ldsSize z
  | _ => 4

/-- Whether the word is a load. -/
def isLoad : Instr → Bool
  | .ldg .. => true
  | .ldgN16 .. => true
  | .ldgN8 .. => true
  | .poll .. => true
  | .ldsx .. => true
  | .lds .. => true
  | _ => false

/-- Whether the word is a store. -/
def isStore : Instr → Bool
  | .stg .. => true
  | .stg16 .. => true
  | .stg8 .. => true
  | .stsx .. => true
  | _ => false

/-- Whether the word is a read-modify-write. -/
def isRmw : Instr → Bool
  | .atom .. => true
  | .atoms .. => true
  | _ => false

/-- Whether the word accesses scratchpad, without translation (R352). -/
def inScratch : Instr → Bool
  | .ldsx .. => true
  | .stsx .. => true
  | .atoms .. => true
  | .lds .. => true
  | _ => false

/-- Whether the word's accesses go lane by lane through the performing rules below. -/
def laneWise (x : Instr) : Bool := isLoad x || isStore x || isRmw x

/-- What the word needs of a translation (R123). -/
def farNeed (x : Instr) (lvl : BitVec 2) : Need :=
  if isLoad x then needR lvl else if isStore x then needW lvl else needRW lvl

/-- Orderings of a word (R127): acquire and release bits, as the O field gives them (R149). -/
def isAcq (o : BitVec 2) : Bool := o.getLsbD 0
/-- The release bit of an ordering. -/
def isRel (o : BitVec 2) : Bool := o.getLsbD 1

/-- The new word of a read-modify-write, from old word m, operand x and, for CAS, new value y (R209). -/
def rmw (op : Nat) (m x y : Word) : Word :=
  match op with
  | 0 => m + x
  | 1 => m - x
  | 2 => vMinS m x
  | 3 => vMaxS m x
  | 4 => vMinU m x
  | 5 => vMaxU m x
  | 6 => m &&& x
  | 7 => m ||| x
  | 8 => m ^^^ x
  | 9 => x
  | 10 => if m = x then y else m
  | _ => (fadd .rne m x).1

/-- The operation of a read-modify-write word in the numbering of R209 (R212). -/
def rmwOp : Instr → Nat
  | .atoms _ _ p _ _ _ => p.toNat
  | .atom _ _ _ _ _ p => [0, 11, 2, 3, 6, 7, 9, 10].getD p.toNat 0
  | _ => 0

/-! ### Issue -/

/-- The operation that the word at issue hands to an engine, without its addresses. -/
def State.newFar (s : State) (i : Issue) (c : Ctx) (x : Instr) (k : Cls) : FarOp :=
  { id := i.stamp, unit := s.cur.turn.unit, pid := (c.path i.slotB).pid, instr := x, pos := s.cur.pos, mstep := s.cur.mstep,
    after := s.cur.after, afterStep := s.cur.afterStep, word := s.cur.word, cls := k, lanes := i.em, todo := i.em, va := [],
    wild := 0, pa := [], hits := [], data := [], data2 := [], old := [], dest := none, rel := false, acq := false, scope := 1,
    level := (c.path i.slotB).plvl, checked := false, done := false, moving := false, tile := [], rows := 0 }

/-- Hand an operation to its engine: its translation ends at once when it needs none (R124), and after an open time
otherwise (R402). An acquire holds the path's further memory words (R207). -/
def State.submit (s : State) (slotB : Bool) (f : FarOp) (atOnce : Bool) : State :=
  let s1 := { s with fars := s.fars ++ [f] }
  let s2 := if f.acq then s1.onCtx f.unit (fun c => c.onPath slotB (fun p => { p with acq := some f.id })) else s1
  let e : Event := { kind := .translationWalkComplete, unit := f.unit, id := f.id }
  if atOnce then s2.soon e else s2.later e

/-- The physical address that stands for a lane whose translation register denies the access. -/
def denied : Nat := 2 ^ 52

/-- Whether lane `l` bypasses the TLB (R124): affine offsets are tested at lanes 0 and 31 alone. -/
def Tx.bypasses (t : Tx) (size : Nat) (x : VVal) (l : Nat) : Bool :=
  let ok (k : Nat) : Bool := decide (0 ≤ (x.lane k).toInt) && decide ((x.lane k).toInt + (size : Int) ≤ (t.limit.toNat : Int))
  match x with
  | .aff _ _ => ok 0 && ok 31
  | _ => ok l

/-- The physical address of a bypassing lane, under the register's permissions (R124): check 7 of R352 is taken from PERM, which
holds R, W and X. -/
def Tx.direct (t : Tx) (n : Need) (o : Int) : Nat :=
  if (!n.r || t.r) && (!n.w || t.w) then (((t.frame.toNat : Int) + o) % 2 ^ 52).toNat else denied

/-- A word of R211 or R212: one access for each active lane at BASE(tx) + sext(a, 32). -/
def farWord (x : Instr) (k : Cls) (t : BitVec 3) (a : Reg) (o e : BitVec 2) (dest : Option Nat) (data data2 : Option Reg)
    (s : State) : Result :=
  s.withCur (fun i c =>
    if i.em = 0#32 then s
    else
      let tx := c.tx[t.toNat]?.getD Tx.zero
      let off := c.rdV i a
      let n := farNeed x (c.path i.slotB).plvl
      let addr (l : Nat) : Int := farAddr tx.base (off.lane l)
      let by_ (l : Nat) : Bool := tx.bypasses (farSize x) off l
      let lanes := fun (r : Option Reg) => match r with | some r => (List.range 32).map (fun l => (c.rdV i r).lane l) | none => []
      let f : FarOp :=
        { s.newFar i c x k with
          va := (List.range 32).map (fun l => BitVec.ofInt 64 (addr l))
          wild := maskOf ((List.range 32).filter (fun l => decide (addr l < 0) || decide ((2 ^ 64 : Int) ≤ addr l)))
          pa := (List.range 32).map (fun l => if by_ l then some (tx.direct n (off.lane l).toInt) else none)
          data := lanes data
          data2 := lanes data2
          dest := dest
          rel := isRel o
          acq := isAcq o
          scope := e }
      let s1 := if f.rel && decide (2 ≤ e.toNat) then s.drainUnit f.unit else s
      s1.submit i.slotB f ((lanesOf i.em).all by_))

/-- The destination of a load, when it names a register. -/
def destOf (d : Reg) : Option Nat := if d.toNat < 56 then some d.toNat else none

/-- LDG, 32-bit (R211). -/
def execLdg (d a : Reg) (t : BitVec 3) (o e : BitVec 2) (s : State) : Result :=
  farWord (.ldg d a t o e) .g t a o e (destOf d) none none s

/-- LDG, halfword, zero-extended (R211). -/
def execLdgN16 (d a : Reg) (t : BitVec 3) (o e : BitVec 2) (s : State) : Result :=
  farWord (.ldgN16 d a t o e) .g t a o e (destOf d) none none s

/-- LDG, byte, zero-extended (R211). -/
def execLdgN8 (d a : Reg) (t : BitVec 3) (o e : BitVec 2) (s : State) : Result :=
  farWord (.ldgN8 d a t o e) .g t a o e (destOf d) none none s

/-- STG, 32-bit (R211). -/
def execStg (d a : Reg) (t : BitVec 3) (o e : BitVec 2) (s : State) : Result :=
  farWord (.stg d a t o e) .g t a o e none (some d) none s

/-- STG, halfword (R211). -/
def execStg16 (d a : Reg) (t : BitVec 3) (o e : BitVec 2) (s : State) : Result :=
  farWord (.stg16 d a t o e) .g t a o e none (some d) none s

/-- STG, byte (R211). -/
def execStg8 (d a : Reg) (t : BitVec 3) (o e : BitVec 2) (s : State) : Result :=
  farWord (.stg8 d a t o e) .g t a o e none (some d) none s

/-- The word at issue demotes its path, once its group has issued (R79). -/
def State.demoteAfter (s : State) : State := { s with cur := { s.cur with demote := true } }

/-- POLL: LDG without a merging window; it demotes its path at issue, also with em = 0 (R79, R211). -/
def execPoll (d a : Reg) (t : BitVec 3) (o e : BitVec 2) (s : State) : Result :=
  farWord (.poll d a t o e) .g t a o e (destOf d) none none s.demoteAfter

/-- ATOM (R212); CAS takes its new value from d + 1. -/
def execAtom (d a : Reg) (t : BitVec 3) (o e : BitVec 2) (p : BitVec 3) (s : State) : Result :=
  farWord (.atom d a t o e p) .a t a o e (destOf d) (some d) (if p = 7#3 then some (d + 1) else none) s

/-! ### Checking (R352) -/

/-- The bytes of a held entry of a troupe's coalescing buffers. -/
def State.heldEntry (s : State) (t : Troupe) (line : Nat) : Option (Nat × Entry) :=
  t.quads.findSome? (fun q =>
    ((s.quad (quadKey t.core q)).entries.find? (fun e => decide (e.line = line))).map (fun (e : Entry) => (quadKey t.core q, e)))

/-- The byte that a write held for a page move has at an address, for a load of the troupe (R125): the newest one. It is served
until the write has performed (R133). -/
def State.movingByte (s : State) (k : Nat) (a : Nat) : Option Byte :=
  (s.fars.reverse.filter (fun f => !f.shown.isEmpty && decide ((s.troupeOf f.unit).map (fun (t : Nat × Troupe) => t.1) = some k))).findSome?
    (fun f => f.shown.lookup a)

/-- The bytes that the unperformed lanes of a store hold, of the highest lane where lanes overlap (R125, R128). -/
def FarOp.heldBytes (f : FarOp) : List (Nat × Byte) :=
  if !isStore f.instr || inScratch f.instr then []
  else (lanesOf f.todo).reverse.flatMap (fun l =>
    match f.pa[l]?.getD none with
    | none => []
    | some p => (List.range (farSize f.instr)).map (fun j => (p + j, BitVec.ofNat 8 ((f.data.getD l 0).toNat / 256 ^ j))))

/-- The physical lines of the unperformed lanes. -/
def FarOp.heldLines (f : FarOp) : List Nat := ((lanesOf f.todo).filterMap (fun l => (f.pa[l]?.getD none).map (fun p => p / 64))).dedup

/-- The byte that a troupe sees at a physical address: a held store, the coalescing buffers, or the home (R118, R125). -/
def State.troupeByte (s : State) (k : Nat) (t : Troupe) (a : Nat) : Byte :=
  match s.movingByte k a with
  | some b => b
  | none =>
    match s.heldEntry t (a / 64) with
    | some (_, e) => (e.bytes.lookup (a % 64)).getD (s.mem.read a)
    | none => s.mem.read a

/-- Whether some byte of an access comes from a poisoned line of the home (R361). -/
def State.homeBad (s : State) (t : Troupe) (a n : Nat) : Bool :=
  match s.heldEntry t (a / 64) with
  | some (_, e) => e.bad || (s.lineBad a && !((List.range n).all (fun j => (e.bytes.lookup (a % 64 + j)).isSome)))
  | none => s.lineBad a

/-- Whether a scratchpad access touches a poisoned word (R360). -/
def State.scratchBad (s : State) (a n : Nat) : Bool := (List.range n).any (fun j => s.scratchPoison.contains ((a + j) / 4))

/-- The checks of R352 on one lane, in their order: the physical or device scratchpad address, or the failure. -/
def State.laneCheck (s : State) (f : FarOp) (l : Nat) : State × Option Hit × Except Xerr (Nat × Bool) :=
  let va := (f.va.getD l 0).toNat
  let size := farSize f.instr
  if inScratch f.instr then
    if !isStore f.instr && s.scratchBad va size then (s, none, .error { cause := .poisoned, gpa := 0 })
    else (s, none, .ok (va, false))
  else
    -- a wild address lies less than 2^31 below 0 or above 2^64
    let a : Int := if active f.wild l then (if 2 ^ 63 ≤ va then (va : Int) - 2 ^ 64 else (va : Int) + 2 ^ 64) else va
    match addressCheck a size with
    | some c => (s, none, .error { cause := c, gpa := 0 })
    | none =>
      let reads (s1 : State) (h : Option Hit) (pa : Nat) (mv : Bool) : State × Option Hit × Except Xerr (Nat × Bool) :=
        match s1.troupeOf f.unit with
        | some (_, t) =>
          if !isStore f.instr && (s1.homeBad t pa size || f.spoiled.contains (pa / 64)) then (s1, h, .error { cause := .poisoned, gpa := 0 }) else (s1, h, .ok (pa, mv))
        | none => (s1, h, .ok (pa, mv))
      match f.pa[l]?.getD none with
      | some pa =>
        if pa = denied ∨ !s.backed pa then (s, none, .error { cause := .protFault, gpa := 0 })
        else reads s (f.hits[l]?.getD none) pa (s.movingAt pa && !isLoad f.instr)
      | none =>
        match s.access (s.vdiOf f.unit) (farNeed f.instr f.level) va with
        | (s1, .error e) => (s1, none, .error e)
        | (s1, .ok x) =>
          reads s1 (some { one := x.one.entry, two := x.two.entry, w1 := x.one.word, w2 := x.two.word })
            x.pa (x.two.moving && !isLoad f.instr)

/-- Check the lanes of an operation in ascending order: the addresses found, the lanes that fail, and whether a write
is held for a page move (R125). -/
def State.checkLanes (f : FarOp) : List Nat → State → State × FarOp × List (Nat × Xerr) × Bool
  | [], s => (s, f, [], false)
  | l :: ls, s =>
    let set (xs : List (Option Nat)) (v : Option Nat) : List (Option Nat) := (List.range 32).map (fun k => if k = l then v else xs[k]?.getD none)
    match s.laneCheck f l with
    | (s1, h, .ok (pa, mv)) =>
      let g := { f with pa := set f.pa (some pa),
                        hits := (List.range 32).map (fun k => if k = l then h else f.hits[k]?.getD none) }
      match State.checkLanes g ls s1 with
      | (s2, g2, bad, mv2) => (s2, g2, bad, mv || mv2)
    | (s1, _, .error e) =>
      match State.checkLanes f ls s1 with
      | (s2, g2, bad, mv2) => (s2, g2, (l, e) :: bad, mv2)

/-! ### On to the home (R117) -/

/-- The lines that the lanes of a mask name, each with its lanes. -/
def FarOp.byLine (f : FarOp) (m : Word) : List (Nat × Word) :=
  let at_ (l : Nat) : Option Nat := (f.pa[l]?.getD none).map (fun p => p / 64)
  (((lanesOf m).filterMap at_).dedup).map (fun k => (k, maskOf ((lanesOf m).filter (fun l => decide (at_ l = some k)))))

/-- The event by which lanes of an operation perform. -/
def FarOp.performEvent (f : FarOp) (m : Word) : Event :=
  { kind := if isLoad f.instr then .farLoadReturn else .farStorePerform, unit := f.unit, id := f.id, word := m }

/-- Whether the Usher gathers the lane requests of a word (R117). -/
def usherWord : Instr → Bool
  | .ldg .. => true
  | .ldgN16 .. => true
  | .ldgN8 .. => true
  | .stg .. => true
  | .stg16 .. => true
  | .stg8 .. => true
  | .poll .. => true
  | _ => false

/-- The lane requests that the Usher of a quadrant holds, until they are served (R117). -/
def State.requests (s : State) (k : Nat) : Nat :=
  ((s.fars.filter (fun f => decide (f.unit.quadKey = k) && usherWord f.instr && (f.checked || f.moving))).map (fun f => (lanesOf f.todo).length)).sum

/-- The requests of an operation join the merging windows of its quadrant (R117): the first request for a line opens a
window for 64 cycles. -/
def State.joinWindows (s : State) (f : FarOp) : State :=
  let k := f.unit.quadKey
  (f.byLine f.todo).foldl (fun (s1 : State) (lm : Nat × Word) =>
    let q := s1.quad k
    let mine := (lanesOf lm.2).map (fun l => (f.id, l))
    let joins (w : Window) : Bool := decide (w.line = lm.1) && decide (s1.cycle < w.opened + 64)
    if q.windows.any joins then
      s1.setQuad k { q with windows := q.windows.map (fun (w : Window) => if joins w then { w with reqs := w.reqs ++ mine } else w) }
    else
      (s1.setQuad k { q with windows := q.windows ++ [{ line := lm.1, opened := s1.cycle, reqs := mine }] }).atCycle (s1.cycle + 64)
        { kind := .usherWindowClose, a := k, b := lm.1 }) s

/-- At 512 requests of an Usher every merging window closes (R117). -/
def State.closeFull (s : State) (k : Nat) : State :=
  if 512 ≤ s.requests k then
    (s.quad k).windows.foldl (fun (s2 : State) (w : Window) => s2.soon { kind := .usherWindowClose, a := k, b := w.line, flag := true }) s
  else s

/-- An operation that has passed its checks goes on to the engine that performs it. -/
def State.route (s : State) (f : FarOp) : State :=
  let perLine (s1 : State) : State := (f.byLine f.todo).foldl (fun (s2 : State) (lm : Nat × Word) => s2.later (f.performEvent lm.2)) s1
  let full (s1 : State) : State := s1.closeFull f.unit.quadKey
  match f.instr with
  | .ldg .. => full (s.joinWindows f)
  | .ldgN16 .. => full (s.joinWindows f)
  | .ldgN8 .. => full (s.joinWindows f)
  | .poll .. => full ((perLine s).count (s.vdiOf f.unit) 4 (f.byLine f.todo).length)
  | .atom .. => (perLine s).count (s.vdiOf f.unit) 4 (f.byLine f.todo).length
  | .tld .. => s.later { kind := .tileCopyComplete, unit := f.unit, id := f.id }
  | .tst .. => s.later { kind := .tileCopyComplete, unit := f.unit, id := f.id }
  | _ =>
    if isStore f.instr && !inScratch f.instr then full (if 2 ≤ f.scope.toNat then s.joinWindows f else perLine s) else perLine s

/-- Whether an operation's requests fit among those of its Usher (R117). -/
def State.fits (s : State) (f : FarOp) : Bool :=
  !usherWord f.instr || decide (s.requests f.unit.quadKey + (lanesOf f.todo).length ≤ 512)

/-- An operation whose lanes have all passed: it is checked (R116), or held for a page move, in its place on its lines (R125). -/
def State.accept (s : State) (f : FarOp) (mv : Bool) : State :=
  let g := { f with checked := !mv, moving := mv, stuck := false, shown := if mv then f.heldBytes else f.shown,
                    lines := if mv then f.heldLines else f.lines }
  let s1 := s.onFar f.id (fun _ => g)
  if mv then s1 else s1.route g

/-- A merging window closes: its line request leaves, and its lanes perform after an open time (R117, R256). -/
def execUsherWindowClose (s : State) : Result :=
  let k := s.ev.a
  let q := s.quad k
  match q.windows.find? (fun w => decide (w.line = s.ev.b) && (s.ev.flag || decide (w.opened + 64 ≤ s.cycle))) with
  | none => .next s
  | some w =>
    let s1 := s.setQuad k { q with windows := q.windows.erase w }
    let ids := (w.reqs.map (fun r => r.1)).dedup
    -- one line request: what it serves performs at one time
    let served := s1.cycle + 1 + Config.latency s1.fresh
    let s2 := ids.foldl (fun (s2 : State) id =>
      match s2.fars.find? (fun f => decide (f.id = id)) with
      | none => s2
      | some f => s2.atCycle served (f.performEvent (maskOf ((w.reqs.filter (fun r => decide (r.1 = id))).map (fun r => r.2))))) { s1 with fresh := s1.fresh + 1 }
    .next (s2.count (((s.troupeAt (k / 4) (k % 4)).map (fun (t : Nat × Troupe) => t.2.vdi)).getD 0) 4 1)

/-! ### Rollback and parking (R343, R355, R403) -/

/-- Put back what an undo-log entry saved (R355): of a vector register the lanes that the write held, and the whole
value when no other lane has changed since. -/
def Ctx.restore (c : Ctx) (e : Undo) : Ctx :=
  match e.saved with
  | .s n v => { c with s := c.s.setIfInBounds n v, pend := c.pend.filter (fun p => match p with | .s k .. => decide (k ≠ n) | .v .. => true) }
  | .v n v =>
    let cur := c.vreg n
    let same := (List.range 32).all (fun l => active e.em l || decide (cur.lane l = v.lane l))
    { c with v := c.v.setIfInBounds n (if same then v else .ofFn (fun l => if active e.em l then v.lane l else cur.lane l)),
             pend := settleLanes n e.em c.pend }
  | .tx n v => { c with tx := c.tx.setIfInBounds n v }
  | .h n v => { c with h := c.h.setIfInBounds n v }
  | .em _ => c
  | .fm _ => c
  | .cf _ => c
  | .hq _ _ => c
  | .ret n l ks w =>
    let now := c.levelOf n
    let c1 := if now.busy = none then c.setLevel (BitVec.ofNat 2 n) { now with busy := l.busy, mstep := l.mstep } else c
    { c1 with parked := c1.parked ++ ks, whole := w ++ c1.whole.filter (fun x => x.1 ≠ n) }

/-- What an entry saved of the cue stream's handles (R216). -/
def State.restoreCue (s : State) (u : UnitId) (e : Undo) : State :=
  match e.saved with
  | .hq n v => s.onCtx (((s.troupeOf u).map (fun (t : Nat × Troupe) => t.2.cue)).getD u) (fun c => { c with h := c.h.setIfInBounds n v })
  | _ => s

/-- What an entry saved of its path. -/
def Path.restore (p : Path) (e : Undo) : Path :=
  match e.saved with
  | .em v => { p with em := v }
  | .fm v => { p with fm := v }
  | .cf v => { p with cf := v }
  | _ => p

/-- The path with an identity, in a slot or spilled, with the state that its stack entry keeps. -/
def State.findPath (s : State) (u : UnitId) (pid : Nat) : Option Path :=
  match s.ctxs.find u with
  | none => none
  | some c =>
    if c.a.live ∧ c.a.pid = pid then some c.a
    else if c.b.live ∧ c.b.pid = pid then some c.b
    else (c.spilled.find? (fun x => decide (x.2.pid = pid) && decide ((s.stack u x.1).kind = 2))).map (fun (x : Nat × Path) =>
      let e := s.stack u x.1
      { x.2 with live := true, pc := e.pc, em := e.em, fm := e.fm, cf := e.cf, plvl := e.plvl, parent := e.parent, win := [] })

/-- Replace the path with an identity, in a slot or spilled. -/
def State.putPath (s : State) (u : UnitId) (p : Path) : State :=
  match s.ctxs.find u with
  | none => s
  | some c =>
    if c.a.live ∧ c.a.pid = p.pid then s.setCtx u { c with a := p }
    else if c.b.live ∧ c.b.pid = p.pid then s.setCtx u { c with b := p }
    else match c.spilled.find? (fun x => decide (x.2.pid = p.pid) && decide ((s.stack u x.1).kind = 2)) with
      | none => s
      | some (k, _) =>
        (s.setStack u k { s.stack u k with em := p.em, pc := p.pc, fm := p.fm, cf := p.cf, plvl := p.plvl, parent := p.parent }).setCtx u
          { c with spilled := c.spilled.map (fun (e : Nat × Path) => if e.1 = k then (k, p) else e) }

/-- Roll a path back to the issue of word `id` (R355): the entries made since are put back, newest first, the accesses
issued since are discarded, and so are the lanes that they had parked, which rejoin em. -/
def State.rollback (s : State) (u : UnitId) (pid id : Nat) : State :=
  match s.ctxs.find u, s.findPath u pid with
  | some c, some p =>
    let mine (e : Undo) : Bool := decide (e.pid = pid) && decide (id < e.stamp)
    let es := c.undo.filter mine
    let again := c.parked.filter (fun k => decide (k.pid = pid) && decide (k.level = 3) && decide (id < k.op.id))
    let runs := match p.runs with
      | r :: rest => if r.parked ≠ 0#32 ∧ again ≠ [] then rest else p.runs
      | [] => []
    -- an acquire that is rolled back to still holds the path (R207)
    let acq := match p.acq with | some k => if k ≤ id then some k else none | none => none
    let p0 : Path := { p with em := p.em ||| maskOf (again.map (fun k => k.lane)), runs := runs, held := none, also := [], acq := acq }
    let p1 : Path := es.foldl Path.restore p0
    let c1 := es.foldl Ctx.restore { c with undo := c.undo.filter (fun e => !mine e), parked := c.parked.filter (fun k => !again.contains k) }
    let s1 := es.foldl (fun (x : State) e => x.restoreCue u e) ((s.setCtx u c1).putPath u p1)
    { s1 with fars := s1.fars.filter (fun f => !(decide (f.unit = u) && decide (f.pid = pid) && decide (id < f.id) && !f.performed)) }
  | _, _ => s

/-- The SIZE field of a fault record (R250): a tile moves as 4-byte words (R128); of a word that names no access size it is open
(log entry 67). -/
def sizeField (f : FarOp) : Nat :=
  match f.instr with
  | .txl .. => (Config.wholeSize f.id).toNat
  | .nestLaunch _ => (Config.wholeSize f.id).toNat
  | .collPost .. => (Config.wholeSize f.id).toNat
  | .spawn .. => 3
  | x => Nat.log2 (farSize x)

/-- The MAJ field of a fault record (R250): a stagehand's instruction has no major, and the field is open (log entry 73). -/
def majorField (f : FarOp) : Nat :=
  match f.unit with
  | .rigger _ _ => (Config.recordMajor f.id).toNat
  | .striker _ _ => (Config.recordMajor f.id).toNat
  | _ => fMaj f.word

/-- The fault record of a lane (R250). -/
def faultRecord (f : FarOp) (l : Nat) (e : Xerr) : List Dword :=
  let x := f.instr
  let wr := if isStore x ∨ isRmw x then 1 else match x with | .tst .. => 1 | .tcopyOut .. => 1 | .nestBound .. => 1 | .spawn .. => 1 | _ => 0
  [BitVec.ofNat 64 (f.pos % 2 ^ 32 * 2 ^ 32 + wr * 2 ^ 20 + sizeField f * 2 ^ 16 + majorField f * 2 ^ 8 + e.cause.code),
   f.va.getD l 0, BitVec.ofNat 64 (if e.cause = .stage2Fault then e.gpa else 0),
   if isStore x ∨ isRmw x then (f.data.getD l 0 &&& BitVec.ofNat 32 (2 ^ (8 * farSize x) - 1)).setWidth 64 else 0]

/-- Lanes of an access fault (R343): the path is rolled back to its issue, the faulting lanes leave em and are parked
with their records, and the others run on from the word after it. -/
def State.park (s : State) (f : FarOp) (bad : List (Nat × Xerr)) : State :=
  let s1 := s.rollback f.unit f.pid f.id
  match s1.ctxs.find f.unit, s1.findPath f.unit f.pid with
  | some c, some p =>
    let m := maskOf (bad.map (fun b => b.1))
    let parks := bad.map (fun b =>
      let r := faultRecord f b.1 b.2
      ({ lane := b.1, level := 3, pid := f.pid, rec0 := r.getD 0 0, rec1 := r.getD 1 0, rec2 := r.getD 2 0, rec3 := r.getD 3 0,
         cause := b.2.cause, op := f } : Park))
    let free (l : Level) : Level := if p.plvl ≠ f.level ∧ l.busy = some p.pid then { l with busy := none } else l
    let c1 := { c with parked := c.parked ++ parks, sup := if f.level = 1#2 then c.sup else free c.sup, hyp := free c.hyp }
    let p1 : Path :=
      { p with em := p.em &&& ~~~ m, pc := f.after, mstep := f.afterStep, plvl := f.level, held := none, also := [], entry := none,
               delayed := false, readyAt := max p.readyAt (s.cycle + 1),
               runs := { plvl := f.level, parked := m, wait := 0, meet := none } :: p.runs }
    (s1.setCtx f.unit c1).putPath f.unit p1
  | _, _ => s1

/-- A whole-path fault (R403): the path is rolled back to the word, and enters its handler at once with the word's one
record. -/
def State.wholeFault (s : State) (f : FarOp) (va : Nat) (e : Xerr) : State :=
  let s1 := s.rollback f.unit f.pid f.id
  match s1.findPath f.unit f.pid with
  | none => s1
  | some p =>
    let g := { f with va := [BitVec.ofNat 64 va] }
    let s2 := (s1.putPath f.unit { p with plvl := f.level, held := none, also := [], pc := f.pos, mstep := f.mstep, readyAt := max p.readyAt (s.cycle + 1) })
    let r := faultRecord g 0 e
    match s2.ctxs.find f.unit with
    | none => s2
    | some c =>
      if c.a.live ∧ c.a.pid = f.pid then s2.castTrap f.unit false e.cause (f.word.setWidth 64) f.pos f.mstep p.em p.em r
      else if c.b.live ∧ c.b.pid = f.pid then s2.castTrap f.unit true e.cause (f.word.setWidth 64) f.pos f.mstep p.em p.em r
      else
        -- a spilled path halts its troupe at the hypervisor level, and else enters its handler when it has a slot
        if f.level = 2#2 then s2.haltUnit f.unit (.trapped f.unit e.cause (posDword f.pos f.mstep) (f.word.setWidth 64)) else
        let l := if f.level = 0#2 ∧ e.cause ≠ .stage2Fault then 1 else 2
        let tr : Trap := { level := l, cause := e.cause.code, tval := f.word.setWidth 64, epc := f.pos, mstep := f.mstep,
                           em := p.em, park := p.em, record := r }
        s2.putPath f.unit { p with plvl := f.level, held := none, also := [], pc := f.pos, mstep := f.mstep, entry := some tr }

/-! ### Events of the checks -/

/-- Whether an older far access of the cast is still unchecked: accesses pass the cast's checking point, and take their faults,
in issue order (R142, R355). -/
def State.olderUnchecked (s : State) (f : FarOp) : Bool :=
  s.fars.any (fun o => decide (o.unit = f.unit) && decide (o.id < f.id) && o.unperformed && !o.checked)

/-- A translation walk finishes (R124, R402): an access is checked lane by lane and goes on, or its faults are taken;
a TXL proceeds. A word whose requests do not fit waits in the memory pipe (R117). -/
def execTranslationWalkComplete (s : State) : Result :=
  match s.fars.find? (fun f => decide (f.id = s.ev.id)) with
  | none => .next (s.rouse s.ev.unit s.ev.id)
  | some f =>
    if f.checked || f.performed || !laneWise f.instr then .next s
    else if s.olderUnchecked f then .next (s.later s.ev)
    else if !s.fits f then .next ((s.onFar f.id (fun g => { g with stuck := true })).atCycle (s.cycle + 1) s.ev)
    else
      match State.checkLanes f (lanesOf f.todo) s with
      | (s1, g, [], mv) => .next (s1.accept g mv)
      | _ => .next { s with agenda := { kind := .farAccessFault, unit := f.unit, id := f.id } :: s.agenda }

/-- A far access faults in some lanes: they are parked, and the other lanes proceed (R343). -/
def execFarAccessFault (s : State) : Result :=
  match s.fars.find? (fun f => decide (f.id = s.ev.id)) with
  | none => .next s
  | some f =>
    if f.performed || !laneWise f.instr then .next s
    else
      match State.checkLanes f (lanesOf f.todo) s with
      | (s1, g, [], mv) => .next (s1.accept g mv)
      | (s1, g, bad, mv) =>
        let m := maskOf (bad.map (fun b => b.1))
        let h := { g with todo := g.todo &&& ~~~ m, lanes := g.lanes &&& ~~~ m }
        let s2 := (s1.onFar f.id (fun _ => h)).park f bad
        -- an atomic whose other lanes have been carried out returns their old words (R114)
        .next (if h.todo ≠ 0#32 then s2.accept h mv
          else if h.old = [] then s2.finishFar f.id
          else s2.later { kind := if inScratch f.instr then .remoteAtomsReturn else .atomResultReturn, unit := f.unit, id := f.id })

/-! ### Pages that move (R125) -/

/-- A physical address after the move of a page. -/
def relocate (base size new a : Nat) : Nat := if base ≤ a ∧ a < base + size then new + (a - base) else a

/-- What an operation in flight holds of a page that has moved: a held write is translated afresh, and anything else uses wholly
the new entry. -/
def FarOp.relocated (f : FarOp) (base size new : Nat) : FarOp :=
  let moved := relocate base size new
  let f1 := { f with shown := f.shown.map (fun (b : Nat × Byte) => (moved b.1, b.2)), lines := f.lines.map (fun l => moved (64 * l) / 64) }
  if f.moving then { f1 with moving := false, pa := [], hits := [], pages := [] }
  else if inScratch f.instr then f1
  else { f1 with pa := f.pa.map (fun (p : Option Nat) => p.map moved),
                 pages := f.pages.map (fun (p : Nat × Xlat) => (p.1, { p.2 with pa := moved p.2.pa })) }

/-- The system copy engine copies a page to its new frame, with the poison marks of its lines (R125, R361); what the buffers
hold of the page is performed before. -/
def State.copyPage (s : State) (base size new : Nat) : State :=
  let inPage (l : Nat) : Bool := decide (base ≤ 64 * l) && decide (64 * l < base + size)
  let s1 := s.troupes.foldl (fun (x : State) (t : Nat × Troupe) => x.drainWhere t.2 (fun e => inPage e.line)) s
  let cells := s1.mem.filter (fun (c : Host.Cell) => decide (base ≤ c.1) && decide (c.1 < base + size))
  let marks := (s1.poison.filter inPage).map (fun l => (new + (64 * l - base)) / 64)
  { s1 with mem := cells.foldl (fun (m : Memory) (c : Host.Cell) => m.write (new + (c.1 - base)) c.2) (s1.mem.clear new size),
            poison := (marks ++ s1.poison.filter (fun l => !(decide (new ≤ 64 * l) && decide (64 * l < new + size)))).dedup }

/-- The tx registers whose frame lies in a page no longer bypass (R124, R125). -/
def State.forgetFrames (s : State) (base size : Nat) : State :=
  { s with ctxs := s.ctxs.map (fun (x : UnitId × Ctx) =>
      (x.1, { x.2 with tx := x.2.tx.map (fun (t : Tx) => if base ≤ t.frame.toNat ∧ t.frame.toNat < base + size then { t with limit := 0 } else t) })) }

/-- The entries of a leaf at physical address `e` (R123): a 64 KiB or 32 MiB leaf stands in sixteen consecutive ones. -/
def leafEntries (e : Nat) (word : Dword) : List Nat :=
  if bits word.toNat 60 3 = 1 ∨ bits word.toNat 60 3 = 3 then (List.range 16).map (fun k => e - e % 128 + 8 * k) else [e]

/-- Write a leaf into its entries, each with the frame of its own part of the page (R123). -/
def State.putLeaf (s : State) (entries : List Nat) (leaf : Dword) : State :=
  let g := spanOf (if bits leaf.toNat 60 3 ≤ 1 then 0 else if bits leaf.toNat 60 3 ≤ 3 then 1 else 2)
  let frame := frameOf leaf.toNat
  let first := frame - frame % pageOf (bits leaf.toNat 60 3)
  let rest := leaf &&& ~~~ BitVec.ofNat 64 (2 ^ 52 - 2 ^ 12)
  { s with mem := (entries.zipIdx).foldl (fun (m : Memory) (x : Nat × Nat) =>
      m.putDword x.1 (if entries.length = 1 then leaf else rest ||| BitVec.ofNat 64 (first + x.2 * g))) s.mem }

/-- Whether a cached translation came from one of these entries. -/
def Tlb.fromLeaf (t : Tlb) (entries : List Nat) : Bool :=
  entries.contains t.one.entry || (match t.two with | some l => entries.contains l.entry | none => false)

/-- Proscenium ends a page move with one write of the leaf, in each of its entries, once the copy has run, and the cached entries go; held writes are
translated and checked afresh, in their order, and perform at the new frame (R125, R354). -/
def execHeldWriteRetranslate (s : State) : Result :=
  match s.moves.find? (fun (m : Nat × Nat × Nat) => (leafEntries m.1 (s.mem.dword m.1)).contains s.ev.a) with
  | none => .next s
  | some (e, base, size) =>
    let entries := leafEntries e (s.mem.dword e)
    let leaf := s.ev.dword &&& ~~~ 0x80#64
    let new := frameOf leaf.toNat - frameOf leaf.toNat % size
    let s0 := s.copyPage base size new
    let s1 := { s0.putLeaf entries leaf with
      tlb := s0.tlb.filter (fun t => !t.fromLeaf entries)
      moves := s0.moves.filter (fun (m : Nat × Nat × Nat) => m.1 ≠ e) }
    let mine (f : FarOp) : Bool := f.moving && f.lines.any (fun l => decide (base ≤ 64 * l) && decide (64 * l < base + size))
    let held := s1.fars.filter mine
    let s2 := { s1 with fars := s1.fars.map (fun (f : FarOp) => if f.moving && !mine f then f else f.relocated base size new) }
    .next (held.foldl (fun (x : State) (f : FarOp) =>
      x.soon { kind := if laneWise f.instr then .translationWalkComplete else .tileCopyComplete, unit := f.unit, id := f.id }) (s2.forgetFrames base size))

/-- A page move starts (R125): MV is set in the leaf's entries, cached copies of the entry and the translation registers that it
covers go, and writes to the page that are not yet performed are held. An access that may no longer be rolled back to performs
first (R142; log entry 64). -/
def execPageMoveStart (s : State) : Result :=
  let entries := leafEntries s.ev.a (s.mem.dword s.ev.a)
  let e := entries.headD s.ev.a
  let size := pageOf (bits (s.mem.dword e).toNat 60 3)
  let frame := frameOf (s.mem.dword e).toNat
  let base := frame - frame % size
  let inPage (p : Nat) : Bool := decide (base ≤ p) && decide (p < base + size)
  let affected (f : FarOp) : Bool :=
    laneWise f.instr && !isLoad f.instr && !inScratch f.instr && !f.performed &&
      (lanesOf f.todo).any (fun l => match f.pa[l]?.getD none with | some p => inPage p | none => false)
  -- a tile that goes out to the page is checked afresh, and is then held
  let tile (f : FarOp) : Bool :=
    (match f.instr with | .tst .. => true | .tcopyOut .. => true | _ => false) && !f.performed && f.checked && f.pages.any (fun (p : Nat × Xlat) => inPage p.2.pa)
  if s.moves.any (fun (m : Nat × Nat × Nat) => decide (m.1 = e)) then .next s
  else if s.fars.any (fun f => (affected f || tile f) && f.passed) then .next (s.later s.ev)
  else
    let s1 := entries.foldl (fun (x : State) k => x.setEntry k 0x80) s
    let hold (f : FarOp) : FarOp :=
      if affected f then { f with checked := false, moving := true, shown := f.heldBytes, lines := f.heldLines }
      else if tile f then { f with checked := false, pages := [] } else f
    .next ({ s1 with tlb := s1.tlb.filter (fun t => !t.fromLeaf entries), fars := s1.fars.map hold, moves := s1.moves ++ [(e, base, size)] }.forgetFrames base size)

/-! ### Performing (R116, R133, R134, R142, R207) -/

/-- Whether a lane of a mask names a line that a lane of the other operation names, in the same space. -/
def FarOp.sharesLine (f o : FarOp) (m : Word) : Bool :=
  decide (inScratch f.instr = inScratch o.instr) &&
    (lanesOf m).any (fun l => (lanesOf o.todo).any (fun k =>
      match f.pa[l]?.getD none, o.pa[k]?.getD none with
      | some p, some q => decide (p / 64 = q / 64)
      | _, _ => false))

/-- Whether an operation is translated and checked against its final translation (R116): a write whose leaf still awaits its D
may yet be walked again (R353). -/
def FarOp.final (f : FarOp) : Bool :=
  f.checked &&
    (if laneWise f.instr then
      isLoad f.instr || (lanesOf f.todo).all (fun l => match f.hits[l]?.getD none with | some h => !wantsD h.w1 && !wantsD h.w2 | none => true)
     else match f.instr with
      | .tst .. => f.pages.all (fun (p : Nat × Xlat) => !wantsD p.2.one.word && !wantsD p.2.two.word)
      -- the rows of a tile that is not dense are found by what its levels hold when they move
      | .tld .. => (List.range (bits (f.tile.getD 0 0).toNat 0 2 + 1)).all (fun j => decide (bits (f.tile.getD 0 0).toNat (4 + 3 * j) 3 = 0))
      | _ => true)

/-- Whether an older write that a page move has held keeps its place before a write to these lines (R125): among the held writes,
and for the other units of its troupe, whose loads it has served. -/
def State.behindHeld (s : State) (f : FarOp) (lines : List Nat) : Bool :=
  let k (u : UnitId) : Option Nat := (s.troupeOf u).map (fun (t : Nat × Troupe) => t.1)
  s.fars.any (fun o => !o.performed && decide (o.id < f.id) && o.lines.any lines.contains && (!f.lines.isEmpty || decide (k o.unit = k f.unit)))

/-- Whether a word reads memory. -/
def readsMemory (x : Instr) : Bool := isLoad x || isRmw x || (match x with | .tld .. => true | _ => false)

/-- Whether an unperformed lane of an operation lies in one of these pages of physical memory. -/
def FarOp.onPages (o : FarOp) (pages : List Nat) : Bool :=
  !inScratch o.instr && (lanesOf o.todo).any (fun l => match o.pa[l]?.getD none with | some p => pages.contains (p / 4096) | none => false)

/-- Whether lanes of an operation lie in a page of an older tile operation. -/
def FarOp.onTile (f o : FarOp) (m : Word) : Bool := { f with todo := m }.onPages (o.pages.map (fun (p : Nat × Xlat) => p.2.pa / 4096))

/-- Whether the lanes of a mask meet a stopped clock (R332): of the quadrant whose scratchpad they access, or of their homes; a store
that the own buffer accepts meets none. -/
def State.meetsStop (s : State) (f : FarOp) (m : Word) : Bool :=
  !s.stopped.isEmpty && !(isStore f.instr && !inScratch f.instr && decide (f.scope.toNat ≤ 1)) &&
    (lanesOf m).any (fun l => match f.pa[l]?.getD none with
      | some p => if inScratch f.instr then s.stopped.contains (p / 2 ^ 20) else s.homeStops p
      | none => false)

/-- Whether lanes of an operation may perform now. Every older access of the unit has been checked against its final translation
(R142); a release waits until they are performed (R207); of the same path, a store waits for older loads (R134), and requests to
one line keep their order (R133), as writes held for a page move do (R125). -/
def State.mayPerform (s : State) (f : FarOp) (m : Word) : Bool :=
  f.checked && !f.moving && !s.meetsStop f m && s.fars.all (fun o =>
    !(decide (o.unit = f.unit) && decide (o.id < f.id) && !o.performed && (decide (o.cls = .g) || decide (o.cls = .a) || decide (o.cls = .t))) ||
      ((o.final || !o.unperformed) && !f.rel &&
        (decide (o.pid ≠ f.pid) ||
          (!(!isLoad f.instr && readsMemory o.instr) && !f.sharesLine o m && !f.onTile o m)))) &&
    (isLoad f.instr || inScratch f.instr || !s.behindHeld f ((f.byLine m).map (fun (x : Nat × Word) => x.1)))

/-- The lanes of a mask whose cached leaf has changed since the walk, when the first write through it would set D (R353). -/
def State.staleLanes (s : State) (f : FarOp) (m : Word) : List Nat :=
  (lanesOf m).filter (fun l =>
    match f.hits[l]?.getD none with
    | none => false
    | some h => s.staleLeaf h.one h.w1 || s.staleLeaf h.two h.w2)

/-- The lanes that write set D in their leaves, with the first write through each (R353). -/
def State.dirtyLanes (s : State) (f : FarOp) (m : Word) : State :=
  (lanesOf m).foldl (fun (s1 : State) l =>
    match f.hits[l]?.getD none with
    | none => s1
    | some h => (s1.markDirty h.one h.w1).markDirty h.two h.w2) s

/-- The operation is checked afresh: its cached leaves have changed. -/
def State.recheck (s : State) (f : FarOp) (stale : List Nat) : State :=
  let drop := stale.filterMap (fun l => f.hits[l]?.getD none)
  let s1 := { s with tlb := s.tlb.filter (fun t => !(drop.any (fun (h : Hit) => decide (h.one = t.one.entry)))) }
  let again (g : FarOp) : List (Option Nat) := (List.range 32).map (fun l => if stale.contains l then none else g.pa[l]?.getD none)
  let hits (g : FarOp) : List (Option Hit) := (List.range 32).map (fun l => if stale.contains l then none else g.hits[l]?.getD none)
  (s1.onFar f.id (fun g => { g with checked := false, hits := hits g, pa := again g })).soon
    { kind := .translationWalkComplete, unit := f.unit, id := f.id }

/-- An access of a path performs: the older ones of the path that have not can no longer be rolled back to (R142). -/
def State.passOlder (s : State) (f : FarOp) : State :=
  { s with fars := s.fars.map (fun (o : FarOp) =>
      if o.unit = f.unit ∧ o.pid = f.pid ∧ o.id < f.id ∧ o.unperformed then { o with passed := true } else o) }

/-- Lanes of an operation are performed: they leave `todo`, and what they showed is in the troupe's buffers or at the home. -/
def FarOp.strike (f : FarOp) (m : Word) : FarOp :=
  let g := { f with todo := f.todo &&& ~~~ m }
  { g with shown := if f.shown.isEmpty then [] else g.heldBytes, lines := if f.lines.isEmpty then [] else g.heldLines }

/-- Count the lanes of an operation that are performed now (R299): the bytes of a remote scratchpad, which the on-package fabric brings
or takes, or the lines of memory. A store that the own buffer accepts is counted when it drains. -/
def State.countServed (s : State) (f : FarOp) (m : Word) : State :=
  let v := s.vdiOf f.unit
  let core := f.unit.place.1
  let ways := farSize f.instr * (if isRmw f.instr then 2 else 1)
  if inScratch f.instr then
    (s.count v 32 (ways * (lanesOf m).length)).count v 36
      ((lanesOf m).map (fun l => ways * (routeOf (dieOf core) (dieOf (((f.pa[l]?.getD none).getD 0) / 2 ^ 22))).links)).sum
  else if isStore f.instr && decide (f.scope.toNat ≤ 1) then s
  else s.countLines v core ((f.byLine m).map (fun (x : Nat × Word) => x.1))

/-- A line has become poisoned since the operation was checked: its lanes fault next (R361). -/
def State.faultNow (s : State) (f : FarOp) : State :=
  let s1 := s.onFar f.id (fun (g : FarOp) => { g with checked := false })
  { s1 with agenda := { kind := .farAccessFault, unit := f.unit, id := f.id } :: s1.agenda }

/-- Returned data is written to the destination lanes, and the counter falls when the last lane is written (R73, R114,
R117). A line that has become poisoned parks its lanes (R361); when a younger access of the path has performed, the data was bound
before (R142; log entry 64). An acquire from outside a troupe drains its buffers (R139). -/
def execFarLoadReturn (s : State) : Result :=
  match s.fars.find? (fun f => decide (f.id = s.ev.id)) with
  | none => .next s
  | some f =>
    let m := s.ev.word &&& f.todo
    if m = 0#32 ∨ !isLoad f.instr then .next s
    else if !s.mayPerform f m then .next (s.later s.ev)
    else
      match s.troupeOf f.unit with
      | none => .next s
      | some (k, t) =>
        let at_ (l : Nat) : Nat := (f.pa[l]?.getD none).getD 0
        let size := farSize f.instr
        let bad := (lanesOf m).any (fun l => if inScratch f.instr then s.scratchBad (at_ l) size else s.homeBad t (at_ l) size || f.spoiled.contains (at_ l / 64))
        if bad && !f.passed then .next (s.faultNow f)
        else
          let s1 := if inScratch f.instr && f.acq && decide (2 ≤ f.scope.toNat) then
              (lanesOf m).foldl (fun (x : State) l =>
                match x.troupeAt (at_ l / 2 ^ 22) (at_ l / 2 ^ 20 % 4) with
                | some (j, t2) => if j = k then x else x.drainWhere t2 (fun _ => true)
                | none => x) s
            else s
          let val (l : Nat) : Word :=
            match f.instr with
            | .ldsx .. => s1.scratch.word (at_ l)
            | _ => BitVec.ofNat 32 (leNat ((List.range size).map (fun j => s1.troupeByte k t (at_ l + j))))
          let s2 := match f.dest with | some d => s1.onCtx f.unit (fun c => c.putLanes m d val) | none => s1
          let s3 := ((s2.countServed f m).passOlder f).onFar f.id (fun g => g.strike m)
          .next (if (f.strike m).todo = 0#32 then s3.finishFar f.id else s3.trimUndo f.unit)

/-- Little-endian bytes of a lane's store data. -/
def FarOp.storeBytes (f : FarOp) (l : Nat) : List Byte := leBytes (farSize f.instr) (f.data.getD l 0).toNat

/-- A store coalescing buffer accepts bytes (R118): into the entry that holds the line in a buffer of the troupe, or
into a new entry of the own Usher, whose oldest drains when it holds 64. -/
def State.absorb (s : State) (t : Troupe) (u : UnitId) (pa : Nat) (bs : List Byte) : State :=
  let line := pa / 64
  let new : List (Nat × Byte) := (List.range bs.length).map (fun j => (pa % 64 + j, bs.getD j 0))
  let put (old : List (Nat × Byte)) : List (Nat × Byte) := old.filter (fun b => !(new.any (fun (n : Nat × Byte) => decide (n.1 = b.1)))) ++ new
  match s.heldEntry t line with
  | some (k, _) =>
    let q := s.quad k
    s.setQuad k { q with entries := q.entries.map (fun (e : Entry) =>
      if e.line = line then { e with bytes := put e.bytes, units := if e.units.contains u then e.units else u :: e.units } else e) }
  | none =>
    let k := u.quadKey
    let s1 := match (s.quad k).entries with
      | e :: es => if 63 ≤ es.length then (s.drainEntry t.vdi t.core e).setQuad k { (s.drainEntry t.vdi t.core e).quad k with entries := es } else s
      | [] => s
    let q := s1.quad k
    (s1.setQuad k { q with entries := q.entries ++ [{ line := line, since := s1.cycle, bytes := new, units := [u] }] }).atCycle (s1.cycle + 64)
      { kind := .coalesceEntryAgeDrain, a := k, b := line }

/-- An entry that is 64 cycles old drains to the home (R118). -/
def execCoalesceEntryAgeDrain (s : State) : Result :=
  let k := s.ev.a
  match s.troupeAt (k / 4) (k % 4) with
  | none => .next s
  | some (_, t) =>
    let old (e : Entry) : Bool := decide (e.line = s.ev.b) && decide (e.since + 64 ≤ s.cycle)
    let es := (s.quad k).entries
    match es.find? old with
    | none => .next s
    | some e => .next ((s.setQuad k { s.quad k with entries := es.filter (fun x => !old x) }).drainEntry t.vdi t.core e)

/-- Whether the lanes of a store cover a line whole (R360). -/
def FarOp.covers (f : FarOp) (m : Word) (line : Nat) : Bool :=
  let at_ (l : Nat) : Nat := (f.pa[l]?.getD none).getD 0
  (List.range 64).all (fun j => (lanesOf m).any (fun l => decide (at_ l ≤ 64 * line + j) && decide (64 * line + j < at_ l + farSize f.instr)))

/-- Write the lanes of a store at the home, in ascending lane order (R128); a line that they cover whole loses its
poison (R360). -/
def State.storeLanes (s : State) (f : FarOp) (m : Word) : State :=
  let at_ (l : Nat) : Nat := (f.pa[l]?.getD none).getD 0
  let s1 := { s with mem := (lanesOf m).foldl (fun (x : Memory) l => x.putBytes (at_ l) (f.storeBytes l)) s.mem }
  { s1 with poison := s1.poison.filter (fun k => !f.covers m k) }

/-- The lanes of a store go into the troupe's buffers (R118); an entry that they cover whole loses its poison (R360). -/
def State.absorbLanes (s : State) (t : Troupe) (f : FarOp) (m : Word) : State :=
  let at_ (l : Nat) : Nat := (f.pa[l]?.getD none).getD 0
  let s1 := (lanesOf m).foldl (fun (x : State) l => x.absorb t f.unit (at_ l) (f.storeBytes l)) s
  t.quads.foldl (fun (x : State) q =>
    let k := quadKey t.core q
    if (x.quad k).entries.any (fun e => e.bad) then
      x.setQuad k { x.quad k with entries := (x.quad k).entries.map (fun (e : Entry) => if e.bad ∧ f.covers m e.line then { e with bad := false } else e) }
    else x) s1

/-- Drain a troupe's held entry of a line ahead of an access at the home (R118, R212). -/
def State.drainLine (s : State) (t : Troupe) (line : Nat) : State := s.drainWhere t (fun e => decide (e.line = line))

/-- One lane of a read-modify-write on memory or scratchpad: the old word, and the state after. -/
def State.rmwLane (s : State) (f : FarOp) (l : Nat) : State × Word :=
  let a := (f.pa[l]?.getD none).getD 0
  let new (m : Word) : Word := rmw (rmwOp f.instr) m (f.data.getD l 0) (f.data2.getD l 0)
  if inScratch f.instr then
    let m := s.scratch.word a
    ({ s with scratch := s.scratch.putWord a (new m) }, m)
  else
    let m := s.mem.word a
    ({ s with mem := s.mem.putWord a (new m) }, m)

/-- The lanes of a mask carry out their read-modify-writes in ascending order (R209, R212). -/
def rmwLanes (f : FarOp) : List Nat → State → State × List (Nat × Word)
  | [], s => (s, [])
  | l :: ls, s =>
    let (s1, m) := s.rmwLane f l
    let (s2, rest) := rmwLanes f ls s1
    (s2, (l, m) :: rest)

/-- A far store is performed at its scope, or the lanes of an atomic are carried out at the home or at the target's
banks (R116, R118, R207, R212). An atomic's result returns after an open time. -/
def execFarStorePerform (s : State) : Result :=
  match s.fars.find? (fun f => decide (f.id = s.ev.id)) with
  | none => .next s
  | some f =>
    let m := s.ev.word &&& f.todo
    if m = 0#32 ∨ isLoad f.instr then .next s
    else if !s.mayPerform f m then .next (s.later s.ev)
    else if !(s.staleLanes f m).isEmpty then .next (s.recheck f (s.staleLanes f m))
    else
      match s.troupeOf f.unit with
      | none => .next s
      | some (k, t) =>
        let at_ (l : Nat) : Nat := (f.pa[l]?.getD none).getD 0
        let s0 := if f.rel && decide (2 ≤ f.scope.toNat) then s.drainUnit f.unit else s
        let s1 := s0.dirtyLanes f m
        let finish (x : State) : State :=
          let y := ((x.countServed f m).passOlder f).onFar f.id (fun g => g.strike m)
          if (f.strike m).todo = 0#32 then y.finishFar f.id else y.trimUndo f.unit
        if isStore f.instr then
          .next (finish (
            if inScratch f.instr then
              { s1 with scratch := (lanesOf m).foldl (fun (x : Memory) l => x.putBytes (at_ l) (f.storeBytes l)) s1.scratch,
                        scratchPoison := s1.scratchPoison.filter (fun w => !((lanesOf m).any (fun l => decide (at_ l / 4 = w)))) }
            else if f.scope.toNat ≤ 1 then s1.absorbLanes t f m
            else ((f.byLine m).foldl (fun (x : State) (lm : Nat × Word) => x.drainLine t lm.1) s1).storeLanes f m))
        else
          let bad := (lanesOf m).any (fun l => if inScratch f.instr then s1.scratchBad (at_ l) 4 else s1.homeBad t (at_ l) 4)
          if bad && !f.passed then .next (s.faultNow f)
          else
            let s2 := if inScratch f.instr then
                (if f.acq && decide (2 ≤ f.scope.toNat) then
                  (lanesOf m).foldl (fun (x : State) l =>
                    match x.troupeAt (at_ l / 2 ^ 22) (at_ l / 2 ^ 20 % 4) with
                    | some (j, t2) => if j = k then x else x.drainWhere t2 (fun _ => true)
                    | none => x) s1
                else s1)
              else (f.byLine m).foldl (fun (x : State) (lm : Nat × Word) => x.drainLine t lm.1) s1
            let (s3, olds) := rmwLanes f (lanesOf m) s2
            let g := { f.strike m with
                              old := (List.range 32).map (fun l => (olds.lookup l).getD (f.old.getD l 0)) }
            let s4 := (((s3.countServed f m).passOlder f).onFar f.id (fun _ => g)).trimUndo f.unit
            .next (if g.todo = 0#32 then
                s4.later { kind := if inScratch f.instr then .remoteAtomsReturn else .atomResultReturn, unit := f.unit, id := f.id }
              else s4)

/-- Whether a compare-and-swap has failed in a lane: the old word is not the compared one (R79, R209). -/
def FarOp.casFailed (f : FarOp) : Bool :=
  decide (rmwOp f.instr = 10) && (lanesOf f.lanes).any (fun l => decide (f.old.getD l 0 ≠ f.data.getD l 0))

/-- The results of an atomic are written to d, and a failed compare-and-swap demotes its path (R79, R209, R212). -/
def atomReturn (s : State) : Result :=
  match s.fars.find? (fun f => decide (f.id = s.ev.id)) with
  | none => .next (if s.ev.flag then s.demotePid s.ev.unit s.ev.a else s)
  | some f =>
    if !isRmw f.instr ∨ f.todo ≠ 0#32 ∨ f.done then .next s
    else
      let s1 := match f.dest with
        | some d => s.onCtx f.unit (fun c => c.putLanes f.lanes d (fun l => f.old.getD l 0))
        | none => s
      let s2 := s1.finishFar f.id
      .next (if f.casFailed then s2.demotePid f.unit f.pid else s2)

/-- ATOM results return (R212). -/
def execAtomResultReturn (s : State) : Result := atomReturn s

/-- Results of a remote ATOMS return (R209). A local ATOMS whose compare-and-swap failed reaches its result write
(R79). -/
def execRemoteAtomsReturn (s : State) : Result := if s.ev.flag then .next (s.demotePid s.ev.unit s.ev.a) else atomReturn s

/-! ### Scratchpad words (R208 to R210) -/

/-- Lanes of a word on the own scratchpad that meet poison are parked at the word, and its group's later words wait for
the run-on (R343, R361). -/
def State.parkOwn (s : State) (i : Issue) (c : Ctx) (x : Instr) (at_ : Nat → Nat) (data data2 : List Word) (dest : Option Nat)
    (bad : List Nat) : State :=
  if bad.isEmpty then s
  else
    let f : FarOp := { s.newFar i c x .fetch with
      va := (List.range 32).map (fun l => BitVec.ofNat 64 (at_ l)), data := data, data2 := data2, dest := dest }
    let s1 := s.park f (bad.map (fun l => (l, { cause := .poisoned, gpa := 0 })))
    { s1 with cur := { s1.cur with trap := some true } }

/-- One access on the own scratchpad that ERET replays (R249): its unparked lanes read or are carried out at once, ahead of the
path's next group, with the latency of R111; lanes that meet poison again are parked afresh (R345). -/
def State.replayOwnOp (s : State) (u : UnitId) (slotB : Bool) (f0 : FarOp) : State :=
  match s.ctxs.find u with
  | none => s
  | some c =>
    let at_ (l : Nat) : Nat := (f0.va.getD l 0).toNat
    let size := farSize f0.instr
    let bad := (lanesOf f0.lanes).filter (fun l => s.scratchBad (at_ l) size)
    let m := f0.lanes &&& ~~~ maskOf bad
    let f : FarOp := { f0 with lanes := m, pa := (List.range 32).map (fun l => some (at_ l)), pid := (c.path slotB).pid }
    let (s1, olds) := if isRmw f.instr then rmwLanes f (lanesOf m) s else (s, [])
    let val (l : Nat) : Word :=
      match f.instr with
      | .lds _ _ _ z => ldsValue z (leNat (s.scratch.bytes (at_ l) size))
      | _ => (olds.lookup l).getD 0
    let i : Issue := { s.pathIssue u slotB (c.path slotB) with em := m, stamp := s.stamp }
    let s2 := match f.dest with
      | some d => if m = 0#32 then s1 else s1.onCtx u (fun k => k.putV i 6 d (merge m (k.vreg d) (.ofFn val)))
      | none => s1
    let g := { f with old := (List.range 32).map (fun l => (olds.lookup l).getD 0) }
    let s3 := if isRmw f.instr && g.casFailed then
        s2.atCycle (s.cycle + 6) { kind := .remoteAtomsReturn, unit := u, a := f.pid, flag := true }
      else s2
    if bad.isEmpty then s3 else s3.park { f0 with id := s3.stamp + 1, lanes := maskOf bad } (bad.map (fun l => (l, { cause := .poisoned, gpa := 0 })))

/-- The accesses on the own scratchpad that ERET replays, in issue order. -/
def State.replayOwn (s : State) (u : UnitId) (slotB : Bool) (ks : List Park) : State :=
  (replayOps (s.stamp + 1) ks ((ks.map (fun k => k.op.id)).dedup)).foldl (fun (x : State) (f : FarOp) => x.replayOwnOp u slotB f) s

/-- LDS (R208). -/
def execLds (d a b : Reg) (z : BitVec 3) (s : State) : Result :=
  s.withCur (fun i c =>
    match s.troupeOf s.cur.turn.unit with
    | none => s
    | some (_, t) =>
      let addr (l : Nat) : Int := ldsAddr (c.rdS i a) ((c.rdV i b).lane l)
      match scratchChecks (ldsSize z) t.scratchSize addr (lanesOf i.em) with
      | some cause => s.raise cause
      | none =>
        let at_ (l : Nat) : Nat := t.scratchAddr (addr l).toNat
        let bad := (lanesOf i.em).filter (fun l => s.scratchBad (at_ l) (ldsSize z))
        let j := { i with em := i.em &&& ~~~ maskOf bad }
        let v : VVal := .ofFn (fun l => if active i.em l then ldsValue z (leNat (s.scratch.bytes (at_ l) (ldsSize z))) else 0)
        (s.setCtx s.cur.turn.unit (c.wrV j 6 d v)).parkOwn i c (.lds d a b z) at_ [] [] (destOf d) bad)

/-- STS (R208): ascending lanes, so that the highest lane's bytes remain (R128). -/
def execSts (d a b : Reg) (z : BitVec 3) (s : State) : Result :=
  s.withCur (fun i c =>
    match s.troupeOf s.cur.turn.unit with
    | none => s
    | some (_, t) =>
      let size := ldsSize z
      let addr (l : Nat) : Int := ldsAddr (c.rdS i a) ((c.rdV i b).lane l)
      match scratchChecks size t.scratchSize addr (lanesOf i.em) with
      | some cause => s.raise cause
      | none =>
        let at_ (l : Nat) : Nat := t.scratchAddr (addr l).toNat
        let data := c.rdV i d
        let whole := if size = 4 then (lanesOf i.em).map (fun l => at_ l / 4) else []
        { s with scratch := (lanesOf i.em).foldl (fun (m : Memory) l => m.putBytes (at_ l) (leBytes size (data.lane l).toNat)) s.scratch,
                 scratchPoison := s.scratchPoison.filter (fun w => !whole.contains w) })

/-- The footprint's rectangle of offsets (R30, R31): the image's declared offsets, its largest gang and (0, 0). -/
def inFootprint (m : TenantImage) (dx dy : Int) : Bool :=
  let gx : Int := if m.gangMax ≤ 4 then (m.gangMax - 1 : Nat) else ((m.gangMax - 1) / 2 : Nat)
  let gy : Int := if m.gangMax ≤ 4 then 0 else 1
  decide (min m.xmin 0 ≤ dx) && decide (dx ≤ max m.xmax gx) && decide (min m.ymin 0 ≤ dy) && decide (dy ≤ max m.ymax gy)

/-- The device scratchpad address that a remote lane names, or the failing check (R28, R113, R209, R210). -/
def State.remoteTarget (s : State) (core vdi : Nat) (dx dy : Int) (a : Word) : Except Cause Nat :=
  match s.vdis.find vdi, coreOffset core dx dy with
  | some v, some k =>
    if !v.hasCore k then .error .protFault
    else match s.troupeAt k (remoteQuad a) with
      | none => .error .protFault
      | some (_, t) =>
        if t.vdi ≠ vdi then .error .protFault
        else if remoteOff a % 4 ≠ 0 then .error .misaligned
        else if reservedOffset (remoteOff a) then .error .scratchBounds
        else .ok (devScratch k (remoteQuad a) (remoteOff a))
  | _, _ => .error .protFault

/-- The targets of the lanes in ascending order, or the first failure (R209, R210). -/
def targets (f : Nat → Except Cause Nat) : List Nat → Except Cause (List (Nat × Nat))
  | [] => .ok []
  | l :: ls =>
    match f l with
    | .error c => .error c
    | .ok a => match targets f ls with | .error c => .error c | .ok xs => .ok ((l, a) :: xs)

/-- A word on another core's scratchpad: every active lane is checked at issue, and the word is served at the target's
banks (R209, R210). -/
def remoteWord (x : Instr) (k : Cls) (target : Ctx → Issue → Nat → Except Cause Nat) (dest : Option Nat) (data data2 : Option Reg)
    (acq rel : Bool) (scope : BitVec 2) (s : State) : Result :=
  s.withCur (fun i c =>
    if i.em = 0#32 then s
    else
      match targets (target c i) (lanesOf i.em) with
      | .error cause => s.raise cause
      | .ok xs =>
        let lanes := fun (r : Option Reg) => match r with | some r => (List.range 32).map (fun l => (c.rdV i r).lane l) | none => []
        let f : FarOp :=
          { s.newFar i c x k with
            va := (List.range 32).map (fun l => BitVec.ofNat 64 ((xs.lookup l).getD 0))
            data := lanes data, data2 := lanes data2, dest := dest, acq := acq, rel := rel, scope := scope }
        let s1 := if rel && decide (2 ≤ scope.toNat) then s.drainUnit f.unit else s
        s1.submit i.slotB f true)

/-- The target of an LDSX or STSX lane (R210). -/
def placeTarget (s : State) (a : Reg) (x y : BitVec 4) (c : Ctx) (i : Issue) (l : Nat) : Except Cause Nat :=
  let w := (c.rdV i a).lane l
  if w >>> 22 ≠ 0#32 then .error .scratchBounds
  else s.remoteTarget s.cur.turn.unit.place.1 (s.vdiOf s.cur.turn.unit) x.toInt y.toInt w

/-- LDSX (R210): acquire at .device when O = 1. -/
def execLdsx (d a : Reg) (x y : BitVec 4) (o : BitVec 1) (s : State) : Result :=
  remoteWord (.ldsx d a x y o) .g (placeTarget s a x y) (destOf d) none none (decide (o = 1#1)) false (if o = 1#1 then 2 else 1) s

/-- STSX (R210): release at .device when O = 1. -/
def execStsx (d a : Reg) (x y : BitVec 4) (o : BitVec 1) (s : State) : Result :=
  remoteWord (.stsx d a x y o) .g (placeTarget s a x y) none (some d) none false (decide (o = 1#1)) (if o = 1#1 then 2 else 1) s

/-- The target of a remote ATOMS lane (R152, R209): within the footprint, bits 23:22 zero, then the place. -/
def atomsTarget (s : State) (a : Reg) (c : Ctx) (i : Issue) (l : Nat) : Except Cause Nat :=
  let w := (c.rdV i a).lane l
  let dy : Int := (w.extractLsb' 28 4).toInt
  let dx : Int := (w.extractLsb' 24 4).toInt
  match s.vdis.find (s.vdiOf s.cur.turn.unit) with
  | none => .error .protFault
  | some v =>
    if !inFootprint v.img dx dy then .error .protFault
    else if w.extractLsb' 22 2 ≠ 0#2 then .error .scratchBounds
    else s.remoteTarget s.cur.turn.unit.place.1 (s.vdiOf s.cur.turn.unit) dx dy w

/-- ATOMS on the own scratchpad (R209): fixed latency, in ascending lanes. -/
def atomsOwn (x : Instr) (d a : Reg) (s : State) : Result :=
  s.withCur (fun i c =>
    match s.troupeOf s.cur.turn.unit with
    | none => s
    | some (_, t) =>
      let addr (l : Nat) : Int := (((c.rdV i a).lane l).toNat : Int)
      match scratchChecks 4 t.scratchSize addr (lanesOf i.em) with
      | some cause => s.raise cause
      | none =>
        let at_ (l : Nat) : Nat := t.scratchAddr (addr l).toNat
        let bad := (lanesOf i.em).filter (fun l => s.scratchBad (at_ l) 4)
        let m := i.em &&& ~~~ maskOf bad
        let data := (List.range 32).map (fun l => (c.rdV i d).lane l)
        let data2 := if rmwOp x = 10 then (List.range 32).map (fun l => (c.rdV i (d + 1)).lane l) else []
        let f : FarOp := { s.newFar i c x .fetch with pa := (List.range 32).map (fun l => some (at_ l)), data := data, data2 := data2, lanes := m }
        -- a release at .device or .system drains the troupe's buffers (R118, R207)
        let drains := match x with | .atoms _ _ _ o e _ => isRel o && decide (2 ≤ e.toNat) | _ => false
        let (s1, olds) := rmwLanes f (lanesOf m) (if drains then s.drainUnit f.unit else s)
        let g := { f with old := (List.range 32).map (fun l => (olds.lookup l).getD 0) }
        let s2 := s1.setCtx s.cur.turn.unit (c.wrV { i with em := m } 6 d (.ofFn (fun l => g.old.getD l 0)))
        let s3 := if g.casFailed then
            s2.atCycle (s.cycle + 6) { kind := .remoteAtomsReturn, unit := f.unit, a := f.pid, flag := true }
          else s2
        s3.parkOwn i c x at_ data data2 (destOf d) bad)

/-- ATOMS (R209): on the own scratchpad, or remote when X = 1. -/
def execAtoms (d a : Reg) (p : BitVec 4) (o e : BitVec 2) (x : BitVec 1) (s : State) : Result :=
  if x = 1#1 then
    remoteWord (.atoms d a p o e x) .a (atomsTarget s a) (destOf d) (some d) (if p = 0xA#4 then some (d + 1) else none)
      (isAcq o) (isRel o) e s
  else atomsOwn (.atoms d a p o e x) d a s

/-! ### Fences, counters, translation registers (R213) -/

/-- Whether every access that the unit issued before `stamp` is performed (R129, R207). -/
def State.priorDone (s : State) (u : UnitId) (stamp : Nat) : Bool :=
  !(s.fars.any (fun f => decide (f.unit = u) && decide (f.id < stamp) && !f.performed && (decide (f.cls = .g) || decide (f.cls = .a) || decide (f.cls = .t))))

/-- A word that acts as a release at a scope before it acts otherwise (R207): it waits for the unit's earlier accesses,
and at .device or .system drains the troupe's buffers of the unit's stores. -/
def State.released (s : State) (x : Instr) (scope : BitVec 2) (vals : List Dword) (k : State → State) : State :=
  let u := s.cur.turn.unit
  let s1 := if 2 ≤ scope.toNat then s.drainUnit u else s
  if s1.priorDone u s.cur.tag then k s1 else s1.holdPath x vals false

/-- FENCE (R213). -/
def execFence (e : BitVec 2) (s : State) : Result :=
  s.withCur (fun _ _ => s.released (.fence e) e [] (fun s1 => s1))

/-- The class that WAITC names (R152). -/
def clsNamed (l : BitVec 2) : Cls := match l.toNat with | 0 => .g | 1 => .a | 2 => .t | _ => .x

/-- WAITC (R15, R213): holds the path while the counter exceeds n. -/
def execWaitc (n : BitVec 6) (l : BitVec 2) (s : State) : Result :=
  s.withCur (fun _ _ =>
    if s.counter s.cur.turn.unit (clsNamed l) ≤ n.toNat then s else s.holdPath (.waitc n l) [] false)

/-- A walk's failure at the word at issue, which faults as a whole (R403): what follows a TXL in its group is taken back, and the
group of a word that leads it has just issued up to the word. -/
def State.faultHere (s : State) (i : Issue) (c : Ctx) (x : Instr) (va : Nat) (e : Xerr) : State :=
  { s.wholeFault { s.newFar i c x .fetch with id := if leadsGroup x then s.cur.stamp else s.cur.tag, lanes := (c.path i.slotB).em } va e with cur := { s.cur with trap := some true } }

/-- TXL (R124, R213): walks both stages for s and writes the translation register. -/
def execTxl (t : BitVec 3) (a : Reg) (s : State) : Result :=
  s.withCur (fun i c =>
    let vals := s.sources c [a]
    let u := s.cur.turn.unit
    if vals.length ≤ 1 then
      (s.later { kind := .translationWalkComplete, unit := u, id := s.cur.tag }).holdPath (.txl t a) vals true
    else
      let va := (nth vals 0).toNat
      match addressCheck (va : Int) 1 with
      | some cause => s.faultHere i c (.txl t a) va { cause := cause, gpa := 0 }
      | none =>
        match s.translate (s.vdiOf u) va with
        | (s1, .error e) => s1.faultHere i c (.txl t a) va e
        | (s1, .ok x) =>
          if !s1.backed x.pa then s1.faultHere i c (.txl t a) va { cause := .protFault, gpa := 0 } else
          let v := va % 2 ^ 57
          let g := x.one.apply v
          let left := min (x.one.base + x.one.size - v) (x.two.base + x.two.size - g)
          let r : Tx :=
            { base := BitVec.ofNat 64 va, frame := BitVec.ofNat 64 x.pa, limit := BitVec.ofNat 64 left,
              r := x.one.r && x.two.r, w := x.one.w && x.two.w, x := x.one.x && x.two.x, u := x.one.u,
              page := BitVec.ofNat 64 x.one.base, pageSize := x.one.size }
          (s1.onCtx u (fun k =>
            let k1 := k.log i (.tx t.toNat (k.tx[t.toNat]?.getD Tx.zero))
            { k1 with tx := k1.tx.setIfInBounds t.toNat r, poisonS := k1.poisonS.filter (fun x => x ≠ 64 + t.toNat) })).trimUndo u)

end Sys2Proof.Machine
end

