-- ==== Sys2Proof/Machine/Tiles.lean ====
section
/-! DEFINITION. Tensor handles, their layouts (R91, R215, R217, R242) and the movement of tiles (R217, R361, R362). -/

namespace Sys2Proof.Machine

/-! ### Handles (R215) -/

/-- Field `k` of a handle as a number. -/
def hField (h : Handle) (k : Nat) : Nat := (h[k]?.getD 0).toNat
/-- Whether the handle is valid. -/
def hValid (h : Handle) : Bool := decide (bits (hField h 0) 63 1 = 1)
/-- Element format (R89). -/
def hFmt (h : Handle) : Nat := bits (hField h 0) 20 4
/-- Number of levels. -/
def hRank (h : Handle) : Nat := bits (hField h 0) 0 2 + 1
/-- Level format of level `j`. -/
def hLevel (h : Handle) (j : Nat) : Nat := bits (hField h 0) (4 + 3 * j) 3
/-- Bound of dimension `j`. -/
def hBound (h : Handle) (j : Nat) : Nat := bits (hField h 1) (16 * j) 16
/-- Bytes between rows in memory; 0: packed. -/
def hPitch (h : Handle) : Nat := bits (hField h 2) 0 32
/-- Bytes between rows of a tile in scratchpad; 0: packed. -/
def hSpitch (h : Handle) : Nat := bits (hField h 7) 0 32

/-- Element width in bits of a format code (R89). -/
def elemWidth (code : Nat) : Nat :=
  match code with
  | 0 => 32
  | 1 | 2 => 16
  | 3 | 4 | 8 | 9 | 0xD => 8
  | 5 | 6 | 0xE => 6
  | _ => 4

/-- Whether the non-dense levels stand as R242 says: Compressed, then Singletons, then Dense; or a bitmap or 2:4 level
innermost below Dense ones, with a bound that is a multiple of 8. -/
def levelsFit (inner : Nat) (ls : List Nat) : Bool :=
  match ls.dropWhile (fun x => decide (x = 0)) with
  | [] => true
  | 1 :: rest => (rest.dropWhile (fun x => decide (x = 2))).all (fun x => decide (x = 0))
  | [x] => decide (x = 3 ∨ x = 4) && decide (inner % 8 = 0)
  | _ => false

/-- Whether a handle may be used (R217, R242). -/
def hLegal (h : Handle) : Bool :=
  let r := hRank h
  hValid h && decide (bits (hField h 0) 24 39 = 0) && decide (bits (hField h 0) 16 4 = 0) && decide (bits (hField h 0) 2 2 = 0) &&
    decide (bits (hField h 2) 32 32 = 0) && decide (bits (hField h 7) 32 32 = 0) &&
    (List.range 4).all (fun j => if j < r then decide (hLevel h j ≤ 4) else decide (hLevel h j = 0) && decide (hBound h j = 0)) &&
    levelsFit (hBound h (r - 1)) ((List.range r).map (hLevel h))

/-- Whether every level is Dense. -/
def hDense (h : Handle) : Bool := (List.range (hRank h)).all (fun j => decide (hLevel h j = 0))

/-- Component `j` of an origin or extent (R217). -/
def comp (v : Dword) (j : Nat) : Nat := bits v.toNat (16 * j) 16

/-- The checks of R217 on an origin and an extent: nothing beyond RANK, the innermost component a whole number of
bytes. -/
def tileFits (h : Handle) (origin extent : Dword) : Bool :=
  let r := hRank h
  let m := match elemWidth (hFmt h) with | 4 => 2 | 6 => 4 | _ => 1
  (List.range 4).all (fun j => decide (j < r) || (decide (comp origin j = 0) && decide (comp extent j = 0))) &&
    decide (comp origin (r - 1) % m = 0) && decide (comp extent (r - 1) % m = 0)

/-! ### Addresses (R91, R217) -/

/-- Row-major index of coordinates under sizes, both outermost first. -/
def rowMajor : List Nat → List Nat → Nat → Nat
  | x :: xs, n :: ns, acc => rowMajor xs ns (acc * n + x)
  | _, _, acc => acc

/-- Bit offset of an element: `outer` is the row-major index of its row, `k` its place in the row of `inner` elements,
`pitch` the bytes between rows, 0 for packed. -/
def bitOffset (w pitch inner outer k : Nat) : Nat := if pitch = 0 then w * (outer * inner + k) else 8 * pitch * outer + w * k

/-- Bytes of a dense tile from its address to the end of its last row (R217). -/
def tileBytes (w pitch : Nat) (extent : List Nat) : Nat :=
  let inner := extent.getLastD 0
  let rows := (extent.dropLast).foldl (fun a b => a * b) 1
  (bitOffset w pitch inner (rows - 1) (inner - 1) + w + 7) / 8

/-- The extent of a tile, outermost first. -/
def extentOf (h : Handle) (v : Dword) : List Nat := (List.range (hRank h)).map (comp v)

/-- The outer coordinates of row `n` of a tile. -/
def rowCoords : List Nat → Nat → List Nat
  | [], _ => []
  | e :: es, n =>
    let inner := es.foldl (fun a b => a * b) 1
    (if e = 0 then 0 else n / inner % e) :: rowCoords es n

/-! ### Reading tensors -/

/-- How an engine reaches memory for a unit: the level at which it translates, and the operation that keeps the pages it has
translated (R116). -/
structure Via where
  lvl : BitVec 2
  id : Option Nat
  deriving DecidableEq, Repr

/-- The engine of a handle operand, which keeps no page. -/
def Via.plain (lvl : BitVec 2) : Via := { lvl := lvl, id := none }

/-- Translate and check an address for an engine (R352), or take the page as its operation has found it: an operation is checked
once, against its final translation (R116). -/
def State.accessVia (s : State) (u : UnitId) (v : Via) (n : Need) (va : Nat) : State × Except Xerr Xlat :=
  let page := va % 2 ^ 57 / 4096
  match v.id.bind (fun k => (s.fars.find? (fun f => decide (f.id = k))).bind (fun f => f.pages.lookup page)) with
  | some x => (s, .ok { x with pa := x.pa + va % 4096 })
  | none =>
    match s.access (s.vdiOf u) n va with
    | (s1, .error e) => (s1, .error e)
    | (s1, .ok x) =>
      match v.id with
      | none => (s1, .ok x)
      | some k => (s1.onFar k (fun f => { f with pages := (page, { x with pa := x.pa - va % 4096 }) :: f.pages }), .ok x)

/-- Read `n` bytes of virtual memory for a unit's engine as the troupe sees it, with the poison that it carries (R118,
R361), with fuel for the 8-byte words. -/
def State.fetchBytes (s : State) (u : UnitId) (v : Via) : Nat → Nat → Nat → State × Except (Xerr × Nat) (List Byte × Bool)
  | 0, _, _ => (s, .ok ([], false))
  | fuel + 1, va, n =>
    if n = 0 then (s, .ok ([], false))
    else
      let k := min n (8 - va % 8)
      match addressCheck (va : Int) 1 with
      | some c => (s, .error ({ cause := c, gpa := 0 }, va))
      | none =>
        match s.accessVia u v (needR v.lvl) va with
        | (s1, .error e) => (s1, .error (e, va))
        | (s1, .ok x) =>
          let here := (List.range k).map (fun j =>
            match s1.troupeOf u with
            | some (m, t) => s1.troupeByte m t (x.pa + j)
            | none => s1.mem.read (x.pa + j))
          let bad := match s1.troupeOf u with
            | some (_, t) => s1.homeBad t x.pa k
            | none => s1.lineBad x.pa
          match s1.fetchBytes u v fuel (va + k) (n - k) with
          | (s2, .ok (bs, b)) => (s2, .ok (here ++ bs, bad || b))
          | (s2, .error e) => (s2, .error e)

/-- A number of `w` bits at bit `o` of an array that begins at virtual address `base`. -/
def State.fetchBits (s : State) (u : UnitId) (v : Via) (base o w : Nat) : State × Except (Xerr × Nat) (Nat × Bool) :=
  let n := (o % 8 + w + 7) / 8
  match s.fetchBytes u v (n + 1) (base + o / 8) n with
  | (s1, .ok (bs, b)) => (s1, .ok (leNat bs / 2 ^ (o % 8) % 2 ^ w, b))
  | (s1, .error e) => (s1, .error e)

/-- The entry of a Compressed level whose coordinates are those sought, the last one when several are (R242), among
`n` entries from `e` on. -/
def State.findEntry (s : State) (u : UnitId) (v : Via) (crd : Nat) (want : List Nat) : Nat → Nat → State × Except (Xerr × Nat) (Option Nat × Bool)
  | 0, _ => (s, .ok (none, false))
  | n + 1, e =>
    let m := want.length
    match s.fetchBytes u v (2 * m + 1) (crd + 2 * e * m) (2 * m) with
    | (s1, .error x) => (s1, .error x)
    | (s1, .ok (bs, b)) =>
      let here := (List.range m).map (fun j => leNat ((bs.drop (2 * j)).take 2))
      match s1.findEntry u v crd want n (e + 1) with
      | (s2, .error x) => (s2, .error x)
      | (s2, .ok (later, b2)) => (s2, .ok (later.or (if here = want then some e else none), b || b2))

/-- The index at VALS of the element at coordinates within the bounds, or nothing where none is stored, with the poison
of the positions and coordinates read (R242). -/
def State.valueIndex (s : State) (u : UnitId) (v : Via) (h : Handle) (xs : List Nat) : State × Except (Xerr × Nat) (Option Nat × Bool) :=
  let r := hRank h
  let bounds := (List.range r).map (hBound h)
  let ls := (List.range r).map (hLevel h)
  let c := (ls.takeWhile (fun x => decide (x = 0))).length
  match ls.drop c with
  | [] => (s, .ok (some (rowMajor xs bounds 0), false))
  | 1 :: rest =>
    let m := 1 + (rest.takeWhile (fun x => decide (x = 2))).length
    let p := rowMajor (xs.take c) (bounds.take c) 0
    match s.fetchBytes u v 9 (hField h 4 + 4 * p) 8 with
    | (s1, .error e) => (s1, .error e)
    | (s1, .ok (bs, b)) =>
      let first := leNat (bs.take 4)
      let last := leNat ((bs.drop 4).take 4)
      match s1.findEntry u v (hField h 5) ((xs.drop c).take m) (last - first) first with
      | (s2, .error e) => (s2, .error e)
      | (s2, .ok (none, b2)) => (s2, .ok (none, b || b2))
      | (s2, .ok (some e, b2)) =>
        let sub := (bounds.drop (c + m)).foldl (fun a n => a * n) 1
        (s2, .ok (some (e * sub + rowMajor (xs.drop (c + m)) (bounds.drop (c + m)) 0), b || b2))
  | 3 :: _ =>
    let inner := bounds.getLastD 0
    let bit := rowMajor xs.dropLast bounds.dropLast 0 * (inner / 8) + xs.getLastD 0 / 8
    match s.fetchBytes u v (bit / 8 + 2) (hField h 4) (bit / 8 + 1) with
    | (s1, .error e) => (s1, .error e)
    | (s1, .ok (bs, b)) =>
      let m := leNat bs
      if m / 2 ^ bit % 2 = 0 then (s1, .ok (none, b))
      else (s1, .ok (some (8 * ((List.range bit).filter (fun j => decide (m / 2 ^ j % 2 = 1))).length + xs.getLastD 0 % 8), b))
  | _ =>
    let inner := bounds.getLastD 0
    let k := xs.getLastD 0
    let g := rowMajor xs.dropLast bounds.dropLast 0 * (inner / 4) + k / 4
    match s.fetchBits u v (hField h 4) (4 * g) 4 with
    | (s1, .error e) => (s1, .error e)
    | (s1, .ok (nib, b)) =>
      (s1, .ok (if nib / 4 = k % 4 then some (2 * g + 1) else if nib % 4 = k % 4 then some (2 * g) else none, b))

/-- The code of +0 in a format: 8 in QN4 (R103), else all zero bits. -/
def zeroCode (fmt : Nat) : Nat := if fmt = 0xC then 8 else 0

/-- The code of the element at coordinates of a tensor: zero bits beyond the bounds, and +0 where nothing is stored (R217, R242),
its poison, and the element's number for its scale (R104, R106, R243). -/
def State.element (s : State) (u : UnitId) (v : Via) (h : Handle) (xs : List Nat) : State × Except (Xerr × Nat) (Nat × Bool × Option Nat) :=
  let r := hRank h
  let bounds := (List.range r).map (hBound h)
  if (xs.zip bounds).any (fun x => decide (x.2 ≤ x.1)) then (s, .ok (0, false, none))
  else
    match s.valueIndex u v h xs with
    | (s1, .error e) => (s1, .error e)
    | (s1, .ok (none, b)) => (s1, .ok (zeroCode (hFmt h), b, none))
    | (s1, .ok (some n, b)) =>
      let w := elemWidth (hFmt h)
      let o := if hDense h then bitOffset w (hPitch h) (bounds.getLastD 0) (rowMajor xs.dropLast bounds.dropLast 0) (xs.getLastD 0) else w * n
      match s1.fetchBits u v (hField h 3) o w with
      | (s2, .error e) => (s2, .error e)
      | (s2, .ok (code, b2)) => (s2, .ok (code, b || b2, some n))

/-- The elements of a row of a tile: codes with their poison, from coordinate `k` of the row on. -/
def State.rowElements (s : State) (u : UnitId) (v : Via) (h : Handle) (outer : List Nat) : Nat → Nat → State × Except (Xerr × Nat) (List (Nat × Bool))
  | 0, _ => (s, .ok [])
  | n + 1, k =>
    match s.element u v h (outer ++ [k]) with
    | (s1, .error e) => (s1, .error e)
    | (s1, .ok (code, b, _)) =>
      match s1.rowElements u v h outer n (k + 1) with
      | (s2, .error e) => (s2, .error e)
      | (s2, .ok vs) => (s2, .ok ((code, b) :: vs))

/-! ### A tile's rows -/

/-- A tile that moves: its handle, origin, extent, its scratchpad byte address in the device, and the level at which it
is translated, with the operation. -/
structure Tile where
  h : Handle
  origin : Dword
  extent : Dword
  addr : Nat
  via : Via
  deriving DecidableEq, Repr

/-- The tile that an operation carries. -/
def FarOp.tileOf (f : FarOp) : Tile :=
  { h := Vector.ofFn (fun (k : Fin 8) => f.tile.getD k.val 0), origin := f.tile.getD 8 0, extent := f.tile.getD 9 0,
    addr := (f.tile.getD 10 0).toNat, via := { lvl := f.level, id := some f.id } }

/-- Sizes of a tile, outermost first. -/
def Tile.sizes (t : Tile) : List Nat := extentOf t.h t.extent
/-- Number of rows of a tile; none when a component is zero. -/
def Tile.rowCount (t : Tile) : Nat := if t.sizes.contains 0 then 0 else t.sizes.dropLast.foldl (fun a b => a * b) 1
/-- Elements in a row. -/
def Tile.inner (t : Tile) : Nat := t.sizes.getLastD 0
/-- Coordinates in the tensor of row `n`. -/
def Tile.outer (t : Tile) (n : Nat) : List Nat :=
  (List.range (t.sizes.length - 1)).map (fun j => comp t.origin j + (rowCoords t.sizes.dropLast n).getD j 0)
/-- First innermost coordinate of the tile. -/
def Tile.first (t : Tile) : Nat := comp t.origin (t.sizes.length - 1)
/-- Element width. -/
def Tile.width (t : Tile) : Nat := elemWidth (hFmt t.h)
/-- Byte address in the device's scratchpad of row `n`. -/
def Tile.rowAt (t : Tile) (n : Nat) : Nat := t.addr + bitOffset t.width (hSpitch t.h) t.inner n 0 / 8

/-- Codes packed into a number, the first lowest (R91). -/
def packCodes (w : Nat) : List Nat → Nat
  | [] => 0
  | v :: vs => v + 2 ^ w * packCodes w vs

/-- Move row `n` of a tile into scratchpad (R217), with the poison of its elements (R361). -/
def State.rowIn (s : State) (u : UnitId) (t : Tile) (n : Nat) : State × Except (Xerr × Nat) Unit :=
  match s.rowElements u t.via t.h (t.outer n) t.inner t.first with
  | (s1, .error e) => (s1, .error e)
  | (s1, .ok vs) =>
    let w := t.width
    let len := w * t.inner / 8
    let a := t.rowAt n
    let badWords := ((List.range t.inner).filter (fun k => (vs.getD k (0, false)).2)).flatMap (fun k =>
      (List.range ((w + 7) / 8 + 1)).map (fun j => (a + min (w * k / 8 + j) ((w * k + w - 1) / 8)) / 4))
    let whole (x : Nat) : Bool := decide (a ≤ 4 * x) && decide (4 * x + 4 ≤ a + len)
    ({ s1 with scratch := s1.scratch.putBytes a (leBytes len (packCodes w (vs.map (fun v => v.1)))),
               scratchPoison := (badWords ++ s1.scratchPoison.filter (fun x => !whole x)).dedup }, .ok ())

/-- Bits that a tile writes into one byte of virtual memory, with the poison that they carry (R217, R361). -/
structure BitPiece where
  va : Nat
  lo : Nat
  width : Nat
  v : Nat
  bad : Bool
  deriving DecidableEq, Repr

/-- The pieces of `w` bits with value `v` at bit `o` of an array at virtual address `base`, byte by byte, with fuel for the bytes. -/
def piecesOf (base : Nat) (bad : Bool) : Nat → Nat → Nat → Nat → List BitPiece
  | 0, _, _, _ => []
  | fuel + 1, o, w, v =>
    if w = 0 then []
    else
      let k := min w (8 - o % 8)
      { va := base + o / 8, lo := o % 8, width := k, v := v % 2 ^ k, bad := bad } :: piecesOf base bad fuel (o + k) (w - k) (v / 2 ^ k)

/-- Bit offset in its dense tensor of an element of row `n` of a tile. -/
def Tile.tensorBit (t : Tile) (n k : Nat) : Nat :=
  let bounds := (List.range (hRank t.h)).map (hBound t.h)
  bitOffset t.width (hPitch t.h) (bounds.getLastD 0) (rowMajor (t.outer n) bounds.dropLast 0) (t.first + k)

/-- What row `n` of a tile writes into its tensor (R217): its elements within the bounds, from scratchpad. -/
def State.outPieces (s : State) (t : Tile) (n : Nat) : List BitPiece :=
  let bounds := (List.range (hRank t.h)).map (hBound t.h)
  let w := t.width
  let a := t.rowAt n
  (List.range t.inner).flatMap (fun k =>
    if ((t.outer n ++ [t.first + k]).zip bounds).any (fun x => decide (x.2 ≤ x.1)) then []
    else
      let from_ := a + w * k / 8
      let len := (w * k % 8 + w + 7) / 8
      piecesOf (hField t.h 3) (s.scratchBad from_ len) 6 (t.tensorBit n k) w (leNat (s.scratch.bytes from_ len) / 2 ^ (w * k % 8) % 2 ^ w))

/-- The translations of the bytes that pieces write, in order; the first failure ends them, with its address. -/
def State.placePieces (s : State) (u : UnitId) (via : Via) : List BitPiece → State × Except (Xerr × Nat) (List (BitPiece × Xlat))
  | [] => (s, .ok [])
  | p :: ps =>
    match addressCheck (p.va : Int) 1 with
    | some c => (s, .error ({ cause := c, gpa := 0 }, p.va))
    | none =>
      match s.accessVia u via (needW via.lvl) p.va with
      | (s1, .error e) => (s1, .error (e, p.va))
      | (s1, .ok x) =>
        match s1.placePieces u via ps with
        | (s2, .error e) => (s2, .error e)
        | (s2, .ok xs) => (s2, .ok ((p, x) :: xs))

/-- A byte with a piece of it written. -/
def BitPiece.into (p : BitPiece) (b : Byte) : Byte :=
  BitVec.ofNat 8 (b.toNat % 2 ^ p.lo + 2 ^ p.lo * p.v + 2 ^ (p.lo + p.width) * (b.toNat / 2 ^ (p.lo + p.width)))

/-- The lines that placed pieces write. -/
def linesOf (xs : List (BitPiece × Xlat)) : List Nat := (xs.map (fun x => x.2.pa / 64)).dedup

/-- Placed pieces are performed at the home, and what the troupe's buffers hold of their lines before them (R118). A line that they
cover whole loses its poison (R360), and one that takes a poisoned element gets it (R361). -/
def State.putPieces (s : State) (u : UnitId) (xs : List (BitPiece × Xlat)) : State :=
  let ls := linesOf xs
  let s1 := match s.troupeOf u with | some (_, t) => ls.foldl (fun (y : State) l => y.drainLine t l) s | none => s
  let s2 := xs.foldl (fun (y : State) (x : BitPiece × Xlat) =>
    { y.dirty x.2 with mem := y.mem.write x.2.pa (x.1.into (y.mem.read x.2.pa)) }) s1
  let whole (l : Nat) : Bool := decide (512 ≤ (((xs.filter (fun x => decide (x.2.pa / 64 = l))).map (fun x => (x.2.pa, x.1.lo, x.1.width))).dedup.map (fun x => x.2.2)).sum)
  let bad := ls.filter (fun l => xs.any (fun x => x.1.bad && decide (x.2.pa / 64 = l)))
  { s2 with poison := (bad ++ s2.poison.filter (fun l => !(ls.contains l && whole l))).dedup }

/-- The bytes that placed pieces would leave, for loads of the troupe while a page move holds them (R125); the last write of a byte
first. -/
def State.shownBy (s : State) (k : Nat) (t : Troupe) (xs : List (BitPiece × Xlat)) : List (Nat × Byte) :=
  xs.foldl (fun (l : List (Nat × Byte)) (x : BitPiece × Xlat) => (x.2.pa, x.1.into ((l.lookup x.2.pa).getD (s.troupeByte k t x.2.pa))) :: l) []

/-- The aligned 4-byte words of scratchpad that row `n` of a tile takes, and those of its dense tensor: the first and the last. -/
def Tile.span (t : Tile) (n : Nat) : (Nat × Nat) × (Nat × Nat) :=
  ((t.rowAt n / 4, (t.rowAt n + t.width * t.inner / 8 - 1) / 4),
   ((hField t.h 3 + t.tensorBit n 0 / 8) / 4, (hField t.h 3 + (t.tensorBit n (t.inner - 1) + t.width - 1) / 8) / 4))

/-- Whether two rows of a dense tile share an aligned 4-byte word, in scratchpad or in the tensor. -/
def Tile.joined (t : Tile) (n k : Nat) : Bool :=
  let meets (x y : Nat × Nat) : Bool := decide (x.1 ≤ y.2) && decide (y.1 ≤ x.2)
  meets (t.span n).1 (t.span k).1 || meets (t.span n).2 (t.span k).2

/-- Of `m` rows from row `n` on, how many move with the first `c`, with fuel for the rows that join them. -/
def Tile.chunkFrom (t : Tile) (m n : Nat) : Nat → Nat → Nat
  | 0, c => c
  | f + 1, c =>
    match (List.range m).reverse.find? (fun k => decide (c ≤ k) && (List.range c).any (fun j => t.joined (n + j) (n + k))) with
    | some k => t.chunkFrom m n f (k + 1)
    | none => c

/-- The number of rows from row `n` on that move at once, of `m` that are left: rows that share a word move together, since the word is
written and read whole (R128); the rows of a tile that is not dense share the words of VALS, and all move together. -/
def Tile.chunk (t : Tile) (m n : Nat) : Nat := if m = 0 then 0 else if hDense t.h then t.chunkFrom m n m 1 else m

/-- Move `m` rows of a tile into scratchpad, from row `n` on (R217); a word that they cover whole loses its poison (R360). -/
def State.rowsInFrom (s : State) (u : UnitId) (t : Tile) : Nat → Nat → State × Except (Xerr × Nat) Unit
  | 0, _ => (s, .ok ())
  | m + 1, n =>
    match s.rowIn u t n with
    | (s1, .error e) => (s1, .error e)
    | (s1, .ok _) => s1.rowsInFrom u t m (n + 1)

/-- The words of scratchpad that `m` rows of a tile cover whole between them. -/
def Tile.covers (t : Tile) (m n x : Nat) : Bool :=
  (List.range 4).all (fun j => (List.range m).any (fun r =>
    decide (t.rowAt (n + r) ≤ 4 * x + j) && decide (4 * x + j < t.rowAt (n + r) + t.width * t.inner / 8)))

/-- Move `m` rows of a tile into scratchpad at once. -/
def State.rowsIn (s : State) (u : UnitId) (t : Tile) (m n : Nat) : State × Except (Xerr × Nat) Unit :=
  { s with scratchPoison := s.scratchPoison.filter (fun x => !(decide (1 < m) && t.covers m n x)) }.rowsInFrom u t m n

/-- Whether every row of a tile translates: the rows are gone through without effect on tensor or scratchpad. -/
def State.tryRows (s : State) (u : UnitId) (t : Tile) (out : Bool) : Nat → Nat → State × Except (Xerr × Nat) Unit
  | 0, _ => (s, .ok ())
  | m + 1, n =>
    if out then
      match s.placePieces u t.via (s.outPieces t n) with
      | (s1, .error e) => (s1, .error e)
      | (s1, .ok _) => s1.tryRows u t out m (n + 1)
    else
      match s.rowElements u t.via t.h (t.outer n) t.inner t.first with
      | (s1, .error e) => (s1, .error e)
      | (s1, .ok _) => s1.tryRows u t out m (n + 1)

/-! ### TLD and TST (R217) -/

/-- Whether a region of a troupe's scratchpad leaves it or enters a reserved area (R78, R113). A tile's region runs to the end of
its last row, with the bytes between rows under SPITCH (log entry 65). -/
def Troupe.regionBad (t : Troupe) (a len : Nat) : Bool :=
  decide (0 < len) && (decide (t.scratchSize < a + len) || decide (a % 2 ^ 20 + len > 0xFF000))

/-- A tile word (R217): the checks at issue, then an operation of the feeders counted in cnt.t. -/
def tileWord (x : Instr) (out : Bool) (a b : Reg) (h : BitVec 4) (s : State) : Result :=
  s.withCur (fun i c =>
    match s.troupeOf s.cur.turn.unit with
    | none => s
    | some (_, t) =>
      if i.em = 0#32 then s
      else
        let hd := c.handle h
        let origin := c.rdS i b
        let extent := c.rdS i (b + 1)
        let addr := (c.rdS i a).toNat
        let e := extentOf hd extent
        let len := if e.contains 0 then 0 else tileBytes (elemWidth (hFmt hd)) (hSpitch hd) e
        if !hLegal hd || (out && !hDense hd) || !tileFits hd origin extent then s.raise .handleInvalid
        else if addr % 64 ≠ 0 then s.raise .misaligned
        else if t.regionBad addr len then s.raise .scratchBounds
        else
          let f : FarOp :=
            { s.newFar i c x .t with tile := hd.toList ++ [origin, extent, BitVec.ofNat 64 (t.scratchAddr addr)] }
          { s with fars := s.fars ++ [f] }.later { kind := .tileCopyComplete, unit := f.unit, id := f.id })

/-- TLD (R217). -/
def execTld (a b : Reg) (h : BitVec 4) (s : State) : Result := tileWord (.tld a b h) false a b h s

/-- TST (R217). -/
def execTst (a b : Reg) (h : BitVec 4) (s : State) : Result := tileWord (.tst a b h) true a b h s

/-- A stagehand's instruction of `len` bytes is complete, and the next may issue at cycle `at_` (R260). -/
def Hand.proceed (h : Hand) (at_ len : Nat) : Hand :=
  { h with pc := h.pc + BitVec.ofNat 32 len, minstret := h.minstret + 1, held := none, asleep := false, readyAt := at_ }

/-- Whether a tile operation writes global memory. -/
def tileOut : Instr → Bool
  | .tst .. => true
  | .tcopyOut .. => true
  | _ => false

/-- The fault of a tile operation: a whole-path fault of a cast (R217, R403), and for a stagehand the event by which
Proscenium repairs it (R359). -/
def State.tileFault (s : State) (f : FarOp) (e : Xerr × Nat) : State :=
  match f.unit with
  | .cast _ _ _ => (s.wholeFault f e.2 e.1).dropFar f.id
  | _ => s.soon { kind := .stagehandTranslationFault, unit := f.unit, id := f.id, a := e.2, b := e.1.cause.code, c := e.1.gpa }

/-- Whether a tile operation waits for older accesses of its unit: until all are checked against their final translation (R142);
of its own path until a write's older reads have performed (R134), and whatever shares a page of memory with it (R133; log entry
66); and while the clock of a home, or of the quadrant that holds its scratchpad region, is stopped (R332). -/
def State.tileWaits (s : State) (f : FarOp) : Bool :=
  let mine := f.pages.map (fun (p : Nat × Xlat) => p.2.pa / 4096)
  s.stopped.contains (f.tileOf.addr / 2 ^ 20) || (!s.stopped.isEmpty && mine.any (fun p => (List.range 64).any (fun j => s.homeStops (4096 * p + 64 * j)))) || s.fars.any (fun o => decide (o.unit = f.unit) && decide (o.id < f.id) && o.unperformed &&
    (!o.final || (decide (o.pid = f.pid) &&
      ((tileOut f.instr && readsMemory o.instr) || o.onPages mine || o.pages.any (fun (p : Nat × Xlat) => mine.contains (p.2.pa / 4096))))))

/-- What is left of a tile that goes out is held, when a page that it writes is moving (R125): it is unperformed, and no longer checked
against its final translation (R116, R354). -/
def State.holdTile (s : State) (f : FarOp) (k : Nat) (t : Troupe) : Option State :=
  let tl := f.tileOf
  match s.placePieces f.unit tl.via ((List.range (tl.rowCount - f.rows)).flatMap (fun r => s.outPieces tl (f.rows + r))) with
  | (_, .error _) => none
  | (s1, .ok xs) =>
    if xs.any (fun x => s1.movingAt x.2.pa) then
      some (s1.onFar f.id (fun g => { g with checked := false, moving := true, shown := s1.shownBy k t xs, lines := linesOf xs }))
    else none

/-- Rows of a tile go out to the tensor at once, when no page move holds them (R125) and no held write stands before them. -/
def State.sendRows (s : State) (f : FarOp) (m : Nat) (again : State → State) (moved : State → State) : State :=
  let tl := f.tileOf
  let ps := (List.range m).flatMap (fun r => s.outPieces tl (f.rows + r))
  match s.placePieces f.unit tl.via ps with
  | (s1, .error e) => s1.tileFault f e
  | (s1, .ok xs) =>
    if s1.behindHeld f (linesOf xs) then again s1
    else if xs.any (fun x => s1.staleLeaf x.2.one.entry x.2.one.word || s1.staleLeaf x.2.two.entry x.2.two.word) then
      -- the walker drops the leaf and walks again (R353)
      again ({ s1 with tlb := s1.tlb.filter (fun y => !(xs.any (fun x => decide (x.2.one.entry = y.one.entry)))) }.onFar f.id (fun g => { g with checked := false, pages := [] }))
    else moved ((s1.putPieces f.unit xs).onFar f.id (fun g => { g with shown := [], lines := [] }))

/-- Bytes of stored elements of a handle and the bytes that so cross die-to-die links between a core and the homes of their lines, each
once for every link (R19, R299), by the translations that the fetch has cached. -/
def State.countCells (s : State) (u : UnitId) (via : Via) (h : Handle) (cells : List (List Nat)) : State :=
  let v := s.vdiOf u
  let w := elemWidth (hFmt h)
  let bounds := (List.range (hRank h)).map (hBound h)
  let inside := cells.filter (fun xs => !(xs.zip bounds).any (fun x => decide (x.2 ≤ x.1)))
  let stored := inside.filterMap (fun xs => if hDense h then some (bitOffset w (hPitch h) (bounds.getLastD 0) (rowMajor xs.dropLast bounds.dropLast 0) (xs.getLastD 0))
    else match (s.valueIndex u via h xs).2 with | .ok (some n, _) => some (w * n) | _ => none)
  let links (b : Nat) : Nat :=
    let va := (hField h 3 + b / 8) % 2 ^ 57
    match s.tlb.find? (fun t => decide (t.vdi = v) && t.one.holds va) with
    | some t => match t.two with | some l => w * (routeOf (dieOf u.place.1) (homeSlice (l.apply (t.one.apply va)) / 4)).links | none => 0
    | none => 0
  ((s.count v 33 ((w * stored.length + 7) / 8)).count v 36 (((stored.map links).sum + 7) / 8)).countMoved v

/-- Bytes of a tile's rows that cross die-to-die links between its core and the homes of their lines, each once for every link (R19,
R299): of the elements that the tensor stores. -/
def State.tileLinks (s : State) (f : FarOp) (t : Tile) (m : Nat) : Nat :=
  let die := dieOf f.unit.place.1
  let bounds := (List.range (hRank t.h)).map (hBound t.h)
  let bitsOf (r k : Nat) : Nat :=
    let xs := t.outer r ++ [t.first + k]
    if (xs.zip bounds).any (fun x => decide (x.2 ≤ x.1)) then 0
    else
      let o := if hDense t.h then some (t.tensorBit r k) else
        match (s.valueIndex f.unit t.via t.h xs).2 with | .ok (some n, _) => some (t.width * n) | _ => none
      match o with
      | none => 0
      | some b =>
        let va := hField t.h 3 + b / 8
        match f.pages.lookup (va % 2 ^ 57 / 4096) with
        | some x => t.width * (routeOf die (homeSlice (x.pa + va % 4096) / 4)).links
        | none => 0
  (((List.range m).map (fun r => ((List.range t.inner).map (bitsOf (f.rows + r))).sum)).sum + 7) / 8

/-- A tile operation goes on (R217, R265): once the cast's older far accesses are checked (R142) its translations are
gone through; then its rows move, those that share a word at once (R128), and with the last row the operation leaves its counter. -/
def execTileCopyComplete (s : State) : Result :=
  match s.fars.find? (fun f => decide (f.id = s.ev.id)), s.fars.findSome? (fun f => if f.id = s.ev.id then s.troupeOf f.unit else none) with
  | some f, some (k, tr) =>
    let t := f.tileOf
    let out := tileOut f.instr
    let again (x : State) : State := x.later s.ev
    let awake (x : State) : State := x.onHand f.unit (fun h => if h.asleep ∧ h.tag = f.id then h.proceed (s.cycle + 1) 4 else h)
    if f.performed || f.moving || laneWise f.instr then .next s
    else if t.rowCount = 0 then .next (awake (s.finishFar f.id))
    else if !f.checked then
      if s.olderUnchecked f then .next (again s)
      else match s.tryRows f.unit t out t.rowCount 0 with
        | (s1, .error e) => .next (s1.tileFault f e)
        | (s1, .ok _) =>
          match (if out && s1.moves ≠ [] then s1.holdTile f k tr else none) with
          | some s2 => .next (awake s2)
          | none => .next (again (awake (s1.onFar f.id (fun g => { g with checked := true }))))
    else if s.tileWaits f then .next (again s)
    else
      let m := t.chunk (t.rowCount - f.rows) f.rows
      let bytes := m * (t.width * t.inner / 8)
      let moved (x : State) : State :=
        let v := x.vdiOf f.unit
        let y := (((((x.count v 32 bytes).count v 33 bytes).count v 36 (x.tileLinks f t m)).countMoved v).passOlder f).onFar f.id (fun g => { g with rows := g.rows + m })
        if t.rowCount ≤ f.rows + m then y.finishFar f.id else again y
      if out then .next (s.sendRows f m again moved)
      else
        match s.rowsIn f.unit t m f.rows with
        | (s1, .error e) => .next (s1.tileFault f e)
        | (s1, .ok _) => .next (moved s1)
  | _, _ => .next s

end Sys2Proof.Machine
end

