-- ==== Sys2Proof/Machine/Nest.lean ====
section
/-! DEFINITION. The Nest Release Unit: nest records and their refusal (R38 to R42, R58), launch queue, slots and handles
(R43, R44), rows and the frontier table (R45 to R48), the release test (R49, R50), retirement (R51, R56), growth (R53),
completion (R54), spawn nests (R58 to R60); semaphores and bins as casts use them (R219, R220). -/

namespace Sys2Proof.Machine

/-! ### Nest records (R38 to R42) -/

/-- NCTL of a record (R39). -/
def nctl (r : List Byte) : Nat := (recWord r 0).toNat
/-- Number of levels. -/
def nLevels (r : List Byte) : Nat := bits (nctl r) 0 2 + 1
/-- Number of dependence vectors. -/
def nDeps (r : List Byte) : Nat := bits (nctl r) 4 4
/-- GROW. -/
def nGrow (r : List Byte) : Bool := decide (bits (nctl r) 8 1 = 1)
/-- SPN. -/
def nSpawn (r : List Byte) : Bool := decide (bits (nctl r) 9 1 = 1)
/-- SHAPE. -/
def nShape (r : List Byte) : Nat := bits (nctl r) 10 2
/-- Gang size. -/
def nGang (r : List Byte) : Nat := bits (nctl r) 12 3 + 1
/-- CUE. -/
def nCue (r : List Byte) : Bool := decide (bits (nctl r) 15 1 = 1)
/-- DSEM, when DSEMEN is set. -/
def nDsem (r : List Byte) : Option Nat := if bits (nctl r) 35 1 = 1 then some (bits (nctl r) 36 12) else none
/-- Lower bound word of level `k` (R38). -/
def nLb (r : List Byte) (k : Nat) : Nat := (recWord r (1 + 2 * k)).toNat
/-- Upper bound word of level `k`. -/
def nUb (r : List Byte) (k : Nat) : Nat := (recWord r (2 + 2 * k)).toNat
/-- CELL. -/
def nCell (r : List Byte) : Nat := (recWord r 9).toNat
/-- A 4-byte field of a record. -/
def recHalf (r : List Byte) (off : Nat) : Nat := leNat ((r.drop off).take 4)
/-- Dependence word `n` (R41). -/
def nDep (r : List Byte) (n : Nat) : Nat := recHalf r (0x50 + 4 * n)
/-- CENT, QENT, RENT and SENT. -/
def nCent (r : List Byte) : Nat := recHalf r 0x70
/-- QENT. -/
def nQent (r : List Byte) : Nat := recHalf r 0x74
/-- RENT. -/
def nRent (r : List Byte) : Nat := recHalf r 0x78
/-- SENT. -/
def nSent (r : List Byte) : Nat := recHalf r 0x7C
/-- ARG `k`. -/
def nArg (r : List Byte) (k : Nat) : Dword := recWord r (16 + k)

/-- The constant C of a bound word (R40). -/
def boundC (w : Nat) : Int := (BitVec.ofNat 32 w).toInt
/-- Coefficient A`m` of a bound word (R40). -/
def boundA (w m : Nat) : Int := (BitVec.ofNat 4 (bits w (32 + 4 * m) 4)).toInt
/-- The exact value of a bound at outer indices (R40). -/
def boundValue (w : Nat) (p : List Int) : Int :=
  boundC w + ((List.range 3).map (fun m => boundA w m * p.getD m 0)).sum
/-- Component `m` of a dependence word (R41). -/
def depComp (w m : Nat) : Int := (BitVec.ofNat 5 (bits w (5 * m) 5)).toInt

/-- Whether a bound word of level `k` obeys R40 and R42, for a share of `bins` bins. -/
def boundLegal (w k lv binShare : Nat) : Bool :=
  if lv ≤ k then decide (w = 0)
  else
    decide (bits w 56 7 = 0) && (decide (bits w 63 1 = 1) || decide (bits w 44 12 = 0)) &&
      (List.range 3).all (fun m => decide (m < k) || decide (boundA w m = 0)) &&
      (decide (bits w 63 1 = 0) || decide (bits w 44 12 < binShare))

/-- Whether a dependence word in use obeys R41. -/
def depLegal (w lv : Nat) : Bool :=
  let cs := (List.range 4).map (depComp w)
  decide (bits w 20 12 = 0) && cs.all (fun c => decide (-8 ≤ c ∧ c ≤ 8)) && (cs.drop lv).all (fun c => decide (c = 0)) &&
    (match cs.find? (fun c => decide (c ≠ 0)) with | some c => decide (0 < c) | none => false)

/-- Whether the Nest Release Unit accepts a record (R38 to R42, R53, R58). -/
def nestLegal (v : Vdi) (addr : Nat) (r : List Byte) : Bool :=
  let lv := nLevels r
  let c := nctl r
  decide (addr % 64 = 0) && decide (bits c 48 16 = 0) && decide (bits c 16 19 = 0) && decide (bits c 2 2 = 0) &&
    decide (nDeps r ≤ 8) && (r.drop 0xC0).all (fun b => decide (b = 0#8)) &&
    (List.range 4).all (fun k => boundLegal (nLb r k) k lv v.img.binShare && boundLegal (nUb r k) k lv v.img.binShare) &&
    (!nGrow r || decide (nUb r 0 = 0)) && (nGrow r || nSpawn r || decide (nCell r = 0)) &&
    (!nGrow r || decide (nCell r % 4 = 0)) &&
    (List.range 8).all (fun n => if n < nDeps r then depLegal (nDep r n) lv else decide (nDep r n = 0)) &&
    (!nSpawn r || (decide (lv = 1) && decide (nDeps r = 0) && !nGrow r && decide (nLb r 0 = 0) && decide (1 ≤ boundC (nUb r 0)) &&
      decide (nCell r % 8 = 0))) &&
    (match nDsem r with | some d => decide (d < v.img.semShare) | none => true)

/-! ### Presenting a record (R43) -/

/-- What becomes of a presented record. -/
inductive Presented where
  | refused | full | accepted
  deriving DecidableEq, Repr

/-- Present a nest record to the unit (R42, R43). -/
def State.presentNest (s : State) (vdi addr : Nat) (r : List Byte) : State × Presented :=
  match s.vdis.find vdi with
  | none => (s, .refused)
  | some v =>
    if !nestLegal v addr r then (s, .refused)
    else if 64 ≤ v.launches.length then (s, .full)
    else
      ((s.onVdi vdi (fun x => { x with launches := x.launches ++ [{ record := r, addr := BitVec.ofNat 64 addr }] })).soon
        { kind := .nestSlotEntry, a := vdi }, .accepted)

/-- NEST.LAUNCH (R220): a release, then the record is read, once, and presented; the path is held until it is accepted, and a
refused record traps, with no word of its group having an effect (R339): the word leads its group. A poisoned record is refused
(R361); a walk that meets a poisoned table entry faults. Of an address that is misaligned and does not translate the spec does not
say which comes first; the model refuses it unread (log entry 68). -/
def execNestLaunch (a : Reg) (s : State) : Result :=
  s.withCur (fun i c =>
    let x : Instr := .nestLaunch a
    let u := s.cur.turn.unit
    let vals := s.sources c [a]
    let va := (nth vals 0).toNat
    if i.em = 0#32 then s
    else if vals.length ≤ 1 then
      s.released x 2 vals (fun s1 => (s1.later { kind := .recordPresented, unit := u, id := s.cur.tag }).holdPath x vals true)
    else if va % 64 ≠ 0 then s.raise .nestBound
    else
      let present (s1 : State) (r : List Byte) : State :=
        match s1.presentNest (s.vdiOf u) va r with
        | (s2, .refused) => s2.raise .nestBound
        | (s2, .full) => s2.holdPath x (vals.take 2 ++ (List.range 32).map (recWord r)) false
        | (s2, .accepted) => s2
      if 2 < vals.length then present s ((vals.drop 2).flatMap (fun w => leBytes 8 w.toNat))
      else
        match s.readBase (s.vdiOf u) (c.path i.slotB).plvl 40 va 256 with
        | (s1, .error (e, at_)) => if e.data then s1.raise .nestBound else s1.faultHere i c x at_ e
        | (s1, .ok r) => present s1 r)

/-! ### Bounds and rows (R45, R46) -/

/-- Lower bound of level `k` at outer indices. -/
def Nest.lower (n : Nest) (k : Nat) (p : List Int) : Int := boundValue (nLb n.record k) p
/-- Upper bound of level `k` at outer indices; level 0 of a GROW nest has the unit's current bound (R45). -/
def Nest.upper (n : Nest) (k : Nat) (p : List Int) : Int :=
  if k = 0 ∧ nGrow n.record then n.bound else boundValue (nUb n.record k) p

/-- Whether a bound's value is in range (R40). -/
def inRange32 (x : Int) : Bool := decide (-2 ^ 31 ≤ x) && decide (x < 2 ^ 31)

/-- A bound that is out of range: i0 of the row, and the value (R347, R350). -/
abbrev OutOfRange := Int × Int

/-- Both bounds of level `k`, in range (R40). The record of a nest that a bound stops holds i0 of the row; where there is no row
yet, at level 0, the spec names no position and the model gives 0, and of two bounds out of range it reports the lower one (log
entry 69). -/
def Nest.range (n : Nest) (k : Nat) (p : List Int) : Except OutOfRange (Int × Int) :=
  let lo := n.lower k p
  let hi := n.upper k p
  if !inRange32 lo then .error (p.headD 0, lo) else if !inRange32 hi then .error (p.headD 0, hi) else .ok (lo, hi)

/-- The lowest key at or below outer indices `p`, or the indices below which a level is empty (R46), with fuel for the
levels; the flag says that the key is whole. -/
def Nest.descend (n : Nest) : Nat → List Int → Except OutOfRange (List Int × Bool)
  | 0, p => .ok (p, true)
  | f + 1, p =>
    if nLevels n.record ≤ p.length + 1 then .ok (p, true)
    else
      match n.range p.length p with
      | .error e => .error e
      | .ok (lo, hi) => if lo < hi then n.descend f (p ++ [lo]) else .ok (p, false)

/-- The next outer indices after those given, last index first. -/
def Nest.successor (n : Nest) : List Int → Except OutOfRange (Option (List Int))
  | [] => .ok none
  | x :: rest =>
    let p := rest.reverse
    match n.range rest.length p with
    | .error e => .error e
    | .ok (_, hi) => if x + 1 < hi then .ok (some (p ++ [x + 1])) else n.successor rest

/-- The key that the unit examines next (R46), or outer indices below which a level is empty. -/
def Nest.candidate (n : Nest) : Except OutOfRange (Option (List Int × Bool)) :=
  if nSpawn n.record then .ok none
  else
    let next : Except OutOfRange (Option (List Int)) :=
      match n.seek with
      | none => .ok (some [])
      | some p => n.successor p.reverse
    match next with
    | .error e => .error e
    | .ok none => .ok none
    | .ok (some p) =>
      match n.descend 4 p with
      | .error e => .error e
      | .ok c => .ok (some c)

/-- Lexicographic order of keys. -/
def keyLess : List Int → List Int → Bool
  | x :: xs, y :: ys => decide (x < y) || (decide (x = y) && keyLess xs ys)
  | [], _ :: _ => true
  | _, [] => false

/-- Whether a point lies in the space, on exact bounds (R45). -/
def Nest.inSpace (n : Nest) (q : List Int) : Bool :=
  (List.range (nLevels n.record)).all (fun k =>
    let x := q.getD k 0
    decide (n.lower k (q.take k) ≤ x) && decide (x < n.upper k (q.take k)))

/-- The row of a point. -/
def Nest.rowOf (n : Nest) (p : List Int) : Option Row := n.rows.find? (fun r => decide (r.key = p.dropLast))

/-- Change the row of a point. -/
def Nest.onRow (n : Nest) (p : List Int) (f : Row → Row) : Nest :=
  { n with rows := n.rows.map (fun r => if r.key = p.dropLast then f r else r) }

/-- Drop the closed entries that no older occupied entry precedes (R48). -/
def Nest.dropClosed (n : Nest) : Nest := { n with rows := n.rows.dropWhile (fun r => decide (r.state = 3#2)) }

/-- Whether a row's points have all retired; a spawn nest's row closes once the nest is closed (R48, R58, R60). -/
def Nest.rowDone (n : Nest) (r : Row) : Bool :=
  decide (r.state = 2#2) && decide ((r.p : Int) = r.hi - r.lo) && (!nSpawn n.record || n.closed)

/-- Close the rows whose points have all retired, and drop (R51). -/
def Nest.closeRows (n : Nest) : Nest :=
  ({ n with rows := n.rows.map (fun r => if n.rowDone r then { r with state := 3 } else r) } : Nest).dropClosed

/-- Shift a window over the points that have retired (R51), with fuel for its 64 bits. -/
def shiftWindow : Nat → Nat → BitVec 64 → Nat × BitVec 64
  | 0, p, w => (p, w)
  | f + 1, p, w => if w.getLsbD 0 then shiftWindow f (p + 1) (w >>> 1) else (p, w)

/-- A retirement in the frontier table (R51). -/
def Nest.retire (n : Nest) (pt : List Int) : Nest :=
  let x := pt.getLastD 0
  (n.onRow pt (fun r =>
    let w := r.win ||| (1#64 <<< (x - r.lo - r.p).toNat)
    let (p, w2) := shiftWindow 64 r.p w
    { r with p := p, win := w2, released := r.released.erase x })).closeRows

/-! ### Completion (R54) -/

/-- Whether no row is to come. -/
def Nest.noMore (n : Nest) : Bool := match n.candidate with | .ok none => true | _ => false

/-- Whether a nest has completed: no row is occupied or to come, no point waits, and a spawn nest is closed. -/
def Nest.complete (n : Nest) : Bool :=
  !n.stopped && n.rows.isEmpty && n.flushed.isEmpty && n.saved.isEmpty && (!nSpawn n.record || n.closed) && n.noMore

/-- Whether points of a nest have left in an image, and with them every point that has not retired, while no row is to come
(R337). -/
def Nest.allGone (n : Nest) : Bool :=
  !n.stopped && !n.gone.isEmpty && n.saved.isEmpty && n.flushed.isEmpty && n.noMore &&
    n.rows.all (fun r =>
      let retired := r.p + ((List.range 64).filter (fun j => r.win.getLsbD j)).length
      decide (r.hi - r.lo ≤ ((retired + (n.gone.filter (fun p => decide (p.dropLast = r.key))).length : Nat) : Int)))

/-- A nest that has completed adds to its semaphore and frees its slot (R54); one whose unretired points have all left frees it
without the addition (R337). -/
def State.settleNest (s : State) (slot : Nat) : State :=
  match s.nests.find slot with
  | none => s
  | some n =>
    if s.points.any (fun p => decide (p.slot = slot)) then s
    else if n.complete && n.gone.isEmpty then
      let s1 := match nDsem n.record, s.vdis.find n.vdi with
        | some d, some v => s.semAdd (v.img.semBase + d) 1
        | _, _ => s
      s1.freeSlot slot
    else if n.allGone then s.freeSlot slot
    else s

/-! ### Entry into a slot (R43, R44, R53, R282) -/

/-- The nest slots that an interface's next record may enter: none while its share is full (R43). -/
def State.freeSlots (s : State) (v : Nat) (x : Vdi) : List Nat :=
  if x.img.nestSlots ≤ (s.nests.filter (fun (e : Nat × Nest) => decide (e.2.vdi = v))).length then []
  else (List.range 64).filter (fun k => (s.nests.find k).isNone)

/-- Replace the C of a bound word by a count, with FROMBIN clear (R40). -/
def withCount (w : Nat) (count : Nat) : Nat := bits w 32 12 * 2 ^ 32 + count % 2 ^ 32

/-- Substitute bin counts in a record's bound words, `k` of the eight from word 1 on (R40, R43, R282); a count that exceeds
2^31 − 1 ends it. -/
def State.substitute (s : State) (v : Vdi) : List Nat → List Byte → Except Nat (List Byte)
  | [], r => .ok r
  | k :: ks, r =>
    let w := (recWord r k).toNat
    if bits w 63 1 = 0 then s.substitute v ks r
    else
      let count := ((s.bins.find (v.img.binBase + bits w 44 12)).getD 0).toNat
      if 2 ^ 31 - 1 < count then .error count
      else s.substitute v ks (r.take (8 * k) ++ leBytes 8 (withCount w count) ++ r.drop (8 * k + 8))

/-- The slot that a record takes; which of the free slots is open. -/
def State.pickSlot (s : State) (free : List Nat) : Nat := free.getD (Config.pick s.fresh % free.length) 0

/-- A record enters a slot: its generation advances, bin counts are substituted, and a GROW nest's bound cell is read
once (R43, R44, R53). -/
def State.enterSlot (s : State) (vi : Nat) (v : Vdi) (slot : Nat) (l : Launch) : State :=
  let cell := nCell l.record
  let n0 : Nest :=
    { vdi := vi, record := l.record, bound := 0, cap := 0, closed := false, stopped := false, dur := none, rows := [],
      last := none, seek := none, vals := [], top := none, flushed := [], saved := [], olds := [], gone := [] }
  let s1 : State :=
    { s with nests := s.nests.put slot n0, gens := s.gens.setIfInBounds slot (s.gens[slot]?.getD 0 + 1), fresh := s.fresh + 1 }
  match s1.substitute v [1, 2, 3, 4, 5, 6, 7, 8] l.record with
  | .error count => s1.nestFail slot .nestBound 0 (BitVec.ofNat 64 count)
  | .ok r =>
    let n1 : Nest := { n0 with record := r }
    if nSpawn r then
      let n2 : Nest := { n1 with cap := boundC (nUb r 0),
                                 rows := [{ key := [], state := 2, lo := 0, hi := 0, p := 0, win := 0, released := [] }] }
      { s1 with nests := s1.nests.put slot n2 }
    else if nGrow r then
      match s1.readBase vi 1 2 cell 4 with
      | (s2, .error (e, _)) =>
        ({ s2 with nests := s2.nests.put slot n1 }).nestFail slot e.cause 0 (BitVec.ofNat 64 cell)
      | (s2, .ok bs) =>
        { s2 with nests := s2.nests.put slot { n1 with bound := (BitVec.ofNat 32 (leNat bs)).toInt } }
    else { s1 with nests := s1.nests.put slot n1 }

/-- A queued record enters a free slot (R43). -/
def execNestSlotEntry (s : State) : Result :=
  let vi := s.ev.a
  match s.vdis.find vi with
  | none => .next s
  | some v =>
    match v.launches, s.freeSlots vi v with
    | l :: ls, f :: fs =>
      let slot := s.pickSlot (f :: fs)
      let s1 := (s.onVdi vi (fun x => { x with launches := ls })).enterSlot vi v slot l
      .next (if ls.isEmpty then s1 else s1.soon { kind := .nestSlotEntry, a := vi })
    | _, _ => .next s

/-! ### Activation of rows (R46 to R48) -/

/-- The entry that the next row takes: the one after the last row's, of 512. Which free one it is the spec does not say (log
entry 83). -/
def Nest.nextEntry (n : Nest) : Nat := ((n.rows.getLast?).map (fun (r : Row) => (r.entry + 1) % 512)).getD 0

/-- One key is examined: a row whose innermost range is not empty takes a free entry, a key without points is passed over and needs
none, and a bound that is out of range when a row would activate stops the nest (R46, R347). Outer indices below which a level is
empty form no key; the spec does not say what passing them costs, and the model gives them a cycle as it does a key (log entry
83). -/
def execRowActivate (s : State) : Result :=
  let slot := s.ev.a
  match s.nests.find slot with
  | none => .next s
  | some n =>
    let full := decide (512 ≤ n.rows.length)
    if n.stopped then .next s
    else
      match n.candidate with
      | .error (i0, x) => .next (if full then s else s.nestFail slot .nestBound (BitVec.ofInt 64 i0) (BitVec.ofInt 64 x))
      | .ok none => .next (s.settleNest slot)
      | .ok (some (k, false)) => .next (s.onNest slot (fun m => { m with seek := some k }))
      | .ok (some (k, true)) =>
        match n.range (nLevels n.record - 1) k with
        | .error (i0, x) => .next (if full then s else s.nestFail slot .nestBound (BitVec.ofInt 64 i0) (BitVec.ofInt 64 x))
        | .ok (lo, hi) =>
          .next (if hi ≤ lo then s.onNest slot (fun m => { m with seek := some k })
                 else if full then s
                 else s.onNest slot (fun m =>
                   { m with seek := some k, last := some k,
                            rows := m.rows ++ [{ key := k, state := 1, lo := lo, hi := hi, p := 0, win := 0, released := [], entry := m.nextEntry }] }))

/-- Rows that were pending open in the next cycle, and one with no point left closes (R48); points that SPAWN has appended may be
released from then on (R50). -/
def State.openRows (s : State) : State :=
  { s with nests := s.nests.map (fun (e : Nat × Nest) =>
      (e.1, ({ e.2 with appended := 0, rows := e.2.rows.map (fun (r : Row) => if r.state = 1#2 then { r with state := 2 } else r) } : Nest).closeRows)) }

/-! ### The release test (R49) -/

/-- Whether the dependence of a point on `q` is satisfied (R49). -/
def Nest.satisfied (n : Nest) (q : List Int) : Bool :=
  if !n.inSpace q then true
  else
    match n.rows with
    | [] => true
    | oldest :: _ =>
      if keyLess q.dropLast oldest.key then true
      else
        match n.rowOf q with
        | none => false
        | some f =>
          let j := q.getLastD 0 - f.lo
          decide (j < f.p) || (decide (j - f.p ≤ 63) && f.win.getLsbD (j - f.p).toNat)

/-- The dependence vectors in use (R41). -/
def Nest.deps (n : Nest) : List (List Int) :=
  (List.range (nDeps n.record)).map (fun d => (List.range (nLevels n.record)).map (depComp (nDep n.record d)))

/-- The lowest unreleased point of a row that is ready (R49), on the space as it stood at the start of the cycle (R50). -/
def Nest.readyIn (n : Nest) (r : Row) : Option (List Int) :=
  if r.state ≠ 2#2 then none
  else
    ((List.range 64).find? (fun (j : Nat) =>
      let x : Int := r.lo + r.p + j
      decide (x < r.hi - n.appended) && !r.win.getLsbD j && !r.released.contains x &&
        n.deps.all (fun d => n.satisfied ((r.key ++ [x]).zipWith (fun a b => a - b) d)))).map
      (fun (j : Nat) => r.key ++ [r.lo + (r.p : Int) + (j : Int)])

/-- The lexicographically lowest ready point of a nest (R50). -/
def Nest.ready (n : Nest) : Option (List Int) := n.rows.findSome? n.readyIn

/-! ### Placement (R24, R31, R283, R284) -/

/-- The placements of a shape within a core, in the order of R24's table. -/
def shapeQuads (shape : Nat) : List (List Nat) :=
  match shape with
  | 0 => [[0], [1], [2], [3]]
  | 1 => [[0, 1], [2, 3]]
  | 2 => [[0, 2], [1, 3]]
  | _ => [[0, 1, 2, 3]]

/-- The cores of a gang whose member 0 is at a core, when that is a legal layout (R31). -/
def gangCores (core g : Nat) : Option (List Nat) :=
  let e := core / 8 * 8
  let c0 := core % 4
  let r0 := core % 8 / 4
  if g ≤ 4 then (if c0 + g ≤ 4 then some ((List.range g).map (fun j => e + 4 * r0 + c0 + j)) else none)
  else if c0 = 0 ∧ r0 = 0 then some ((List.range g).map (fun j => e + 4 * (j % 2) + j / 2))
  else none

/-- The positions of a partition for a shape and a gang size (R283). -/
def Vdi.positions (v : Vdi) (shape g : Nat) : List (List Nat × List Nat) :=
  v.cores.flatMap (fun c =>
    match gangCores c g with
    | some cs => (shapeQuads shape).map (fun qs => (cs, qs))
    | none => [])

/-- Whether the image's footprint lies in the partition when its origin is at a core (R30). -/
def Vdi.footprintFits (v : Vdi) (core : Nat) : Bool :=
  let m := v.img
  let gx : Int := if m.gangMax ≤ 4 then (m.gangMax - 1 : Nat) else ((m.gangMax - 1) / 2 : Nat)
  let gy : Int := if m.gangMax ≤ 4 then 0 else 1
  let x : Int := coreX core
  let y : Int := coreY core
  decide ((m.x0 : Int) ≤ x + min m.xmin 0) && decide (x + max m.xmax gx < m.x0 + m.w) && decide ((m.y0 : Int) ≤ y + min m.ymin 0) &&
    decide (y + max m.ymax gy < m.y0 + m.h)

/-- Whether a position is free: its quadrants lie in the partition, hold no troupe and are not withheld, and the footprint
fits (R30, R283, R406). -/
def State.positionFree (s : State) (v : Vdi) (p : List Nat × List Nat) : Bool :=
  p.1.all (fun c => v.footprintFits c &&
    p.2.all (fun q => v.hasQuad c q && (s.troupeAt c q).isNone && !v.withheld.any (fun (k : Nat × Nat) => decide (k.1 = quadKey c q))))

/-- The penalty of a core: its temperature band plus its droop band (R284, R333). -/
def State.penalty (s : State) (core : Nat) : Nat :=
  let x := ((s.sensors.find core).getD 0).toNat
  bits x 30 2 + bits x 28 2

/-- The penalty of a position: the largest of its cores (R284). -/
def State.positionPenalty (s : State) (p : List Nat × List Nat) : Nat := (p.1.map s.penalty).foldl max 0

/-- The earliest position of lowest penalty among those offered. -/
def State.bestPosition (s : State) : List (Nat × List Nat × List Nat) → Option (Nat × List Nat × List Nat)
  | [] => none
  | p :: ps =>
    match s.bestPosition ps with
    | none => some p
    | some b => if s.positionPenalty p.2 ≤ s.positionPenalty b.2 then some p else some b

/-- The position for a point of a shape and gang size, with its index (R284). -/
def State.choosePosition (s : State) (v : Vdi) (shape g : Nat) : Option (Nat × List Nat × List Nat) :=
  let ps := v.positions shape g
  let cur := ((v.cursors.find? (fun c => decide (c.1 = shape ∧ c.2.1 = g))).map (fun (c : Nat × Nat × Nat) => c.2.2)).getD 0
  let order := (List.range ps.length).map (fun k => (cur + k) % ps.length)
  let free := order.filterMap (fun k => (ps[k]?).bind (fun p => if s.positionFree v p then some (k, p.1, p.2) else none))
  s.bestPosition (free.take 9)

/-- The cursor after a choice (R284). -/
def Vdi.setCursor (v : Vdi) (shape g k : Nat) : Vdi :=
  let n := (v.positions shape g).length
  { v with cursors := (shape, g, (k + 1) % n) :: v.cursors.filter (fun c => !(decide (c.1 = shape ∧ c.2.1 = g))) }

/-- Whether a tenant's points are held: a budget at or below zero, a partition fault, a suspended save (R301, R363). -/
def Vdi.held (v : Vdi) : Bool := decide (v.timeBudget ≤ 0) || decide (v.energyBudget ≤ 0) || v.partFault || v.saveHold

/-! ### The starting state of a point (R55, R61, R182, R183, R285) -/

/-- What a unit of a placed point is told of it. -/
structure Start where
  record : List Byte
  point : List Int
  member : Nat
  handle : BitVec 16
  /-- The value that a spawned point receives (R59). -/
  spawned : Option Dword
  deriving DecidableEq, Repr

/-- Index `k` of a point, 0 for an absent level. -/
def Start.index (p : Start) (k : Nat) : Dword := BitVec.ofInt 64 (p.point.getD k 0)
/-- Argument `k` of a point; a spawned point receives its value in place of ARG7. -/
def Start.arg (p : Start) (k : Nat) : Dword := if k = 7 then p.spawned.getD (nArg p.record 7) else nArg p.record k
/-- The eight arguments after the four indices. -/
def Start.dwords (p : Start) : List Dword := (List.range 4).map p.index ++ (List.range 8).map p.arg

/-- Set registers one after another from `k` on. -/
def setRegs {n : Nat} (v : Vector Dword n) (k : Nat) : List Dword → Vector Dword n
  | [] => v
  | x :: xs => setRegs (v.setIfInBounds k x) (k + 1) xs

/-- The state of a cast at the start of a point (R55, R61, R246). -/
def castStart (v : Vdi) (p : Start) (number : Nat) : Ctx :=
  { Ctx.zero with
    s := setRegs Ctx.zero.s 0 (p.dwords ++ [BitVec.ofNat 64 number, BitVec.ofNat 64 p.member, p.handle.setWidth 64])
    cctl := v.img.cctl
    sup := { Level.zero with tvec := v.img.stvec.setWidth 32 }
    hyp := { Level.zero with tvec := v.img.htvec.setWidth 32 }
    a := Path.start (4 * nCent p.record)
    nextPid := 2 }

/-- A cast whose entry holds a committed scene takes up from there (R183). -/
def resumeScene (c : Ctx) (e : List Byte) : Ctx :=
  let w0 := (recWord e 0).toNat
  let w1 := (recWord e 1).toNat
  if bits w1 0 1 = 0 then c
  else
    let saves := (List.range (bits w1 4 4)).map (fun k => recWord e (4 + k))
    { c with s := setRegs c.s (bits w1 8 8) saves
             scseq := BitVec.ofNat 32 (recWord e 2).toNat
             a := { c.a with pc := bits w0 0 32, em := BitVec.ofNat 32 (w0 / 2 ^ 32), fm := BitVec.ofNat 32 (w1 / 2 ^ 32) } }

/-- The state of the cue stream at the start of a point (R55); q14 and q15 are open. -/
def cueStart (p : Start) (fresh : Nat) : Ctx :=
  { Ctx.zero with
    s := setRegs Ctx.zero.s 0 (p.dwords ++ [BitVec.ofNat 64 p.member, p.handle.setWidth 64, Config.freeDword fresh, Config.freeDword (fresh + 1)])
    a := if nCue p.record then Path.start (4 * nQent p.record) else Path.none
    nextPid := 2
    ended := !nCue p.record }

/-- A stagehand at the start of a point (R55, R261, R264): registers that the spec does not name are open, and an absent
entry counts as exited. -/
def handStart (v : Vdi) (p : Start) (entry fresh : Nat) (h : Hand) : Hand :=
  let open_ (k : Nat) : Word := Config.freeWord (fresh + k)
  let arg (k : Nat) : Word := (p.index k).setWidth 32
  let six : List Word := [arg 0, arg 1, arg 2, arg 3, BitVec.ofNat 32 p.member, p.handle.setWidth 32]
  let x : Vector Word 32 := Vector.ofFn (fun (k : Fin 32) =>
    if k.val = 0 then 0
    else if 10 ≤ k.val ∧ k.val < 16 then six.getD (k.val - 10) 0
    else match p.spawned with
      | some d => if k.val = 16 then d.setWidth 32 else if k.val = 17 then (d >>> 32).setWidth 32 else open_ k.val
      | none => open_ k.val)
  { h with x := x, pc := BitVec.ofNat 32 entry, data := h.data.putBytes 0 v.img.stagehandData, h := .replicate 16 (.replicate 8 0),
           exited := decide (entry = 0xFFFFFFFF), started := false, readyAt := 0, held := none, asleep := false, poison := [] }

/-- The rings of a body (R119, R285): those of the body whose cast entry is CENT. -/
def ringsOf (v : Vdi) (cent : Nat) : Vector Ring 16 :=
  let ds := ((v.img.bodies.find? (fun b => decide (b.cent = cent))).map (fun (b : BodyRings) => b.rdesc)).getD []
  Vector.ofFn (fun (k : Fin 16) => { Ring.zero with desc := ds.getD k.val 0 })

/-- Install the units of one member troupe in their starting state (R285). -/
def State.startMember (s : State) (v : Vdi) (p : Start) (resume : Nat) (k : Nat) (t : Troupe) : State :=
  let s1 : State := { s with troupes := s.troupes.put k t }
  let s2 := t.casts.foldl (fun (x : State) u =>
    let e := match x.readGuest v (resumeEntry v resume p.member (t.castNumber u)) 128 with | .ok bs => bs | .error _ => []
    x.setCtx u (resumeScene (castStart v p (t.castNumber u)) e)) s1
  let s3 := ({ s2 with fresh := s2.fresh + 2 }).setCtx t.cue (cueStart p s2.fresh)
  t.hands.foldl (fun (x : State) u =>
    let entry := match u with | .rigger _ _ => nRent p.record | _ => nSent p.record
    { x with hands := x.hands.put u (handStart v p entry x.fresh ((x.hands.find u).getD Hand.zero)), fresh := x.fresh + 32 }) s3

/-- Clear VALID in every entry of a point's resume slot (R182). -/
def State.clearResume (s : State) (v : Vdi) (resume members casts : Nat) : State :=
  (List.range (members * casts)).foldl (fun (x : State) k =>
    let gpa := resumeEntry v resume (k / casts) (k % casts) + 8
    match x.readGuest v gpa 1 with
    | .error _ => x
    | .ok bs => match x.writeGuest v gpa [bs.headD 0 &&& 0xFE#8] with | .ok y => y | .error _ => x) s

/-- The troupes of a point at its position, by key and member. -/
def memberTroupes (v : Vdi) (vi slot : Nat) (pt : List Int) (handle : BitVec 16) (old : Option (BitVec 16)) (shape cent : Nat)
    (cores qs : List Nat) : List (Nat × Troupe) :=
  (List.range cores.length).map (fun j =>
    let c := cores.getD j 0
    (quadKey c (qs.headD 0),
     { Troupe.create c qs (BitVec.ofNat 2 shape) vi slot pt j with
        rings := ringsOf v cent, nhnd := handle, oldHandle := old }))

/-- The value of a spawned point: what SPAWN passed, or what its argument array holds (R59); open when that cannot be read. -/
def State.spawnValue (s : State) (n : Nest) (pt : List Int) : Option Dword :=
  if nSpawn n.record then
    let k := (pt.headD 0).toNat
    match n.vals.find k with
    | some d => some d
    | none => match s.readVirtual n.vdi 1 3 (nCell n.record + 8 * k) 8 with
      | (_, .ok bs) => some (BitVec.ofNat 64 (leNat bs))
      | _ => some (Config.freeDword s.fresh)
  else none

/-- Put a point on a position (R285): its quadrants are busy, its units hold their starting state, and they start once the
data stores are loaded. A resume slot is cleared at the first release. -/
def State.startPoint (s : State) (v : Vdi) (slot : Nat) (n : Nest) (pt : List Int) (resume : Nat) (first : Bool)
    (pos : Nat × List Nat × List Nat) : State :=
  let r := n.record
  let handle := s.handleOf slot
  let ts := memberTroupes v n.vdi slot pt handle ((n.olds.find? (fun (o : List Int × BitVec 16) => decide (o.1 = pt))).map (fun (o : List Int × BitVec 16) => o.2)) (nShape r) (nCent r) pos.2.1 pos.2.2
  let s1 := if first then s.clearResume v resume pos.2.1.length (4 * pos.2.2.length) else s
  let s2 := s1.onVdi n.vdi (fun x =>
    { x.setCursor (nShape r) (nGang r) pos.1 with resumes := if first then resume :: x.resumes else x.resumes })
  let s2 : State := { s2 with fresh := s2.fresh + 1 }
  let s3 := ts.foldl (fun (x : State) (e : Nat × Troupe) =>
    x.startMember v { record := r, point := pt, member := e.2.member, handle := handle, spawned := s.spawnValue n pt } resume e.1 e.2) s2
  let p : Point := { slot := slot, point := pt, vdi := n.vdi, members := ts.map (fun (e : Nat × Troupe) => e.1), resume := resume,
                     placedAt := s.cycle, watch := 0, phase := .starting, retireAt := none, valid := [] }
  { s3 with points := s3.points ++ [p], fresh := s3.fresh + 1 }.atCycle (s.cycle + 5 + Config.latency s3.fresh)
    { kind := .stagehandStart, a := p.members.headD 0 }

/-- The resume slots of a partition that no point holds (R296). -/
def Vdi.freeResumes (v : Vdi) : List Nat :=
  (List.range (v.cores.length * v.quads.length + 64)).filter (fun k => !v.resumes.contains k)

/-- Release the next point of a slot, when it can be placed (R50, R295): a flushed point before any other. Which of several flushed
points comes first R295 does not say: the model takes the one that was flushed earliest (log entry 83). -/
def State.releaseOne (s : State) (slot : Nat) : Option State :=
  match s.nests.find slot with
  | none => none
  | some n =>
    match s.vdis.find n.vdi with
    | none => none
    | some v =>
      if n.stopped ∨ v.held then none
      else
        match s.choosePosition v (nShape n.record) (nGang n.record) with
        | none => none
        | some pos =>
          match n.flushed with
          | (pt, resume) :: rest =>
            some ((s.onNest slot (fun m => { m with flushed := rest })).startPoint v slot n pt resume false pos)
          | [] =>
            match n.ready, v.freeResumes with
            | some pt, f :: fs =>
              let resume := (f :: fs).getD (Config.pick s.fresh % (f :: fs).length) f
              let x := pt.getLastD 0
              let s1 := s.onNest slot (fun m =>
                { m.onRow pt (fun r => { r with released := x :: r.released }) with
                  top := match m.top with | none => some x | some y => some (max x y) })
              some ({ s1 with fresh := s1.fresh + 1 }.startPoint v slot n pt resume true pos)
            | _, _ => none

/-- Serve a slot until `k` points have been released or its turn ends; the points released. -/
def releaseSlot (slot : Nat) : Nat → State → State × Nat
  | 0, s => (s, 0)
  | k + 1, s =>
    match s.releaseOne slot with
    | none => (s, 0)
    | some s1 => let (s2, j) := releaseSlot slot k s1; (s2, j + 1)

/-- Examine slots in cyclic order, with the points that may still be released and the last slot served (R50). -/
def releaseSlots : List Nat → Nat → Option Nat → State → State × Option Nat
  | [], _, last, s => (s, last)
  | slot :: more, left, last, s =>
    let (s1, j) := releaseSlot slot left s
    releaseSlots more (left - j) (if j = 0 then last else some slot) s1

/-- Ready points are released round-robin, up to two in a cycle (R50). -/
def execPointRelease (s : State) : Result :=
  let (s1, last) := releaseSlots ((List.range 64).map (fun k => (s.rr + k) % 64)) 2 none s
  .next (match last with | some k => { s1 with rr := (k + 1) % 64 } | none => s1)

/-- Once every data store of the point is loaded, its stagehands start, and in the next cycle its cue streams and casts
(R285); a point that a drain has met before runs too (R290). -/
def execStagehandStart (s : State) : Result :=
  match s.troupes.find s.ev.a with
  | none => .next s
  | some t0 =>
    match s.pointOf t0 with
    | none => .next s
    | some p =>
      let draining := match p.phase with | .draining _ _ => true | _ => false
      if t0.started ∨ (draining = false ∧ p.phase ≠ .starting) then .next s
      -- the start waits for the clocks of the point's quadrants (R332)
      else if p.members.any (fun k => ((s.troupes.find k).map (fun (t : Troupe) => t.quads.any (fun q => s.stopped.contains (quadKey t.core q)))).getD false) then
        .next (s.atCycle (s.cycle + 1) s.ev)
      else
        let one (x : State) (k : Nat) : State :=
          match x.troupes.find k with
          | none => x
          | some t =>
            let x1 := x.onTroupe k (fun y => { y with started := true, startAt := s.cycle })
            let x2 := t.hands.foldl (fun (y : State) u => y.onHand u (fun h => { h with started := true, readyAt := s.cycle })) x1
            let x3 := (t.cue :: t.casts).foldl (fun (y : State) u => y.onCtx u (fun c =>
              { c with a := { c.a with readyAt := s.cycle + 1 }, b := { c.b with readyAt := s.cycle + 1 } })) x2
            t.quads.foldl (fun (y : State) q =>
              y.setQuad (quadKey t.core q) { y.quad (quadKey t.core q) with round := [] }) x3
        .next ((p.members.foldl one s).onPoint p.slot p.point (fun q => { q with phase := if draining then q.phase else .running }))

/-! ### Retirement (R51, R54, R56) -/

/-- Whether a troupe has met the conditions of R56 but for its writes: casts and stagehands have exited, the cue stream has
ended, and every ring is empty. -/
def State.troupeEnded (s : State) (t : Troupe) : Bool :=
  t.started && t.casts.all (fun u => s.exited u) &&
    ((s.ctxs.find t.cue).map (fun (c : Ctx) => c.ended)).getD true &&
    t.hands.all (fun u => ((s.hands.find u).map (fun (h : Hand) => h.exited)).getD true) &&
    t.rings.toList.all (fun r => decide (r.tail = r.freed))

/-- The mean point duration of a slot after a retirement (R288). -/
def meanDuration (dur : Option Nat) (d : Nat) : Nat :=
  match dur with
  | none => d
  | some m => ((m : Int) + Int.tdiv ((d : Int) - m) 8).toNat

/-- A point's retirement is recorded (R51, R56): the frontier table, D, its quadrants, resume slot and posts. -/
def execPointRetire (s : State) : Result :=
  match s.points.find? (fun p => decide (p.slot = s.ev.a) && decide (p.point = s.ev.point)) with
  | none => .next s
  | some p =>
    if p.retireAt = none then .next s
    else
      let s1 := (s.removePoint p).releasePosts p.slot p.point (fun _ => true)
      let s2 := s1.onVdi p.vdi (fun x => { x with resumes := x.resumes.erase p.resume })
      let s3 := s2.onNest p.slot (fun n =>
        { n.retire p.point with dur := some (meanDuration n.dur (s.cycle - p.placedAt)), vals := n.vals.drop (p.point.headD 0).toNat,
                                 olds := n.olds.filter (fun (o : List Int × BitVec 16) => !decide (o.1 = p.point)) })
      .next (((s3.count p.vdi 3 1).nestStopCheck p.slot).settleNest p.slot)

/-- A stopped nest with no placed point frees its slot, and its generation advances (R347); the resume slots of points that
waited to be placed again are returned. -/
def execNestStopSlotFree (s : State) : Result :=
  let slot := s.ev.a
  match s.nests.find slot with
  | none => .next s
  | some n =>
    if !n.stopped ∨ s.points.any (fun p => decide (p.slot = slot)) then .next s
    else
      let back := n.flushed.map (fun (e : List Int × Nat) => e.2) ++ n.saved.map (fun (e : SavedPoint) => e.resume)
      let s1 := s.onVdi n.vdi (fun x => { x with resumes := x.resumes.filter (fun k => !back.contains k) })
      .next ({ s1 with gens := s1.gens.setIfInBounds slot (s1.gens[slot]?.getD 0 + 1) }.freeSlot slot)

/-! ### Growing and spawning (R53, R59, R60, R220) -/

/-- The slot that a handle names for a unit of a troupe (R44, R328). -/
def State.nestNamed (s : State) (t : Troupe) (h : BitVec 16) : Option (Nat × Nest) :=
  let slot := if t.oldHandle = some h then t.slot else h.toNat % 64
  match s.nests.find slot with
  | none => none
  | some n =>
    if n.vdi ≠ t.vdi then none
    else if t.oldHandle = some h ∨ s.handleOf slot = h then some (slot, n)
    else none

/-- A device-scope store of the Nest Release Unit to a tenant's virtual address (R53, R59). -/
def State.unitStore (s : State) (vdi va : Nat) (bs : List Byte) : Except (State × Xerr) State :=
  match addressCheck (va : Int) bs.length with
  | some c => .error (s, { cause := c, gpa := 0 })
  | none =>
    match s.accessToWrite vdi (needW 1) va with
    | (s1, .error e) => .error (s1, e)
    | (s1, .ok x) => .ok ((s1.dirty x).writePhys x.pa bs)

/-- The lowest bound that NEST.BOUND may set on a GROW nest (R53). -/
def Nest.floor (n : Nest) : Int :=
  let lb := boundC (nLb n.record 0)
  if nLevels n.record = 1 then (match n.top with | some k => k + 1 | none => lb)
  else match n.last with | some (k :: _) => k + 1 | _ => lb

/-- A new bound of a GROW nest; the single row of a one-level nest follows it (R45, R53). -/
def Nest.setBound (n : Nest) (v : Int) : Nest :=
  ({ n with bound := v, rows := if nLevels n.record = 1 then n.rows.map (fun r => { r with hi := v }) else n.rows } : Nest).closeRows

/-- NEST.BOUND (R53, R60, R220). What a fault of the unit's store to the bound cell does the spec does not say: the model takes it
as a whole-path fault at the word, and B stays (log entry 70). -/
def execNestBound (a : Reg) (b : Reg) (s : State) : Result :=
  s.withCur (fun i c =>
    let u := s.cur.turn.unit
    let v := (c.rdS i b).toInt
    match s.troupeOf u with
    | none => s
    | some (_, t) =>
      match s.nestNamed t ((c.rdS i a).setWidth 16) with
      | none => s.raise .nestBound
      | some (slot, n) =>
        if !inRange32 v then s.raise .nestBound
        else if nSpawn n.record then
          let hi := ((n.rows.head?).map (fun (r : Row) => r.hi)).getD n.cap
          if v < hi ∨ n.cap < v then s.raise .nestBound
          else (s.onNest slot (fun m => ({ m with closed := true, cap := v } : Nest).closeRows)).settleNest slot
        else if !nGrow n.record then s.raise .nestBound
        else if v < n.floor then s.raise .nestBound
        else
          match s.unitStore n.vdi (nCell n.record) (leBytes 4 (BitVec.ofInt 32 v).toNat) with
          | .error (s1, e) => s1.faultHere i c (.nestBound a b) (nCell n.record) e
          | .ok s1 => (s1.onNest slot (fun m => m.setBound v)).settleNest slot)

/-- SPAWN (R59, R220): a release, then the unit appends the point or answers 1. Its handle is checked at issue, and once more after
the wait, before its group issues (R339). What a fault of the unit's store of the value does
the spec does not say: the model takes it as a whole-path fault at the word, and nothing is appended (log entry 70). -/
def execSpawn (d : Reg) (a : Reg) (b : Reg) (s : State) : Result :=
  s.withCur (fun i c =>
    let u := s.cur.turn.unit
    let x : Instr := .spawn d a b
    let vals := s.sources c [a, b]
    let flag (s1 : State) (v : Dword) : State := s1.onCtx u (fun k => k.wrS i 1 d v)
    let names := match s.troupeOf u with
      | none => true
      | some (_, t) => match s.nestNamed t ((nth vals 0).setWidth 16) with | some (_, n) => nSpawn n.record | none => false
    if i.em = 0#32 then s
    else if !names then s.raise .nestBound
    else if vals.length ≤ 2 then
      s.released x 2 vals (fun s1 => (s1.later { kind := .recordPresented, unit := u, id := s.cur.tag }).holdPath x vals true)
    else
      match s.troupeOf u with
      | none => s
      | some (_, t) =>
        match s.nestNamed t ((nth vals 0).setWidth 16) with
        | none => s.raise .nestBound
        | some (slot, n) =>
          match nSpawn n.record, n.rows with
          | true, r :: _ =>
            if n.closed ∨ n.stopped ∨ n.cap ≤ r.hi then flag s 1
            else
              match s.unitStore n.vdi (nCell n.record + 8 * r.hi.toNat) (leBytes 8 (nth vals 1).toNat) with
              | .error (s1, e) => s1.faultHere i c x (nCell n.record + 8 * r.hi.toNat) e
              | .ok s1 =>
                flag (s1.onNest slot (fun m =>
                  { m with vals := m.vals.put r.hi.toNat (nth vals 1), rows := m.rows.map (fun y => { y with hi := y.hi + 1 }),
                           appended := m.appended + 1 })) 0
          | true, [] => flag s 1
          | false, _ => s.raise .nestBound)

/-! ### Semaphores and bins of casts (R219, R220) -/

/-- SEMADD (R219): a release, then the addition; the path is held until it is acknowledged. -/
def execSemadd (a : Reg) (k : BitVec 12) (s : State) : Result :=
  s.withCur (fun _ c =>
    let u := s.cur.turn.unit
    let vals := s.sources c [a]
    match s.semIndex (s.vdiOf u) k.toNat with
    | none => s.raise .protFault
    | some n =>
      s.released (.semadd a k) 2 vals (fun s1 =>
        (s1.later { kind := .semaphoreAddAcknowledge, unit := u, id := s.cur.tag, a := n, dword := nth vals 0 }).holdPath (.semadd a k) vals true))

/-- SEMWAIT (R219). -/
def execSemwait (a : Reg) (k : BitVec 12) (s : State) : Result :=
  s.withCur (fun _ c =>
    let vals := s.sources c [a]
    match s.semIndex (s.vdiOf s.cur.turn.unit) k.toNat with
    | none => s.raise .protFault
    | some n =>
      if (nth vals 0).toNat ≤ ((s.sems.find n).getD 0).toNat then s else s.holdPath (.semwait a k) vals true)

/-- An addition is performed at its semaphore and acknowledged: the path, the context or the stagehand proceeds (R219,
R269, R278). -/
def execSemaphoreAddAcknowledge (s : State) : Result :=
  let e := s.ev
  let s1 := (s.semAdd e.a e.dword).wake e.unit e.id
  .next (s1.onHand e.unit (fun h =>
    if h.asleep ∧ h.tag = e.id then h.proceed (s.cycle + 1) 4 else h))

/-- BIN (R220): bin numbers outside the share trap before any lane is counted. -/
def execBin (a : Reg) (b : Reg) (s : State) : Result :=
  s.withCur (fun i c =>
    let u := s.cur.turn.unit
    let nums := (List.range 32).map (fun l => (c.rdV i a).lane l)
    let bad := (lanesOf i.em).any (fun l => (s.binIndex (s.vdiOf u) (nums.getD l 0).toNat).isNone)
    if i.em = 0#32 then s
    else if bad then s.raise .protFault
    else
      let f : FarOp :=
        { s.newFar i c (.bin a b) .a with
          va := nums.map (fun w => w.setWidth 64)
          data := (List.range 32).map (fun l => (c.rdV i b).lane l)
          checked := true }
      { s with fars := s.fars ++ [f] }.later { kind := .binAdditionPerformed, unit := u, id := f.id })

/-- The additions of a BIN or XBIN are performed at the Binning Engine (R220, R269), once no older access of the path
may still fault. -/
def execBinAdditionPerformed (s : State) : Result :=
  match s.fars.find? (fun f => decide (f.id = s.ev.id)) with
  | none => .next s
  | some f =>
    if f.done then .next s
    else if s.olderUnchecked f then .next (s.later s.ev)
    else
      let add (x : State) (l : Nat) : State :=
        match x.binIndex (x.vdiOf f.unit) (f.va.getD l 0).toNat with
        | some k => x.binAdd k ((f.data.getD l 0).setWidth 64)
        | none => x
      .next (((lanesOf f.todo).foldl add s).finishFar f.id)

end Sys2Proof.Machine
end

