-- ==== Sys2Proof/Machine/Collective.lean ====
section
/-! DEFINITION. Collectives (R303 to R316, R335, R370 to R372) and the fabric (R317, R318, R373 to R375). -/

namespace Sys2Proof.Machine

/-! ### Flits (R317, R373) -/

/-- Whether a port's link is trained. -/
def Fabric.linked (fb : Fabric) (p : Nat) : Bool := ((fb.ports.find p).map (fun (x : Port) => x.up)).getD false

/-- The route of the current tables to an endpoint: the lowest port whose table holds one, by a port whose link is trained where there is
one, gives the port by which the device sends its own flits (log entry 71). -/
def Fabric.route (fb : Fabric) (dst : Nat) : Option Nat :=
  let outs := fb.ports.filterMap (fun (p : Nat × Port) => p.2.routes.lookup dst)
  (outs.find? fb.linked).or outs.head?

/-- Inject a flit with the current generation and the next SEQ of its stream, the first of which is 1 (R317, R318; log entry 72): it
queues on its port. -/
def State.sendFlit (s : State) (dst src type : Nat) (payload : List Byte) (ctx : Nat := 0) : State × Flit :=
  let q := (s.fabric.seqs.find (src, dst)).getD 0 + 1
  let f : Flit := { dst := BitVec.ofNat 20 dst, src := BitVec.ofNat 20 src, gen := s.fabric.gen, type := BitVec.ofNat 4 type,
                    len := BitVec.ofNat 12 payload.length, seq := q, ctx := BitVec.ofNat 48 ctx, payload := payload }
  ({ s with fabric := { s.fabric with queued := s.fabric.queued ++ [(s.fabric.route dst, f)], seqs := s.fabric.seqs.put (src, dst) q } }, f)

/-- Inject a control flit, which is sent again until it is acknowledged (R373). -/
def State.sendControl (s : State) (dst src type : Nat) (payload : List Byte) : State × Flit :=
  let r := s.sendFlit dst src type payload
  ({ r.1 with fabric := { r.1.fabric with unacked := r.1.fabric.unacked ++ [{ flit := r.2, first := s.dt, last := s.dt }] } }, r.2)

/-- Every port whose link is trained sends its oldest flit; a flit without a route, or on a link that is down, waits (R375; log entry
71). -/
def State.transmit (s : State) : State :=
  let fb := s.fabric
  let out := (List.range 18).filterMap (fun p => if fb.linked p then fb.queued.find? (fun q => decide (q.1 = some p)) else none)
  if out = [] then s
  else { s with fabric := { fb with sent := fb.sent ++ out, queued := out.foldl (fun q f => q.erase f) fb.queued } }

/-- The endpoints that lead to this device. -/
def State.endpoints (s : State) : List Nat := s.fabric.endpoint :: s.vdis.map (fun (v : Nat × Vdi) => v.2.img.endpoint)

/-- Raise a drop counter of a port, which stops at 0xFFFF (R374). -/
def State.onPort (s : State) (p : Nat) (f : Port → Port) : State :=
  match s.fabric.ports.find p with
  | some x => { s with fabric := { s.fabric with ports := s.fabric.ports.put p (f x) } }
  | none => s

/-- A counter that stops at 0xFFFF. -/
def satInc (n : Nat) : Nat := min (n + 1) 0xFFFF

/-- Nanoseconds of COLLTO, from 1 ms to 1000 ms (R370). -/
def collToNs : Nat := max 1 (min 1000 Config.collTo) * 1000000

/-- A flit for this device takes its place in its stream (R317, R318, R373): it is delivered when it is the next one, and what
waited for it follows; one that has overtaken another waits; a duplicate is discarded. With which SEQ a stream begins the spec does
not say, and the model begins it with 1; a flit that is still missing after COLLTO is taken to be a lost data flit, so the lowest one
that waits is delivered (log entry 72). -/
def State.inOrder (s : State) (f : Flit) (since : Option Dword) : State × Bool :=
  let fb := s.fabric
  let k := (f.src.toNat, f.dst.toNat)
  let rest := fb.waiting.filter (fun (w : Dword × Event) => w.2 ≠ s.ev)
  let next (w : Dword × Event) : Bool := decide (w.2.flit.map (fun (g : Flit) => (g.src, g.dst, g.seq)) = some (f.src, f.dst, f.seq + 1))
  let take : State × Bool :=
    ((rest.filter next).foldl (fun (x : State) (w : Dword × Event) => x.soon w.2)
      { s with fabric := { fb with seen := fb.seen.put k f.seq, waiting := rest, arrived := f.dst.toNat :: fb.arrived } }, true)
  -- how far the flit lies past the last one delivered; a stream that has delivered none has no past
  let d : Int := match fb.seen.find k with | some q => (f.seq - q).toInt | none => if f.seq = 0 then 0x10000 else f.seq.toNat
  let before (w : Dword × Event) : Bool :=
    match w.2.flit with
    | some g => decide (g.src = f.src) && decide (g.dst = f.dst) && decide ((g.seq - f.seq).toInt < 0)
    | none => false
  let overdue := (match since with | some t => decide (collToNs ≤ (s.dt - t).toNat) | none => false) && !rest.any before
  if d ≤ 0 then ({ s with fabric := { fb with waiting := rest } }, false)
  else if decide (d = 1) || overdue then take
  else if since.isSome then (s, false)
  else ({ s with fabric := { fb with waiting := fb.waiting ++ [(s.dt, s.ev)] } }, false)

/-- A flit arrives at a port (R317, R318, R373 to R375). The answer says whether it is delivered to this device: it is
dropped when its generation matches neither table, goes on by the port's table of its generation when it is for another endpoint,
and is delivered in the order of its stream; a control flit is acknowledged. -/
def State.arrive (s : State) (p : Nat) (f : Flit) : State × Bool :=
  let fb := s.fabric
  let cur := decide (f.gen = fb.gen)
  let other := (decide (fb.state ≠ 0#2) && decide (f.gen = fb.oldGen)) || (fb.standby && decide (f.gen = fb.gen + 1))
  match fb.waiting.find? (fun (w : Dword × Event) => decide (w.2 = s.ev)) with
  | some (t, _) => s.inOrder f (some t)
  | none =>
    match fb.ports.find p with
    | none => (s, false)
    | some x =>
      if !x.up then (s, false)
      else if !cur && !other then (s.onPort p (fun y => { y with dgen := satInc y.dgen }), false)
      else if !s.endpoints.contains f.dst.toNat then
        match (if cur then x.routes else x.oldRoutes).lookup f.dst.toNat with
        | some o => ({ s with fabric := { fb with queued := fb.queued ++ [(some o, f)] } }, false)
        | none => (s.onPort p (fun y => { y with ddst := satInc y.ddst }), false)
      else
        let s1 := if f.type = 1#4 ∨ f.type = 2#4 ∨ f.type = 4#4 ∨ f.type = 6#4 then
            (s.sendFlit f.src.toNat f.dst.toNat 5 (leBytes 2 f.seq.toNat)).1 else s
        s1.inOrder f none

/-- An unacknowledged control flit is sent again, once 100 µs have passed (R373), with the current generation (R318). -/
def execFlitResend (s : State) : Result :=
  let mine (u : Unacked) : Bool := decide (u.flit.seq.toNat = s.ev.a) && decide (u.flit.dst.toNat = s.ev.b) && decide (100000 ≤ (s.dt - u.last).toNat)
  match s.fabric.unacked.find? mine with
  | none => .next s
  | some u =>
    let f := { u.flit with gen := s.fabric.gen }
    .next { s with fabric := { s.fabric with queued := s.fabric.queued ++ [(s.fabric.route f.dst.toNat, f)],
                                             unacked := s.fabric.unacked.map (fun (x : Unacked) => if x = u then { x with flit := f, last := s.dt } else x) } }

/-- A flit of reserved TYPE is dropped and counted (R317, R374). -/
def execReservedTypeFlit (s : State) : Result :=
  match s.ev.flit with
  | some f => .next (if f.type.toNat < 8 then s else s.onPort s.ev.port (fun y => { y with dtype := satInc y.dtype }))
  | none => .next s

/-- A write of the physical function clears a port's drop counters (R374). -/
def execFpstatClearDrops (s : State) : Result := .next (s.onPort s.ev.a (fun y => { y with dgen := 0, dtype := 0, ddst := 0 }))

/-- A port at reset (R374). -/
def Port.zero : Port := { up := false, dgen := 0, dtype := 0, ddst := 0 }

/-- Change the tables of every one of the eighteen ports (R317, R318). -/
def Fabric.onPorts (fb : Fabric) (f : Nat → Port → Port) : Fabric :=
  { fb with ports := (List.range 18).foldl (fun (m : Map Nat Port) p => m.put p (f p ((m.find p).getD Port.zero))) fb.ports }

/-- The routes of one port in a table that Proscenium has written: port, destination and next port, three numbers a route. -/
def portRoutes (p : Nat) : List Int → List (Nat × Nat)
  | q :: d :: o :: rest => (if q.toNat = p then [(d.toNat, o.toNat)] else []) ++ portRoutes p rest
  | _ => []

/-- A link trains (R374). -/
def execLinkUp (s : State) : Result :=
  let p := s.ev.a
  if 18 ≤ p then .next s
  else
    let x := (s.fabric.ports.find p).getD Port.zero
    .next { s with fabric := { s.fabric with ports := s.fabric.ports.put p { x with up := true } } }

/-- A link goes down (R375): the flits that are queued on it are lost, and control flits are sent again (R373). -/
def execLinkDown (s : State) : Result :=
  let s1 := s.onPort s.ev.a (fun y => { y with up := false })
  .next { s1 with fabric := { s1.fabric with queued := s1.fabric.queued.filter (fun q => q.1 ≠ some s.ev.a) } }

/-! ### Remapping (R318, R375) -/

/-- Proscenium remaps (R318): with its flag set the event writes the standby tables, with the next generation; then every port switches
to its standby table at once. A further remap waits for the retirement of the old tables. -/
def execRouteSwitchover (s : State) : Result :=
  let fb := s.fabric
  if fb.state ≠ 0#2 then .next s
  else if s.ev.flag then
    .next { s with fabric := { fb.onPorts (fun p x => { x with oldRoutes := portRoutes p s.ev.point }) with standby := true } }
  else if !fb.standby then .next s
  else
    .next { s with fabric := { fb.onPorts (fun _ x => { x with oldRoutes := x.routes, routes := x.oldRoutes }) with
      gen := fb.gen + 1, oldGen := fb.gen, state := 1#2, remapAt := s.dt, standby := false } }

/-- The old tables go. -/
def State.dropOldTable (s : State) : State :=
  { s with fabric := { s.fabric.onPorts (fun _ x => { x with oldRoutes := [] }) with state := 0#2 } }

/-- The old table is retired once it is drained (R318). -/
def execRouteRetire (s : State) : Result := .next (if s.fabric.state = 0#2 then s else s.dropOldTable)

/-- A switch-over that is a second old without retirement has failed (R375). -/
def execRemapTimeout (s : State) : Result :=
  if s.fabric.state = 1#2 ∧ 1000000000 ≤ (s.dt - s.fabric.remapAt).toNat then .next { s with fabric := { s.fabric with state := 2#2 } }
  else .next s

/-- Proscenium forces the retirement of a remap that has failed (R375). -/
def execForceRouteRetire (s : State) : Result := .next (if s.fabric.state = 2#2 then s.dropOldTable else s)

/-! ### Descriptors (R304 to R306) -/

/-- OP of a descriptor. -/
def dOp (d : List Dword) : Nat := bits (nth d 0).toNat 0 4
/-- EFMT. -/
def dFmt (d : List Dword) : Nat := bits (nth d 0).toNat 8 4
/-- ROP. -/
def dRop (d : List Dword) : Nat := bits (nth d 0).toNat 12 4
/-- DSEM, when DSEMEN is set. -/
def dSem (d : List Dword) : Option Nat := if bits (nth d 0).toNat 35 1 = 1 then some (bits (nth d 0).toNat 36 12) else none
/-- GROUP. -/
def dGroup (d : List Dword) : Nat := bits (nth d 1).toNat 0 24
/-- ROOT. -/
def dRoot (d : List Dword) : Nat := bits (nth d 1).toNat 32 16
/-- NMAX. -/
def dNmax (d : List Dword) : Nat := bits (nth d 1).toNat 48 16
/-- COUNT. -/
def dCount (d : List Dword) : Nat := (nth d 2).toNat
/-- INBUF. -/
def dIn (d : List Dword) : Nat := (nth d 3).toNat
/-- OUTBUF. -/
def dOut (d : List Dword) : Nat := (nth d 4).toNat

/-- Bytes of an element (R304). -/
def dBytes (d : List Dword) : Nat :=
  match dFmt d with
  | 0 | 0xC | 0xD => 4
  | 1 | 2 => 2
  | _ => 1

/-- Whether EFMT is a floating format. -/
def dFloat (d : List Dword) : Bool := decide (dFmt d ≤ 2)

/-- Whether a descriptor's fields and values are those that R304 to R306 allow. -/
def descLegal (d : List Dword) : Bool :=
  let w := (nth d 0).toNat
  decide (bits w 48 16 = 0) && decide (bits w 30 5 = 0) && decide (bits w 4 4 = 0) && decide (dOp d ≤ 5) && decide (dRop d ≤ 5) &&
    [0, 1, 2, 8, 9, 0xC, 0xD].contains (dFmt d) && decide (bits (nth d 1).toNat 24 8 = 0) && (decide (dOp d = 3) || decide (dRoot d = 0)) &&
    decide (1 ≤ dNmax d ∧ dNmax d ≤ 4096) && decide (dCount d < 2 ^ 40) && decide (nth d 7 = 0) && !(dFloat d && decide (3 ≤ dRop d)) &&
    (decide (dOp d ≠ 5) || decide (dCount d = 0 ∧ dFmt d = 0 ∧ dRop d = 0 ∧ dRsv d = 0 ∧ dIn d = 0 ∧ dOut d = 0))

/-- An interface's entry of the group table: home switch, member index, withdrawn (R303). -/
def Coll.member (c : Coll) (v g : Nat) : Option (Nat × Nat × Bool) :=
  (c.groups.find? (fun e => decide (e.1 = g) && decide (e.2.1 = v))).map (fun (e : Nat × Nat × Nat × Nat × Bool) => e.2.2)

/-- Whether an entry may stand in the group table (R303): a 24-bit group, a 20-bit endpoint, an index of 0 to 4095. -/
def groupLegal (group home index : Nat) : Bool := decide (group < 2 ^ 24) && decide (home < 2 ^ 20) && decide (index < 4096)

/-- Proscenium writes an entry of the group table, which holds up to 1024 (R303). A member that it adds takes part again (R312). -/
def State.writeGroup (s : State) (group v home index : Nat) : State :=
  let rest := s.coll.groups.filter (fun e => !(decide (e.1 = group) && decide (e.2.1 = v)))
  if groupLegal group home index ∧ (s.vdis.find v).isSome ∧ rest.length < 1024 then
    { s with coll := { s.coll with groups := rest ++ [(group, v, home, index, false)] } }
  else s

/-! ### The table (R307) -/

/-- Whether an entry is in use for its interface's share: not free, or held for its point (R307, R316). -/
def Post.inUse (p : Post) : Bool :=
  p.held || (match p.state with | .posted => true | .ticketed => true | .running => true | _ => false)

/-- Whether an entry is free, with or without an outcome. -/
def Post.isFree (p : Post) : Bool := match p.state with | .posted => false | .ticketed => false | .running => false | _ => true

/-- Entries of an interface that count against its share. -/
def Coll.shareUsed (c : Coll) (v : Nat) : Nat := (c.posts.filter (fun e => decide (e.2.vdi = v) && e.2.inUse)).length

/-- Entries that may be allocated. -/
def Coll.freeEntries (c : Coll) : List Nat :=
  (List.range 512).filter (fun k => match c.posts.find k with | some p => !p.inUse | none => true)

/-- The identifier of an entry (R221). -/
def postId (gen entry : Nat) : Dword := BitVec.ofNat 64 (gen % 128 * 512 + entry)

/-- Change an entry. -/
def State.onPost (s : State) (e : Nat) (f : Post → Post) : State :=
  match s.coll.posts.find e with
  | some p => { s with coll := { s.coll with posts := s.coll.posts.put e (f p) } }
  | none => s

/-- Accept a post into a free entry: the generation rises, and the post flit goes to the home switch (R307, R308, R317). -/
def State.acceptPost (s : State) (v addr : Nat) (lvl : BitVec 2) (d : List Dword) (key : Option PostKey) (home index : Nat) : State × Nat × Nat :=
  let fr := s.coll.freeEntries
  let e := fr.getD (Config.pick s.fresh % fr.length) 0
  let gen := (((s.coll.posts.find e).map (fun (p : Post) => p.gen)).getD 0 + 1) % 128
  let p : Post := { gen := gen, state := .posted, vdi := v, addr := BitVec.ofNat 64 addr, desc := d, group := dGroup d, key := key,
                    held := key.isSome, lvl := lvl, ticket := none, n := 0, rank := 0, root := 0, startedAt := 0, heard := [], data := [],
                    failed := none }
  let s1 : State := { s with coll := { s.coll with posts := s.coll.posts.put e p }, fresh := s.fresh + 1 }
  let src := ((s.vdis.find v).map (fun (x : Vdi) => x.img.endpoint)).getD 0
  let body := (d.take 3).flatMap (fun x => leBytes 8 x.toNat) ++ leBytes 2 index ++ leBytes 2 (postId gen e).toNat
  ((s1.sendControl home src 1 body).1, e, gen)

/-- The operations that count an entry in cnt.x end when the entry becomes free (R307, R316). -/
def State.postFreed (s : State) (e : Nat) : State :=
  let mine := s.fars.filter (fun f => decide (f.cls = .x) && decide (f.rows = e) && !f.done)
  let s1 := mine.foldl (fun (x : State) (f : FarOp) => x.finishFar f.id) s
  { s1 with nests := s1.nests.map (fun (n : Nat × Nest) => (n.1, { n.2 with saved := n.2.saved.map (fun (p : SavedPoint) =>
      { p with freed := p.freed ++ (p.posts.filter (fun f => decide (f.rows = e) && !f.done)).map (fun f => f.id) }) })) }

/-- The post key of the word at issue (R316). -/
def State.postKey (s : State) (t : Troupe) (c : Ctx) (ordinal : Nat) : PostKey :=
  { vdi := t.vdi, slot := t.slot, handle := s.handleOf t.slot, point := t.point, member := t.member,
    cast := t.castNumber s.cur.turn.unit, scseq := c.scseq, ordinal := ordinal }

/-- COLL.POST (R221, R304, R306, R316): a release, then the descriptor is read, once, and checked; the path is held while the share is
full. A refused post traps, with no word of its group having an effect (R339): the word leads its group, and takes its ordinal when
the group issues. A key that the table holds for the point posts nothing. -/
def execCollPost (d a : Reg) (s : State) : Result :=
  s.withCur (fun i c =>
    let x : Instr := .collPost d a
    let u := s.cur.turn.unit
    let vals := s.sources c [a]
    let va := (nth vals 0).toNat
    if i.em = 0#32 then s
    else if va % 64 ≠ 0 then s.raise .misaligned
    else if vals.length ≤ 1 then
      s.released x 2 vals (fun s1 => (s1.later { kind := .recordPresented, unit := u, id := s.cur.tag }).holdPath x vals true)
    else
      match s.troupeOf u with
      | none => s
      | some (_, t) =>
        -- a held post keeps its ordinal and the descriptor
        let post (s1 : State) (ordinal : Nat) (desc : List Dword) : State :=
          match s1.coll.member t.vdi (dGroup desc), descLegal desc with
          | some (home, index, _), true =>
            let key := s1.postKey t c ordinal
            let counted (y : State) (e : Nat) : State := { y with fars := y.fars ++ [{ s.newFar i c x .x with checked := true, rows := e }] }
            match s1.coll.posts.find? (fun e => e.2.held && decide (e.2.key = some key)) with
            | some (e, p) =>
              let s2 := s1.onCtx u (fun k => k.wrS i 1 d (postId p.gen e))
              if p.isFree then s2 else counted s2 e
            | none =>
              let share := ((s1.vdis.find t.vdi).map (fun (v : Vdi) => v.img.pctShare)).getD 0
              if share ≤ s1.coll.shareUsed t.vdi ∨ s1.coll.freeEntries = [] then
                s1.holdPath x (vals.take 2 ++ BitVec.ofNat 64 ordinal :: desc) false
              else
                let r2 := s1.acceptPost t.vdi va (c.path i.slotB).plvl desc (some key) home index
                counted (r2.1.onCtx u (fun k => k.wrS i 1 d (postId r2.2.2 r2.2.1))) r2.2.1
          | _, _ => (s1.onCtx u (fun k => if k.ordinal = ordinal + 1 then { k with ordinal := ordinal } else k)).raise .collectiveAbort
        if 2 < vals.length then post s (nth vals 2).toNat (vals.drop 3)
        else
          match s.readBase t.vdi (c.path i.slotB).plvl 10 va 64 with
          | (s1, .error (e, at_)) => s1.faultHere i c x at_ e
          | (s1, .ok r) => post (s1.onCtx u (fun k => { k with ordinal := k.ordinal + 1 })) c.ordinal ((List.range 8).map (recWord r)))

/-- COLL.TEST (R221, R307). -/
def Coll.test (c : Coll) (id : Nat) : Nat :=
  match c.posts.find (id % 512) with
  | none => 3
  | some p =>
    if p.gen ≠ id / 512 % 128 then 3
    else match p.state with
      | .complete => 1
      | .aborted => 2
      | .free => 3
      | _ => 0

/-- COLL.TEST (R221). -/
def execCollTest (d a : Reg) (s : State) : Result :=
  s.onCur (fun i c => c.wrS i 1 d (BitVec.ofNat 64 (s.coll.test ((c.rdS i a).toNat % 2 ^ 16))))

/-- COLL.LEAVE (R221, R311): the path is held until the home switch acknowledges; an unknown group or a member already
withdrawn completes at once. -/
def execCollLeave (a : Reg) (s : State) : Result :=
  s.withCur (fun i c =>
    let u := s.cur.turn.unit
    let g := (c.rdS i a).toNat % 2 ^ 24
    let v := s.vdiOf u
    match s.coll.member v g with
    | some (home, index, false) =>
      let src := ((s.vdis.find v).map (fun (x : Vdi) => x.img.endpoint)).getD 0
      let r := s.sendControl home src 4 (leBytes 4 g ++ leBytes 2 index)
      { r.1 with coll := { r.1.coll with leaving := r.1.coll.leaving ++ [(u, s.cur.tag, g, r.2.seq.toNat)] } }.holdPath (.collLeave a) [] true
    | _ => s)

/-! ### Presented records (R306, R335, R402) -/

/-- Bits of CPRES (R335). -/
def cpresDone (id : Nat) : Dword := BitVec.ofNat 64 (2 ^ 63 + id)
/-- CPRES of a refused post. -/
def cpresRefused (c : Cause) : Dword := BitVec.ofNat 64 (2 ^ 63 + 2 ^ 62 + c.code)

/-- The post window of an interface (R335). -/
def Coll.window (c : Coll) (v : Nat) : PostWindow := (c.windows.find v).getD {}

/-- Change the post window of an interface. -/
def State.onWindow (s : State) (v : Nat) (f : PostWindow → PostWindow) : State :=
  { s with coll := { s.coll with windows := s.coll.windows.put v (f (s.coll.window v)) } }

/-- A post of a Camly core through the post window of an interface (R335), by the number of its write to CPOST; it is tried again while
the share is full. CPRES reports the last write only. A window without a tenant has no descriptor to post. -/
def State.windowPost (s : State) (v va n : Nat) : State :=
  let answer (s1 : State) (x : Dword) : State := s1.onWindow v (fun w => if w.writes = n then { w with cpres := x } else w)
  if va % 64 ≠ 0 then answer s (cpresRefused .misaligned)
  else
    match s.readBase v 1 10 va 64 with
    | (s1, .error (e, _)) => answer s1 (cpresRefused e.cause)
    | (s1, .ok r) =>
      let desc := (List.range 8).map (recWord r)
      match s1.coll.member v (dGroup desc), descLegal desc with
      | some (home, index, _), true =>
        let share := ((s1.vdis.find v).map (fun (y : Vdi) => y.img.pctShare)).getD 0
        if share ≤ s1.coll.shareUsed v ∨ s1.coll.freeEntries = [] then s1.later s.ev
        else
          let r2 := s1.acceptPost v va 1 desc none home index
          answer r2.1 (cpresDone (postId r2.2.2 r2.2.1).toNat)
      | _, _ => answer s1 (cpresRefused .collectiveAbort)

/-- A Camly core writes CPOST (R335): DONE is cleared, and the descriptor is read. -/
def execCpostWrite (s : State) : Result :=
  if 64 ≤ s.ev.a then .next s
  else
    let n := (s.coll.window s.ev.a).writes + 1
    .next ((s.onWindow s.ev.a (fun w => { w with cpost := s.ev.dword, cpres := w.cpres &&& ~~~ (1#64 <<< 63), writes := n })).later
      { kind := .recordPresented, flag := true, a := s.ev.a, b := n, dword := s.ev.dword })

/-! ### Tickets and starts (R308 to R310) -/

/-- A new horizon (R309, R373): the largest H received stands. -/
def State.raiseHorizon (s : State) (h : Nat) : State :=
  { s with coll := { s.coll with horizon := max s.coll.horizon h } }.soon { kind := .collectiveStart }

/-- The engine reports a reason to a home switch (R370). -/
def State.reportHome (s : State) (t : Dword) (reason : Nat) : State :=
  { s with coll := { s.coll with reports := s.coll.reports ++ [(t, reason)] } }

/-- A ticket arrives (R308, R309, R370): for a posted entry it carries t and N; with N = 0 it orders an abort, and an entry that has not
started is aborted without starting (R371). One that names a free entry or another generation is reported to the home switch (reason
7), unless it orders an abort (log entry 28). -/
def execTicketFlit (s : State) : Result :=
  match s.ev.flit with
  | none => .next s
  | some f =>
    match s.arrive s.ev.port f with
    | (s1, false) => .next s1
    | (s1, true) =>
      let e := s.ev.a
      let stray := if s.ev.c = 0 then s1 else s1.reportHome s.ev.dword 7
      let s2 : State := match s1.coll.posts.find e with
        | none => stray
        | some p =>
          if p.isFree ∨ p.gen ≠ s.ev.b % 128 then stray
          else if s.ev.c = 0 then
            (s1.onPost e (fun q => { q with ticket := some s.ev.dword, failed := some s.ev.word.toNat })).soon
              { kind := .collectiveAbort, a := e, b := s.ev.word.toNat }
          else if p.state = .posted then
            s1.onPost e (fun q => { q with state := .ticketed, ticket := some s.ev.dword, n := s.ev.c, rank := s.ev.d, root := s.ev.word.toNat })
          else s1
      .next (s2.raiseHorizon s.ev.e)

/-- A horizon flit (R309). -/
def execHorizonFlit (s : State) : Result :=
  match s.ev.flit with
  | none => .next s
  | some f =>
    match s.arrive s.ev.port f with
    | (s1, false) => .next s1
    | (s1, true) => .next (s1.raiseHorizon s.ev.e)

/-- The ticketed entry with the lowest ticket; one that is to be aborted counts as started (R371). -/
def Coll.lowest (c : Coll) : Option (Nat × Post) :=
  (c.posts.filter (fun e => decide (e.2.state = .ticketed) && e.2.failed.isNone)).foldl (fun (b : Option (Nat × Post)) e =>
    match b with
    | none => some e
    | some x => if (e.2.ticket.getD 0).toNat < (x.2.ticket.getD 0).toNat then some e else b) none

/-- The lowest ticket starts once it lies below the horizon and its reservation is free (R309, R310). -/
def execCollectiveStart (s : State) : Result :=
  match s.coll.lowest with
  | none => .next s
  | some (e, p) =>
    let c := s.coll
    if (p.ticket.getD 0).toNat < c.horizon ∧ c.staging + dRsv p.desc ≤ 1024 ∧ c.shares + dLsh p.desc + 1 ≤ 64 ∧ c.contexts < 32 then
      let s1 : State := { s with coll := { c with staging := c.staging + dRsv p.desc, shares := c.shares + dLsh p.desc + 1, contexts := c.contexts + 1 } }
      .next (((s1.onPost e (fun q => { q with state := .running, startedAt := s.dt })).later { kind := .collectiveComplete, a := e }).soon { kind := .collectiveStart })
    else .next s

/-! ### Data and reduction (R305, R313) -/

/-- The bytes of rank k's input that rank r needs: first byte and number, in blocks of `blk` bytes (R305). -/
def needed (op blk r k root : Nat) : Nat × Nat :=
  match op with
  | 0 | 1 => (0, blk)
  | 2 | 4 => (r * blk, blk)
  | 3 => if k = root then (0, blk) else (0, 0)
  | _ => (0, 0)

/-- Bytes of a block. -/
def Post.blk (p : Post) : Nat := dCount p.desc * dBytes p.desc

/-- The byte of another rank's input that has arrived. -/
def Post.arrived (p : Post) (k o : Nat) : Option Byte :=
  (p.data.find? (fun x => decide (x.1 = k) && decide (x.2.1 = o))).map (fun (x : Nat × Nat × Byte) => x.2.2)

/-- The ranks whose data a running entry still waits for. -/
def Post.waitsOn (p : Post) : List Nat :=
  (List.range p.n).filter (fun k =>
    let r := needed (dOp p.desc) p.blk p.rank k p.root
    decide (k ≠ p.rank) && (List.range r.2).any (fun j => (p.arrived k (r.1 + j)).isNone))

/-- A data flit brings bytes of a participant's input (R317, R370). -/
def execDataFlit (s : State) : Result :=
  match s.ev.flit with
  | none => .next s
  | some f =>
    match s.arrive s.ev.port f with
    | (s1, false) => .next s1
    | (s1, true) =>
      let e := f.ctx.toNat / 2 ^ 39 % 512
      let o := f.ctx.toNat % 2 ^ 39
      let bs := f.payload.take f.len.toNat
      .next (s1.onPost e (fun p =>
        if p.isFree then p
        else { p with heard := p.heard.put s.ev.a s.dt,
                      data := (List.range bs.length).map (fun j => (s.ev.a, o + j, bs.getD j 0)) ++ p.data }))

/-- Combine two values of a format (R313): floating ones in FP32, rounded RNE. -/
def collCombine (float : Bool) (rop bytes : Nat) (uns : Bool) (a b : Word) : Word :=
  if float then
    match rop with
    | 0 => (fadd .rne a b).1
    | 1 => (fminmax false a b).1
    | _ => (fminmax true a b).1
  else
    let le := if uns then decide (a.toNat ≤ b.toNat) else decide ((BitVec.ofNat (8 * bytes) a.toNat).toInt ≤ (BitVec.ofNat (8 * bytes) b.toNat).toInt)
    match rop with
    | 0 => BitVec.ofNat 32 ((a + b).toNat % 2 ^ (8 * bytes))
    | 1 => if le then a else b
    | 2 => if le then b else a
    | 3 => a &&& b
    | 4 => a ||| b
    | _ => a ^^^ b

/-- Combine partial values in pairs until one is left; which pair is combined is open (R313). -/
def reduceWith (f : Word → Word → Word) : Nat → Nat → List Word → Word
  | _, _, [] => 0
  | _, _, [x] => x
  | 0, _, x :: _ => x
  | n + 1, k, xs =>
    let i := Config.collPair k % xs.length
    let rest := xs.eraseIdx i
    let j := Config.collPair (k + 1) % rest.length
    reduceWith f n (k + 2) (f (xs.getD i 0) (rest.getD j 0) :: rest.eraseIdx j)

/-- The reduction of one element of every rank, in EFMT's bytes (R313). -/
def reduceElem (d : List Dword) (k : Nat) (vs : List Nat) : List Byte :=
  let w := dBytes d
  if dFloat d then
    let r := reduceWith (collCombine true (dRop d) w false) vs.length k (vs.map (fun v => (ieee .rne ((fmtOf (dFmt d)).decode v)).1))
    leBytes w (encodeFloat (dFmt d) r)
  else leBytes w (reduceWith (collCombine false (dRop d) w (dFmt d = 9 || dFmt d = 0xD)) vs.length k (vs.map (fun v => BitVec.ofNat 32 v))).toNat
where
  /-- The final rounding to EFMT. -/
  encodeFloat (code : Nat) (r : Word) : Nat := match fmtOf code with | .flt g => (g.encode .rne false (f32 r)).1 | .int _ _ => r.toNat

/-- The output of a running entry, from the inputs of the ranks as far as this one needs them (R305). -/
def Post.output (p : Post) (k : Nat) (ins : Nat → List Byte) : List Byte :=
  let w := dBytes p.desc
  let all := List.range p.n
  match dOp p.desc with
  | 1 | 4 => all.flatMap ins
  | 3 => ins p.root
  | 5 => []
  | _ => (List.range (dCount p.desc)).flatMap (fun j => reduceElem p.desc (k + 1024 * j) (all.map (fun r => leNat (((ins r).drop (w * j)).take w))))

/-- Write the result words of a descriptor, as far as it translates (R304, R371). -/
def State.resultWords (s : State) (p : Post) (t : Dword) (n r : Nat) : State :=
  let bs := leBytes 8 t.toNat ++ leBytes 4 n ++ leBytes 4 r
  (s.writeBase p.vdi p.lvl 4 (p.addr.toNat + 0x28) bs).1

/-- The addition to DSEM (R314, R371). -/
def State.dsemAdd (s : State) (p : Post) : State :=
  match dSem p.desc with
  | none => s
  | some d => match s.semIndex p.vdi d with | some n => s.semAdd n 1 | none => s

/-- A member's engine has found a reason to abort, and reports it to the home switch (R370). -/
def State.reportPost (s : State) (e reason : Nat) : State :=
  match s.coll.posts.find e with
  | some p =>
    if p.failed.isNone then (s.onPost e (fun q => { q with failed := some reason })).reportHome (p.ticket.getD 0) reason else s
  | none => s

/-- Bytes of INBUF that this member brings (R305): a broadcast takes the root's alone. -/
def Post.inBytes (p : Post) : Nat :=
  match dOp p.desc with
  | 0 | 1 => p.blk
  | 2 | 4 => p.n * p.blk
  | 3 => if p.rank = p.root then p.blk else 0
  | _ => 0

/-- The input of a rank, as far as this one needs it: its own as it was read, and another's as it has arrived. -/
def Post.input (p : Post) (own : List Byte) (k : Nat) : List Byte :=
  let r := needed (dOp p.desc) p.blk p.rank k p.root
  if k = p.rank then (own.drop r.1).take r.2 else (List.range r.2).map (fun j => (p.arrived k (r.1 + j)).getD 0)

/-- Send the bytes of this member's input that other participants need, 240 to a data flit, with the entry and their offset (R317). The
spec does not say to which endpoint they go: the model sends them to the home switch, which knows the participants (log entry
28). -/
def State.sendInput (s : State) (e : Nat) (p : Post) (own : List Byte) : State :=
  match s.coll.member p.vdi p.group, s.vdis.find p.vdi with
  | some (home, _, _), some v =>
    let others := (List.range p.n).filter (fun r => r ≠ p.rank)
    let parts := (others.map (fun r => needed (dOp p.desc) p.blk r p.rank p.root)).dedup
    parts.foldl (fun (x : State) (r : Nat × Nat) =>
      (List.range ((r.2 + 239) / 240)).foldl (fun (y : State) k =>
        let o := r.1 + 240 * k
        (y.sendFlit home v.img.endpoint 0 ((own.drop o).take (min 240 (r.1 + r.2 - o))) (e * 2 ^ 39 + o)).1) x) s
  | _, _ => s

/-- A running collective reads its whole INBUF, whichever rank needs a part of it, and sends it (R305, R314, R370): a fault or poison
there is reported. -/
def State.readInput (s : State) (e : Nat) (p : Post) : State :=
  match s.readBase p.vdi p.lvl (p.inBytes / 8 + 2) (dIn p.desc) p.inBytes with
  | (s1, .error (x, _)) => s1.reportPost e (if x.data then 4 else 3)
  | (s1, .ok own) => ((s1.onPost e (fun q => { q with own := some own })).sendInput e p own).later s.ev

/-- A collective completes at this member once its input is read and every part that it needs has arrived (R305, R307, R314): the
outputs and the result words are written, then DSEM receives its addition, and the entry is free. A fault of a buffer and poisoned
staging are reported. -/
def execCollectiveComplete (s : State) : Result :=
  let e := s.ev.a
  match s.coll.posts.find e with
  | none => .next s
  | some p =>
    if p.state ≠ .running ∨ p.failed.isSome then .next s
    else match (if p.inBytes = 0 then some [] else p.own) with
    | none => .next (s.readInput e p)
    | some own =>
      if p.bad then .next (s.reportPost e 4)
      else if p.waitsOn ≠ [] then .next (s.later s.ev)
      else
        let out := p.output s.fresh (p.input own)
        match s.writeVirtual p.vdi p.lvl true (out.length / 8 + 2) (dOut p.desc) out with
        | (s2, .error _) => .next (s2.reportPost e 3)
        | (s2, .ok ()) =>
          let s3 := (s2.writeBase p.vdi p.lvl (out.length / 8 + 2) (dOut p.desc) out).1
          let s4 := ((s3.resultWords p (p.ticket.getD 0) p.n p.rank).dsemAdd p).unreserve p
          let s5 := (s4.onPost e (fun q => { q with state := .complete, data := [], own := none })).postFreed e
          .next ({ s5 with fresh := s5.fresh + 1024 * (dCount p.desc + 1) }.soon { kind := .collectiveStart })

/-! ### Aborts (R370, R371) -/

/-- The bytes of OUTBUF (R305). -/
def Post.outBytes (p : Post) : Nat := match dOp p.desc with | 1 | 4 => p.n * p.blk | 5 => 0 | _ => p.blk

/-- Aligned words of the output that an aborted collective may have written, from the one at `va` (R371): the bytes of OUTBUF in each
keep their values or take open ones. -/
def State.scatter (s : State) (p : Post) : Nat → Nat → State
  | 0, _ => s
  | n + 1, va =>
    let lo := max va (dOut p.desc)
    let hi := min (va + 4) (dOut p.desc + p.outBytes)
    let bs := ((leBytes 4 (Config.freeWord s.fresh).toNat).drop (lo - va)).take (hi - lo)
    let s1 := if Config.pick s.fresh % 2 = 0 then { s with fresh := s.fresh + 1 } else (({ s with fresh := s.fresh + 1 } : State).writeBase p.vdi p.lvl 2 lo bs).1
    s1.scatter p n (va + 4)

/-- What an abort leaves in OUTBUF. -/
def State.scatterAll (s : State) (p : Post) : State :=
  let first := dOut p.desc / 4
  s.scatter p (if p.outBytes = 0 then 0 else (dOut p.desc + p.outBytes - 1) / 4 - first + 1) (4 * first)

/-- A collective aborts at this member (R371): its reservation returns, its result words say so, DSEM receives its
addition, the entry is free, and a record of KIND 9 is written. -/
def execCollectiveAbort (s : State) : Result :=
  let e := s.ev.a
  match s.coll.posts.find e with
  | none => .next s
  | some p =>
    if p.isFree then .next s
    else
      let t := p.ticket.getD 0xFFFFFFFFFFFFFFFF#64
      let s0 := if p.state = .running then s.scatterAll p else s
      let s1 := ((s0.unreserve p).resultWords p t 0 0).dsemAdd p
      let s2 := (s1.onPost e (fun q => { q with state := .aborted, data := [], own := none })).postFreed e
      let r : FaultRec := { w0 := faultWord 9 0x17 0 0 0 15, pos := t, info := BitVec.ofNat 64 (s.ev.b % 256 + p.group % 2 ^ 24 * 256), dt := s.dt }
      .next ((s2.faultLog p.vdi r).soon { kind := .collectiveStart })

/-- Whether a running entry waits on a participant that has been silent for COLLTO (R370). -/
def State.silent (s : State) (p : Post) : Bool :=
  decide (p.state = .running) && p.waitsOn.any (fun k => decide (collToNs ≤ (s.dt - (p.heard.find k).getD p.startedAt).toNat))

/-- A participant has been silent for COLLTO: reason 5 is reported (R370). -/
def execCollectiveTimeout (s : State) : Result :=
  match s.coll.posts.find s.ev.a with
  | some p => .next (if s.silent p then s.reportPost s.ev.a 5 else s)
  | none => .next s

/-- Whether the home switch of a group has acknowledged nothing of a flit for COLLTO (R370). -/
def State.homeSilent (s : State) (g : Nat) : Bool :=
  s.coll.groups.any (fun m => decide (m.1 = g) &&
    s.fabric.unacked.any (fun u => decide (u.flit.dst.toNat = m.2.2.1) && decide (collToNs ≤ (s.dt - u.first).toNat)))

/-- The home switch has been unreachable for COLLTO: the device aborts its posts of the group that have no ticket (R370). -/
def execHomeSwitchTimeout (s : State) : Result :=
  if !s.homeSilent s.ev.a then .next s
  else
    let mine := s.coll.posts.filter (fun e => decide (e.2.group = s.ev.a) && decide (e.2.state = .posted))
    .next (mine.foldl (fun (x : State) (e : Nat × Post) => x.soon { kind := .collectiveAbort, a := e.1, b := 6 }) s)

/-- An acknowledgement (R373): the flit is sent no more. The acknowledgement of a leave withdraws the member: its posts of
the group that have no ticket are free with outcome aborted, and the path proceeds (R311). -/
def execAckFlit (s : State) : Result :=
  match s.ev.flit with
  | none => .next s
  | some f =>
    match s.arrive s.ev.port f with
    | (s1, false) => .next s1
    | (s1, true) =>
      let hit (u : Unacked) : Bool := decide (u.flit.seq.toNat = s.ev.a) && decide (u.flit.dst = f.src) && decide (u.flit.src = f.dst)
      let gone := s1.fabric.unacked.filter hit
      let s2 := { s1 with fabric := { s1.fabric with unacked := s1.fabric.unacked.filter (fun u => !hit u) } }
      let leaves := gone.filter (fun u => decide (u.flit.type = 4#4))
      .next (leaves.foldl (fun (x : State) (u : Unacked) =>
        let g := leNat (u.flit.payload.take 4)
        let vs := (x.coll.groups.filter (fun m => decide (m.1 = g) && decide (m.2.2.1 = f.src.toNat) &&
          decide ((x.vdis.find m.2.1).map (fun (v : Vdi) => v.img.endpoint) = some u.flit.src.toNat))).map (fun m => m.2.1)
        let posts := x.coll.posts.filter (fun e => decide (e.2.group = g) && vs.contains e.2.vdi && decide (e.2.state = .posted))
        let y : State := { x with coll := { x.coll with groups := x.coll.groups.map (fun m =>
          if m.1 = g ∧ vs.contains m.2.1 then (m.1, m.2.1, m.2.2.1, m.2.2.2.1, true) else m) } }
        let z := posts.foldl (fun (w : State) (e : Nat × Post) => (w.onPost e.1 (fun q => { q with state := .aborted })).postFreed e.1) y
        let woken := z.coll.leaving.filter (fun l => decide (l.2.2.1 = g) && decide (l.2.2.2 = u.flit.seq.toNat) &&
          decide ((z.vdis.find (z.vdiOf l.1)).map (fun (v : Vdi) => v.img.endpoint) = some u.flit.src.toNat))
        let v := woken.foldl (fun (w : State) (l : UnitId × Nat × Nat × Nat) => w.wake l.1 l.2.1) z
        { v with coll := { v.coll with leaving := v.coll.leaving.filter (fun l => !woken.contains l) } }) s2)

end Sys2Proof.Machine
end

