-- ==== Sys2Proof/Machine/System.lean ====
section
/-! DEFINITION. Major 0x3F: traps and return (R248, R249), control registers (R246, R247, R67, R68), translation maintenance
(R252), page mapping (R253), macro definition (R254), time and counters (R255, R256, R299, R300), fault records (R250,
R251), messages (R257, R258), HALT (R259). -/

namespace Sys2Proof.Machine

/-! ### Traps and return -/

/-- TRAP (R248): Breakpoint with k, resuming after the word. -/
def execTrap (k : BitVec 12) (s : State) : Result :=
  s.withCur (fun _ _ => s.raiseAfter .breakpoint (k.setWidth 64) s.cur.after)

/-- Whether the accesses that ERET replays would take a counter past 63: the word then waits as WAITC would (R115, R249). -/
def State.replayFull (s : State) (u : UnitId) (c : Ctx) (p : Path) : Bool :=
  let l := c.level p.plvl
  let go := c.parked.filter (fun k => decide (k.level = p.plvl.toNat) && active l.em k.lane && !active l.park k.lane)
  let ops := replayOps 0 go ((go.map (fun k => k.op.id)).dedup)
  [Cls.g, .a, .t].any (fun k => decide (ops.any (fun (f : FarOp) => f.cls = k) ∧ 63 < s.counter u k + (ops.filter (fun f => decide (f.cls = k))).length))

/-- ERET (R249): a previous level of 3 traps. An ATOMS of the own scratchpad that it replays acts once: it waits for the path's far
accesses (R356). -/
def execEret (s : State) : Result :=
  s.withCur (fun i c =>
    let u := s.cur.turn.unit
    let p := c.path i.slotB
    let own := (c.unparked i.slotB).filter (fun k => decide (k.op.cls = .fetch))
    if bits (c.level p.plvl).cause.toNat 8 2 = 3 then s.raise .illegalInstr
    else if s.replayFull u c p then s.holdPath .eret [] false
    else if own.any (fun k => isRmw k.op.instr) && s.pathFar u p then s.holdPath .eret [] false
    else (s.returnFrom u i.slotB).replayOwn u i.slotB own)

/-- A pool marker traps (R158). -/
def execPool (_n : BitVec 18) (s : State) : Result := s.withCur (fun _ _ => s.raise .execData)

/-- A word that decodes as ReservedEncoding traps (R154). -/
def execReservedEncodingWord (_w : Word) (s : State) : Result := s.withCur (fun _ _ => s.raise .reservedEncoding)

/-! ### Control registers (R246) -/

/-- The troupe that a unit belongs to, or nothing. -/
def State.myTroupe (s : State) (u : UnitId) : Option Troupe := (s.troupeOf u).map (fun (t : Nat × Troupe) => t.2)

/-- The cue stream's registers of a unit's troupe. -/
def State.myCue (s : State) (u : UnitId) : Option Ctx := (s.myTroupe u).bind (fun (t : Troupe) => s.ctxs.find t.cue)

/-- CNTS (R247). -/
def State.cnts (s : State) (u : UnitId) : Dword :=
  BitVec.ofNat 64 (s.counter u .x % 64 * 2 ^ 24 + s.counter u .t % 64 * 2 ^ 16 + s.counter u .a % 64 * 2 ^ 8 + s.counter u .g % 64)

/-- DSSEQ (R68). -/
def Ctx.dsseq (c : Ctx) : Dword := BitVec.ofNat 64 (c.nspill % 128 * 2 ^ 8 + c.next.toNat)

/-- Register `k` of 0x100 to 0x106 or 0x200 to 0x206 of a level (R246). -/
def Level.read (l : Level) (k : Nat) : Dword :=
  match k with
  | 0 => l.tvec.setWidth 64 &&& 0x3FFFFFFF#64
  | 1 => l.epc.setWidth 64
  | 2 => l.cause.setWidth 64 &&& 0x3FF#64
  | 3 => l.em.setWidth 64
  | 4 => l.park.setWidth 64
  | 5 => l.tval
  | _ => l.scr

/-- The value of a control register (R246). -/
def State.csrValue (s : State) (u : UnitId) (c : Ctx) (p : Path) (n : Nat) : Dword :=
  let vdi := s.vdis.find (s.vdiOf u)
  -- bits 51:12; the bits that the content column does not name read as zero
  let page (f : Vdi → Dword) : Dword := (vdi.map f).getD 0 &&& 0xFFFFFFFFFF000#64
  let ring (k : Nat) : Ring := ((s.myTroupe u).map (fun (t : Troupe) => t.rings[k]?.getD Ring.zero)).getD Ring.zero
  match n with
  | 0x000 => c.cctl.setWidth 64 &&& 1#64
  | 0x001 => c.dsmap
  | 0x002 => c.dsseq
  | 0x003 => ((s.myCue u).map (fun (q : Ctx) => q.a.fm.setWidth 64)).getD 0
  | 0x004 => ((s.myCue u).map (fun (q : Ctx) => q.st.setWidth 64)).getD 0
  | 0x005 => s.cnts u
  | 0x006 => p.plvl.setWidth 64
  | 0x007 => ((s.myTroupe u).map (fun (t : Troupe) => t.nhnd.setWidth 64)).getD 0
  | 0x107 => page (fun v => v.sptr)
  | 0x108 => page (fun v => v.plnext)
  | 0x109 => page (fun v => v.plend)
  | 0x207 => page (fun v => v.hptr)
  | 0x208 => (vdi.map (fun (v : Vdi) => v.toff)).getD 0
  | 0x209 => (vdi.map (fun (v : Vdi) => v.tscale)).getD 0
  | 0x20B => BitVec.ofNat 64 ((s.quad u.quadKey).msgs.length % 32)
  | _ =>
    -- the reserved bits 63:48 and 19:1 read as zero (R119)
    if 0x010 ≤ n ∧ n < 0x020 then (ring (n - 0x010)).desc &&& BitVec.ofNat 64 (2 ^ 48 - 2 ^ 20 + 1)
    else if 0x020 ≤ n ∧ n < 0x030 then (ring (n - 0x020)).stat
    else if 0x100 ≤ n ∧ n < 0x107 then c.sup.read (n - 0x100)
    else if 0x200 ≤ n ∧ n < 0x207 then c.hyp.read (n - 0x200)
    else 0

/-- CSRR (R246). R11 names it as a word that holds its path until it writes its result; R246 says of no register that its read
takes longer than another scalar word, so the model writes at issue with latency 1 and holds no further (log entry 79). -/
def execCsrr (d : Reg) (n : BitVec 12) (s : State) : Result :=
  s.withCur (fun i c =>
    s.setCtx s.cur.turn.unit (c.wrS i 1 d (s.csrValue s.cur.turn.unit c (c.path i.slotB) n.toNat)))

/-- A read of HMSG takes the oldest message of the quadrant, or gives 0 (R258). -/
def execHmsgRead (d : Reg) (s : State) : Result :=
  s.withCur (fun i c =>
    let k := s.cur.turn.unit.quadKey
    let q := s.quad k
    match q.msgs with
    | [] => s.setCtx s.cur.turn.unit (c.wrS i 1 d 0)
    | (m, _) :: ms => (s.setCtx s.cur.turn.unit (c.wrS i 1 d m)).setQuad k { q with msgs := ms })

/-- Bits that a CSRW may set (R67, R246, R247). -/
def csrBits (n : Nat) : Nat :=
  match n with
  | 0x000 => 1
  | 0x100 => 2 ^ 30 - 1
  | 0x200 => 2 ^ 30 - 1
  | 0x101 => 2 ^ 32 - 1
  | 0x201 => 2 ^ 32 - 1
  | 0x102 => 2 ^ 10 - 1
  | 0x202 => 2 ^ 10 - 1
  | 0x103 => 2 ^ 32 - 1
  | 0x203 => 2 ^ 32 - 1
  | 0x107 => 2 ^ 52 - 2 ^ 12
  | 0x108 => 2 ^ 52 - 2 ^ 12
  | 0x109 => 2 ^ 52 - 2 ^ 12
  | 0x207 => 2 ^ 52 - 2 ^ 12
  | _ => 2 ^ 64 - 1

/-- Register `k` of a level takes a value; a write of xEPC clears the kept MSTEP (R340). -/
def Level.write (l : Level) (k : Nat) (x : Dword) : Level :=
  match k with
  | 0 => { l with tvec := x.setWidth 32 }
  | 1 => { l with epc := x.setWidth 32, mstep := none }
  | 2 => { l with cause := x.setWidth 32 }
  | 3 => { l with em := x.setWidth 32 }
  | _ => { l with scr := x }

/-- A control register takes a value. -/
def State.csrPut (s : State) (u : UnitId) (n : Nat) (x : Dword) : State :=
  let v := s.vdiOf u
  match n with
  | 0x000 => s.onCtx u (fun c => { c with cctl := x.setWidth 32 })
  | 0x107 => s.onVdi v (fun y => { y with sptr := x })
  | 0x108 => s.onVdi v (fun y => { y with plnext := x })
  | 0x109 => s.onVdi v (fun y => { y with plend := x })
  | 0x207 => s.onVdi v (fun y => { y with hptr := x })
  | 0x208 => s.onVdi v (fun y => { y with toff := x })
  | 0x209 => s.onVdi v (fun y => { y with tscale := x })
  | _ =>
    if n < 0x200 then s.onCtx u (fun c => { c with sup := c.sup.write (n - 0x100) x })
    else s.onCtx u (fun c => { c with hyp := c.hyp.write (n - 0x200) x })

/-- CSRW (R246): a reserved bit that is set traps and changes nothing. -/
def execCsrw (a : Reg) (n : BitVec 12) (s : State) : Result :=
  s.withCur (fun i c =>
    let x := c.rdS i a
    if x &&& ~~~ BitVec.ofNat 64 (csrBits n.toNat) ≠ 0#64 then s.raise .illegalInstr
    else s.csrPut s.cur.turn.unit n.toNat x)

/-! ### Translation maintenance (R124, R143, R252) -/

/-- The units whose tenant is an interface's. -/
def State.onTenantCtxs (s : State) (vdi : Nat) (f : Ctx → Ctx) : State :=
  { s with ctxs := s.ctxs.map (fun (e : UnitId × Ctx) => if s.vdiOf e.1 = vdi then (e.1, f e.2) else e) }

/-- Invalidate the translation registers that `f` covers: LIMIT becomes 0 and BASE is kept (R124). -/
def Ctx.coverTx (c : Ctx) (f : Tx → Bool) : Ctx :=
  { c with tx := c.tx.map (fun t => if f t then { t with limit := 0 } else t) }

/-- Drop cached translations and cover translation registers of a tenant. -/
def State.invalidate (s : State) (vdi : Nat) (f : Tlb → Bool) (g : Tx → Bool) : State :=
  { s with tlb := s.tlb.filter (fun t => !(decide (t.vdi = vdi) && f t)) }.onTenantCtxs vdi (fun c => c.coverTx g)

/-- Whether an access that was translated before the word at issue is unperformed (R252). -/
def State.translatedPending (s : State) (vdi : Nat) : Bool :=
  s.fars.any (fun f => decide (s.vdiOf f.unit = vdi) && decide (f.id < s.cur.tag) && (f.checked || !f.pages.isEmpty) && !f.performed && !f.moving)

/-- A TLBINV word: it drops, and its path is held until the accesses that were translated before it are performed. -/
def tlbWord (x : Instr) (rs : List Reg) (f : Dword → Tlb → Bool) (g : Dword → Tx → Bool) (s : State) : Result :=
  s.withCur (fun _ c =>
    let vals := s.sources c rs
    let vdi := s.vdiOf s.cur.turn.unit
    let s1 := s.invalidate vdi (f (nth vals 0)) (g (nth vals 0))
    if s1.translatedPending vdi then s1.holdPath x vals false else s1)

/-- TLBINV (R252): stage-1 entries, and the combined entries derived from them, for a virtual page. -/
def execTlbinv (a : Reg) (s : State) : Result :=
  tlbWord (.tlbinv a) [a] (fun x t => t.one.holds (x.toNat % 2 ^ 57))
    (fun x t => decide (t.page.toNat ≤ x.toNat % 2 ^ 57) && decide (x.toNat % 2 ^ 57 < t.page.toNat + t.pageSize)) s

/-- Whether an entry was derived through the stage-2 leaf of a guest physical address (R143): its own stage-2 leaf, or one
through which its walk read a table entry. -/
def Tlb.fromGuest (t : Tlb) (gpa : Nat) : Bool :=
  (match t.two with | some l => l.holds gpa | none => false) ||
    t.via.any (fun (p : Nat × Nat) => decide (p.1 ≤ gpa) && decide (gpa < p.1 + p.2))

/-- TLBINV.S2 (R252). -/
def execTlbinvS2 (a : Reg) (s : State) : Result :=
  tlbWord (.tlbinvS2 a) [a] (fun x t => t.fromGuest x.toNat) (fun _ _ => true) s

/-- TLBINV.ALL (R252). -/
def execTlbinvAll (s : State) : Result := tlbWord .tlbinvAll [] (fun _ _ => true) (fun _ _ => true) s

/-- TLBINV.S2.ALL (R252): every stage-2 and combined entry. -/
def execTlbinvS2All (s : State) : Result := tlbWord .tlbinvS2All [] (fun _ t => t.two.isSome) (fun _ _ => true) s

/-! ### MAPPG (R253) -/

/-- What MAPPG gives: a result with the state after it, or a trap before any change. -/
inductive Mapped where
  | value (s : State) (d : Dword)
  | trap (e : Xerr)
  deriving DecidableEq, Repr

/-- The level of a leaf of SIZE (R123). -/
def leafLevel (size : Nat) : Nat := if size ≤ 1 then 0 else if size ≤ 3 then 1 else 2

/-- What the walk of MAPPG met: a leaf that covers the address, the guest physical address of the entry at the leaf's level,
or of the entry at which tables are missing, with the levels of the missing tables' parents. -/
inductive MapWalk where
  | leaf (gpa : Nat)
  | entry (gpa : Nat)
  | missing (gpa : Nat) (lvl : Nat)
  | fault (e : Xerr)
  deriving DecidableEq, Repr

/-- Read a table entry through stage 2. -/
def State.guestEntry (s : State) (v : Vdi) (gpa : Nat) : Except Xerr Nat :=
  match s.stage2 v gpa with
  | .error e => .error e
  | .ok l =>
    if !s.backed (l.apply gpa) then .error { cause := .protFault, gpa := 0 }
    else if s.lineBad (l.apply gpa) then .error { cause := .poisoned, gpa := 0 }
    else .ok (s.mem.dword (l.apply gpa)).toNat

/-- Walk stage 1 down to the leaf level of a page (R253). -/
def State.mapWalk (s : State) (v : Vdi) (va leaf : Nat) : List Nat → Nat → MapWalk
  | [], _ => .fault { cause := .protFault, gpa := 0 }
  | lvl :: ls, table =>
    let gpa := table + 8 * bits va (12 + 9 * lvl) 9
    match s.guestEntry v gpa with
    | .error e => .fault e
    | .ok e =>
      if lvl = leaf then .entry gpa
      else if bits e 0 1 = 0 then .missing gpa lvl
      else if !wellFormed e lvl va then .fault { cause := .protFault, gpa := 0 }
      else if isPointer e then s.mapWalk v va leaf ls (frameOf e)
      else .leaf ((leafOf e lvl va gpa).apply va)

/-- Round up to a multiple. -/
def roundUp (x n : Nat) : Nat := (x + n - 1) / n * n

/-- Whether stage 2 maps a range of guest physical addresses for writing, page by page, with fuel for the pages. -/
def State.guestRange (s : State) (v : Vdi) : Nat → Nat → Nat → Except Xerr (List (Nat × Nat))
  | 0, _, _ => .ok []
  | fuel + 1, gpa, n =>
    if n = 0 then .ok []
    else
      match s.stage2 v gpa with
      | .error e => .error e
      | .ok l =>
        let k := min n (l.base + l.size - gpa)
        if !l.w ∨ !s.backed (l.apply gpa) then .error { cause := .protFault, gpa := 0 }
        else
          match s.guestRange v fuel (gpa + k) (n - k) with
          | .error e => .error e
          | .ok rs => .ok ((l.apply gpa, k) :: rs)

/-- Zero physical ranges, with their poison. -/
def State.zeroRanges (s : State) (rs : List (Nat × Nat)) : State :=
  rs.foldl (fun (x : State) (r : Nat × Nat) =>
    { x with mem := x.mem.clear r.1 r.2, poison := x.poison.filter (fun l => !(decide (r.1 ≤ 64 * l) && decide (64 * l < r.1 + r.2))) }) s

/-- Write a table entry through stage 2. -/
def State.putEntry (s : State) (v : Vdi) (gpa e : Nat) : State :=
  match s.writeGuest v gpa (leBytes 8 e) with
  | .ok s1 => s1
  | .error _ => s

/-- Link new tables below the entry at `gpa` of level `lvl`, and put the page's leaf or leaves (R253). -/
def State.linkTables (s : State) (v : Vdi) (va size perm f : Nat) : List Nat → Nat → Nat → State
  | [], gpa, _ =>
    let count := if size = 1 ∨ size = 3 then 16 else 1
    let at_ := gpa - gpa % (8 * count)
    let g := spanOf (leafLevel size)
    (List.range count).foldl (fun (x : State) k =>
      x.putEntry v (at_ + 8 * k) (size * 2 ^ 60 + (f + k * g) + perm * 2 + 1)) s
  | t :: ts, gpa, lvl =>
    (s.putEntry v gpa (t + 1)).linkTables v va size perm f ts (t + 8 * bits va (12 + 9 * (lvl - 1)) 9) (lvl - 1)

/-- MAPPG of page size code `size` and permissions U, X, W, R for a tenant (R253). Where a smaller leaf covers the rounded address and not
the address itself, the pseudocode of R253 returns a mapping and its text says size conflict: the model answers the conflict (log entry
83). -/
def State.mapPage (s : State) (vi : Nat) (v : Vdi) (a size perm : Nat) : Mapped :=
  let sz := pageOf size
  let va := a - a % sz
  let leaf := leafLevel size
  let conflict := Mapped.value s 0xFFFFFFFFFFFFFFFE#64
  /- The rest, once the walk has ended at `gpa` with the tables below level `lvl` missing. -/
  let finish (gpa lvl : Nat) : Mapped :=
    let n := lvl - leaf
    let g0 := roundUp v.plnext.toNat 0x1000
    let tables := (List.range n).map (fun k => g0 + 0x1000 * k)
    let f := roundUp (if n = 0 then v.plnext.toNat else g0 + 0x1000 * n) sz
    if v.plend.toNat < f + sz ∨ (0 < n ∧ v.plend.toNat < g0 + 0x1000 * n) then .value s 0xFFFFFFFFFFFFFFFF#64
    else
      -- the entries that exist and are written: the link of the first new table, or the page's own
      let count := if n = 0 ∧ (size = 1 ∨ size = 3) then 16 else 1
      match s.guestRange v 1 (gpa - gpa % (8 * count)) (8 * count), s.guestRange v n g0 (0x1000 * n), s.guestRange v (sz / 0x1000) f sz with
      | .error e, _, _ => .trap e
      | _, .error e, _ => .trap e
      | _, _, .error e => .trap e
      | .ok _, .ok r1, .ok r2 =>
        let s1 := (s.zeroRanges r1).zeroRanges r2
        let s2 := s1.linkTables v va size perm f tables gpa lvl
        .value (s2.onVdi vi (fun y => { y with plnext := BitVec.ofNat 64 (f + sz) })) (BitVec.ofNat 64 (f + (a - va)))
  match s.mapWalk v va leaf [4, 3, 2, 1, 0] (frameOf v.sptr.toNat) with
  | .fault e => .trap e
  | .leaf gpa => .value s (BitVec.ofNat 64 (gpa + (a - va)))
  | .missing gpa lvl => finish gpa lvl
  | .entry gpa =>
    let count := if size = 1 ∨ size = 3 then 16 else 1
    let at_ := gpa - gpa % (8 * count)
    match s.guestEntry v gpa with
    | .error e => .trap e
    | .ok e =>
      if bits e 0 1 = 1 ∧ isPointer e then conflict
      else if bits e 0 1 = 1 ∧ !wellFormed e leaf va then .trap { cause := .protFault, gpa := 0 }
      else if bits e 0 1 = 1 ∧ (leafOf e leaf va gpa).holds a then .value s (BitVec.ofNat 64 ((leafOf e leaf va gpa).apply a))
      else if (List.range count).any (fun k => match s.guestEntry v (at_ + 8 * k) with | .ok x => decide (bits x 0 1 = 1) | .error _ => false) then conflict
      else finish gpa leaf

/-- Whether a leaf template obeys R253. -/
def templateLegal (b : Dword) : Bool :=
  decide (bits b.toNat 60 3 ≤ 4) && decide (b &&& ~~~ BitVec.ofNat 64 (7 * 2 ^ 60 + 0x1E) = 0#64)

/-- MAPPG (R253). A fault of its walk or of its own writes is found once the engine has walked: it is a word trap, and no word of
the group has an effect (R339), so the word leads its group. -/
def execMappg (d a b : Reg) (s : State) : Result :=
  s.withCur (fun i c =>
    let x : Instr := .mappg d a b
    let u := s.cur.turn.unit
    let vals := s.sources c [a, b]
    let va := (nth vals 0).toNat
    if !templateLegal (nth vals 1) then s.raise .illegalInstr
    else if !canonical va then s.raise .nonCanonical
    else if vals.length ≤ 2 then (s.later { kind := .mappgComplete, unit := u, id := s.cur.tag }).holdPath x vals true
    else
      match s.vdis.find (s.vdiOf u) with
      | none => s
      | some v =>
        match s.mapPage (s.vdiOf u) v (va % 2 ^ 57) (bits (nth vals 1).toNat 60 3) (bits (nth vals 1).toNat 1 4) with
        | .trap e => s.raise e.cause
        | .value s1 r => s1.onCtx u (fun k => k.wrS i 1 d r))

/-- MAPPG's walk and writes are performed (R253). -/
def execMappgComplete (s : State) : Result := .next (s.rouse s.ev.unit s.ev.id)

/-! ### MDEF (R254) -/

/-- Whether a macro operation may stand in a macro (R254). -/
def macroOpLegal (w : Word) : Bool :=
  let m := fMaj w
  !(decide (0x10 ≤ m ∧ m ≤ 0x15) || decide (0x3C ≤ m ∧ m ≤ 0x3F) || decide (m = 3) || decide (m = 0x16 ∧ fld w 0 4 = 4#4))

/-- The macro of a definition record, when it is legal. -/
def macroRecord (r : List Byte) : Option Macro :=
  let h := leNat (r.take 4)
  let n := h % 64
  let ops := (List.range n).map (fun k => BitVec.ofNat 32 (recHalf r (8 + 4 * k)))
  let marks := (r.drop 0x88).take n
  if 1 ≤ n ∧ n ≤ 32 ∧ h / 64 = 0 ∧ recHalf r 4 = 0 ∧ ops.all macroOpLegal ∧ marks.all (fun (b : Byte) => decide (bits b.toNat 6 2 = 0)) ∧
      !chained (ops.getLastD 0) then
    some { ops := ops, marks := marks }
  else none

/-- Whether a path of a quadrant is inside macro `m` (R84). -/
def State.insideMacro (s : State) (t : Troupe) (m : Nat) : Bool :=
  t.casts.any (fun u =>
    match s.ctxs.find u with
    | none => false
    | some c => (c.a :: c.b :: c.spilled.map (fun (e : Nat × Path) => e.2)).any (fun (p : Path) =>
        (p.live && p.mstep.isSome && decide ((fld (codeWord (s.code u) p.pc) 15 7).toNat = m)) ||
          p.holders.any (fun (h : Held) => h.mstep.isSome && decide ((fld (codeWord (s.code u) h.pos) 15 7).toNat = m))))

/-- Whether a definition record of a troupe's scratchpad reaches past its end or into a reserved area (R113, R254): its N mark
bytes end it, and while N is not legal its header alone counts. -/
def macroBad (s : State) (t : Troupe) (at_ : Nat) : Bool :=
  let n := (s.scratch.bytes (t.scratchAddr at_) 1).headD 0 &&& 0x3F#8
  let size := if 1 ≤ n.toNat ∧ n.toNat ≤ 32 then 0x88 + n.toNat else 8
  let outside (k : Nat) : Bool := decide (t.scratchSize ≤ k) || reservedOffset k
  outside at_ || outside (at_ + 7) || outside (at_ + size - 1)

/-- MDEF (R254). The record is read once, and one that is not legal traps, with no word of the group having an effect (R339): the word
leads its group; the path then waits while a path of the quadrants is inside the macro. -/
def execMdef (a b : Reg) (s : State) : Result :=
  s.withCur (fun _ c =>
    let x : Instr := .mdef a b
    let u := s.cur.turn.unit
    let vals := s.sources c [a, b]
    let m := (nth vals 0).toNat
    let at_ := (nth vals 1).toNat
    match s.troupeOf u with
    | none => s
    | some (_, t) =>
      if 128 ≤ m ∨ 2 ^ 22 ≤ at_ then s.raise .illegalInstr
      else if at_ % 8 ≠ 0 then s.raise .misaligned
      else if macroBad s t at_ then s.raise .scratchBounds
      else if vals.length ≤ 2 then (s.later { kind := .mdefComplete, unit := u, id := s.cur.tag }).holdPath x vals true
      else
        let r := if vals.length = 3 then s.scratch.bytes (t.scratchAddr at_) 0xA8 else (vals.drop 3).flatMap (fun w => leBytes 8 w.toNat)
        match macroRecord r with
        | none => s.raise .illegalInstr
        | some mc =>
          if s.insideMacro t m then s.holdPath x (vals.take 3 ++ (List.range 21).map (recWord r)) false
          else
            (t.quads.foldl (fun (y : State) q =>
              y.setQuad (quadKey t.core q) { y.quad (quadKey t.core q) with macros := (y.quad (quadKey t.core q)).macros.put m mc, badMacros := (y.quad (quadKey t.core q)).badMacros.filter (fun x => x.1 ≠ m) }) s))

/-- The definition record has been read (R254). -/
def execMdefComplete (s : State) : Result := .next (s.rouse s.ev.unit s.ev.id)

/-! ### Time and counters (R255, R256, R299, R300) -/

/-- The tenant's TIME value (R255). -/
def State.timeOf (s : State) (v : Vdi) : Dword :=
  BitVec.ofInt 64 (v.toff.toInt + ((v.tscale.toNat * s.dt.toNat / 2 ^ 32 : Nat) : Int))

/-- TIME (R255). -/
def execTime (d : Reg) (s : State) : Result :=
  s.withCur (fun i c =>
    let t := ((s.vdis.find (s.vdiOf s.cur.turn.unit)).map s.timeOf).getD 0
    s.setCtx s.cur.turn.unit (c.wrS i 1 d t))

/-- Energy of a tenant in µJ (R300). -/
def Vdi.energy (v : Vdi) : Nat :=
  ((List.range 25).map (fun k => Config.energyCoefficient (16 + k) * ((v.perf.find (16 + k)).getD 0).toNat)).sum / 2 ^ 32

/-- A performance counter of a tenant (R256, R299); an unassigned number gives 0. -/
def Vdi.perfCounter (v : Vdi) (n : Dword) : Dword :=
  let k := n.toNat
  if k = 48 then BitVec.ofNat 64 v.energy
  else if k = 49 then BitVec.ofInt 64 v.timeBudget
  else if k = 50 then BitVec.ofInt 64 v.energyBudget
  else if k ≤ 7 ∨ (16 ≤ k ∧ k ≤ 40) then (v.perf.find k).getD 0
  else 0

/-- PERFR (R256). -/
def execPerfr (d a : Reg) (s : State) : Result :=
  s.withCur (fun i c =>
    let x := ((s.vdis.find (s.vdiOf s.cur.turn.unit)).map (fun (v : Vdi) => v.perfCounter (c.rdS i a))).getD 0
    s.setCtx s.cur.turn.unit (c.wrS i 1 d x))

/-! ### Fault records (R250, R251, R403) -/

/-- Field `k` of the record that FREC reads at a level for a lane: the one record of a whole-path fault for any lane, else
that of the parked lane, else 0. -/
def Ctx.faultField (c : Ctx) (plvl : BitVec 2) (lane k : Nat) : Dword :=
  match c.whole.find? (fun w => decide (w.1 = plvl.toNat)) with
  | some w => w.2.getD k 0
  | none =>
    match c.parked.find? (fun p => decide (p.level = plvl.toNat) && decide (p.lane = lane) && active (c.level plvl).park lane) with
    | some p => [p.rec0, p.rec1, p.rec2, p.rec3].getD k 0
    | none => 0

/-- FREC (R250). -/
def execFrec (d a b : Reg) (s : State) : Result :=
  s.withCur (fun i c =>
    let lane := (c.rdS i a).toNat
    let k := (c.rdS i b).toNat
    let x := if 32 ≤ lane ∨ 4 ≤ k then 0 else c.faultField (c.path i.slotB).plvl lane k
    s.setCtx s.cur.turn.unit (c.wrS i 1 d x))

/-- UNPARK (R251). -/
def execUnpark (a : Reg) (s : State) : Result :=
  s.onCur (fun i c =>
    let l := c.level (c.path i.slotB).plvl
    c.setLevel (c.path i.slotB).plvl { l with park := l.park &&& ~~~ ((c.rdS i a).setWidth 32) })

/-! ### Messages (R257) -/

/-- The core at which a route ends, from a position and a heading, over the legs that are left: nothing when it leaves the
grid or has a nonzero bit after its end. -/
def routeEnd (b : Nat) : List Nat → Int → Int → Nat → Option (Int × Int)
  | [], x, y, _ => some (x, y)
  | i :: is, x, y, dir =>
    let turn := bits b (7 * i) 2
    let run : Int := bits b (7 * i + 2) 5
    if turn = 3 then (if bits b (7 * i + 2) (54 - 7 * i) = 0 then some (x, y) else none)
    else
      let h := (dir + (if turn = 1 then 1 else if turn = 2 then 3 else 0)) % 4
      let x1 := if h = 0 then x + run else if h = 2 then x - run else x
      let y1 := if h = 1 then y + run else if h = 3 then y - run else y
      if 0 ≤ x1 ∧ x1 < 32 ∧ 0 ≤ y1 ∧ y1 < 8 then routeEnd b is x1 y1 h else none

/-- The quadrant that a route from a core names (R257). -/
def routeQuad (core : Nat) (b : Dword) : Option Nat :=
  if bits b.toNat 60 4 ≠ 0 then none
  else (routeEnd b.toNat (List.range 8) (coreX core) (coreY core) (bits b.toNat 56 2)).map
    (fun (p : Int × Int) => quadKey (coreAt p.1.toNat p.2.toNat) (bits b.toNat 58 2))

/-- SMSG (R257): a release; the path is held until the message is queued. -/
def execSmsg (a b : Reg) (s : State) : Result :=
  s.withCur (fun _ c =>
    let u := s.cur.turn.unit
    let vals := s.sources c [a, b]
    match routeQuad u.place.1 (nth vals 1) with
    | none => s.raise .protFault
    | some k =>
      s.released (.smsg a b) 2 vals (fun s1 =>
        ({ s1 with sending := s1.sending ++ [(u, s.cur.tag, k, nth vals 0)] }.later { kind := .smsgDeliver, unit := u, id := s.cur.tag }).holdPath (.smsg a b) vals true))

/-- A message is queued once its quadrant has room and no older message of its sender to that quadrant waits (R257,
R258). -/
def execSmsgDeliver (s : State) : Result :=
  match s.sending.find? (fun e => decide (e.1 = s.ev.unit ∧ e.2.1 = s.ev.id)) with
  | none => .next s
  | some (u, tag, k, m) =>
    let older := s.sending.any (fun e => decide (e.1 = u ∧ e.2.2.1 = k ∧ e.2.1 < tag))
    let q := s.quad k
    if older ∨ 16 ≤ q.msgs.length then .next (s.later s.ev)
    else
      .next (({ s with sending := s.sending.filter (fun e => !(decide (e.1 = u ∧ e.2.1 = tag))) }.setQuad k
        { q with msgs := q.msgs ++ [(m, u)] }).wake u tag)

/-! ### HALT (R259) -/

/-- HALT stops the issuing troupe; Proscenium answers once its far accesses have been performed. -/
def execHalt (s : State) : Result :=
  s.withCur (fun _ _ => s.haltUnit s.cur.turn.unit (.halted s.cur.turn.unit s.cur.pos s.cur.word))

end Sys2Proof.Machine
end

