-- ==== Sys2Proof/Machine/Stagehand.lean ====
section
/-! DEFINITION. The stagehands: RV32IMC with Zicsr (R260 to R262) and Xstage (R263 to R271); the translation faults that
Proscenium repairs for them and for the cue stream (R359). -/

namespace Sys2Proof.Machine

/-! ### The stagehand at issue -/

/-- A word that acts on the stagehand at issue and on the machine. -/
def State.withHand (s : State) (f : Hand → State) : Result :=
  match s.hands.find s.cur.turn.unit with
  | none => .fault .noUnit
  | some h => .next (f h)

/-- A stagehand exception stops its point (R262, R346). -/
def State.stopHand (s : State) (h : Hand) (cause : Cause) : State :=
  s.stopUnit s.cur.turn.unit 3 cause (h.pc.setWidth 64) (s.cur.word.setWidth 64)

/-- Register `k` of a stagehand; x0 reads as zero. -/
def Hand.reg (h : Hand) (k : BitVec 5) : Word := if k = 0#5 then 0 else h.x[k.toNat]?.getD 0

/-- Write register `k`, which loses its poison (R360); x0 is discarded. -/
def Hand.setReg (h : Hand) (k : BitVec 5) (v : Word) : Hand :=
  if k = 0#5 then h else { h with x := h.x.setIfInBounds k.toNat v, poison := h.poison.filter (fun y => y ≠ 0x3000 + k.toNat) }

/-- The stagehand at issue completes its instruction of `len` bytes with the registers `h`. -/
def State.doneHand (s : State) (h : Hand) (len : Nat) : State :=
  s.onHand s.cur.turn.unit (fun _ => h.proceed (s.cycle + 1) len)

/-- The stagehand at issue stalls at its instruction and tries it again, in the order in which it first did, or sleeps until an
event. -/
def State.stallHand (s : State) (x : Instr) (asleep : Bool) : State :=
  s.onHand s.cur.turn.unit (fun h => { h with held := some x, asleep := asleep, tag := if asleep then s.cur.stamp else s.cur.tag, readyAt := s.cycle + 1 })

/-! ### RV32IM (R260) -/

/-- Integer operations of RV32I. -/
def rvAlu (o : RvAlu) (a b : Word) : Word :=
  match o with
  | .add => a + b
  | .sub => a - b
  | .sll => a <<< (b.toNat % 32)
  | .slt => if a.slt b then 1 else 0
  | .sltu => if a.ult b then 1 else 0
  | .xor => a ^^^ b
  | .srl => a >>> (b.toNat % 32)
  | .sra => a.sshiftRight (b.toNat % 32)
  | .or => a ||| b
  | .and => a &&& b

/-- Operations of the M extension; a division by zero gives all ones and the remainder the dividend, and the one signed
overflow gives the dividend and the remainder zero, as the RISC-V specification states. -/
def rvMul (o : RvMul) (a b : Word) : Word :=
  match o with
  | .mul => a * b
  | .mulh => BitVec.ofInt 32 (a.toInt * b.toInt / 2 ^ 32)
  | .mulhsu => BitVec.ofInt 32 (a.toInt * b.toNat / 2 ^ 32)
  | .mulhu => BitVec.ofNat 32 (a.toNat * b.toNat / 2 ^ 32)
  | .div => if b = 0#32 then BitVec.allOnes 32 else BitVec.ofInt 32 (Int.tdiv a.toInt b.toInt)
  | .divu => if b = 0#32 then BitVec.allOnes 32 else BitVec.ofNat 32 (a.toNat / b.toNat)
  | .rem => if b = 0#32 then a else BitVec.ofInt 32 (Int.tmod a.toInt b.toInt)
  | .remu => if b = 0#32 then a else BitVec.ofNat 32 (a.toNat % b.toNat)

/-- Conditions of the RV32I branches. -/
def rvCond (c : RvBr) (a b : Word) : Bool :=
  match c with
  | .beq => decide (a = b)
  | .bne => decide (a ≠ b)
  | .blt => a.slt b
  | .bge => !a.slt b
  | .bltu => a.ult b
  | .bgeu => !a.ult b

/-- Size of a load. -/
def ldBytes : RvLd → Nat
  | .lb => 1 | .lbu => 1 | .lh => 2 | .lhu => 2 | .lw => 4
/-- Value of a load from its bytes. -/
def ldValue (o : RvLd) (x : Nat) : Word :=
  match o with
  | .lb => (BitVec.ofNat 8 x).signExtend 32
  | .lbu => BitVec.ofNat 32 (x % 2 ^ 8)
  | .lh => (BitVec.ofNat 16 x).signExtend 32
  | .lhu => BitVec.ofNat 32 (x % 2 ^ 16)
  | .lw => BitVec.ofNat 32 x
/-- Size of a store. -/
def stBytes : RvSt → Nat
  | .sb => 1 | .sh => 2 | .sw => 4

/-- Where an address of a stagehand leads (R261). -/
inductive Where where
  | data (off : Nat)
  | scratch (addr : Nat)
  | none
  deriving DecidableEq, Repr

/-- The store behind `n` bytes at an address, for a troupe (R261). -/
def handWhere (t : Troupe) (a n : Nat) : Where :=
  if 0x10000 ≤ a ∧ a + n ≤ 0x14000 then .data (a - 0x10000)
  else if 0x400000 ≤ a ∧ a + n ≤ 0x800000 ∧ a - 0x400000 + n ≤ t.scratchSize ∧ !reservedOffset (a - 0x400000) then .scratch (t.scratchAddr (a - 0x400000))
  else .none

/-- An access of a stagehand to scratchpad waits while the clock of the quadrant that holds it is stopped (R332): the instruction is tried
again in the next cycle. -/
def State.unlessStopped (s : State) (addr : Nat) (go : State) : State :=
  if s.stopped.contains (addr / 2 ^ 20) then s.onHand s.cur.turn.unit (fun g => { g with readyAt := s.cycle + 1 }) else go

/-- A load (R261): the stagehand waits for a scratchpad value for an open time; poison is consumed (R361). -/
def State.handLoad (s : State) (h : Hand) (o : RvLd) (rd rs1 : BitVec 5) (off : Word) (len : Nat) : State :=
  let a := (h.reg rs1 + off).toNat
  let n := ldBytes o
  match s.myTroupe s.cur.turn.unit with
  | none => s
  | some t =>
    if a % n ≠ 0 then s.stopHand h .misaligned
    else match handWhere t a n with
      | .none => s.stopHand h .scratchBounds
      | .data k =>
        if h.poison.contains (k / 4) then s.stopHand h .poisoned
        else s.doneHand (h.setReg rd (ldValue o (leNat (h.data.bytes k n)))) len
      | .scratch k =>
        s.unlessStopped k (if s.scratchBad k n then s.stopHand h .poisoned
        else
          let s1 := s.doneHand (h.setReg rd (ldValue o (leNat (s.scratch.bytes k n)))) len
          { s1 with fresh := s1.fresh + 1 }.onHand s.cur.turn.unit (fun g => { g with readyAt := s.cycle + 1 + Config.latency s1.fresh }))

/-- A store (R261); a whole word loses its poison (R360). -/
def State.handStore (s : State) (h : Hand) (o : RvSt) (rs1 rs2 : BitVec 5) (off : Word) (len : Nat) : State :=
  let a := (h.reg rs1 + off).toNat
  let n := stBytes o
  let bs := leBytes n (h.reg rs2).toNat
  match s.myTroupe s.cur.turn.unit with
  | none => s
  | some t =>
    if a % n ≠ 0 then s.stopHand h .misaligned
    else match handWhere t a n with
      | .none => s.stopHand h .scratchBounds
      | .data k =>
        s.doneHand { h with data := h.data.putBytes k bs, poison := if n = 4 then h.poison.filter (fun x => x ≠ k / 4) else h.poison } len
      | .scratch k =>
        s.unlessStopped k ({ s with scratch := s.scratch.putBytes k bs,
                                    scratchPoison := if n = 4 then s.scratchPoison.filter (fun x => x ≠ k / 4) else s.scratchPoison }.doneHand h len)

/-- Whether the stagehand's earlier accesses are performed (R129, R268). -/
def State.handQuiet (s : State) (u : UnitId) : Bool := !(s.fars.any (fun f => decide (f.unit = u) && !f.performed))

/-- A fence of the stagehand at issue (R260, R268); at .device or .system scope it drains the troupe's buffers, as a FENCE of any unit
of the troupe does (R118, R130). -/
def State.handFence (s : State) (h : Hand) (x : Instr) (scope : BitVec 2) (len : Nat) : State :=
  let u := s.cur.turn.unit
  if s.handQuiet u then (if 2 ≤ scope.toNat then s.drainUnit u else s).doneHand h len else s.stallHand x false

/-- mhartid (R25): the quadrant's rank, and bit 2 set in a Striker. -/
def hartId (t : Troupe) (u : UnitId) : Word :=
  BitVec.ofNat 32 ((t.quads.findIdx? (fun q => decide (q = u.place.2))).getD 0 + match u with | .striker _ _ => 4 | _ => 0)

/-- The value of a CSR (R260). -/
def Hand.csr (h : Hand) (id : Word) (n : Nat) : Option Word :=
  match n with
  | 0xF14 => some id
  | 0xB00 => some (h.mcycle.setWidth 32)
  | 0xB80 => some ((h.mcycle >>> 32).setWidth 32)
  | 0xB02 => some (h.minstret.setWidth 32)
  | 0xB82 => some ((h.minstret >>> 32).setWidth 32)
  | _ => none

/-- A CSR takes a value; mhartid is read-only. -/
def Hand.setCsr (h : Hand) (n : Nat) (x : Word) : Option Hand :=
  let low (d : Dword) : Dword := (d >>> 32 <<< 32) ||| x.setWidth 64
  let high (d : Dword) : Dword := (x.setWidth 64 <<< 32) ||| (d.setWidth 32).setWidth 64
  match n with
  | 0xB00 => some { h with mcycle := low h.mcycle }
  | 0xB80 => some { h with mcycle := high h.mcycle }
  | 0xB02 => some { h with minstret := low h.minstret }
  | 0xB82 => some { h with minstret := high h.minstret }
  | _ => none

/-- A Zicsr instruction: RS and RC with source field zero do not write. The value written is what the next instruction
reads, so its own retirement is counted before it. -/
def State.handCsr (s : State) (h : Hand) (o : RvCsr) (rd src : BitVec 5) (num : BitVec 12) (len : Nat) : State :=
  match s.myTroupe s.cur.turn.unit with
  | none => s
  | some t =>
    match h.csr (hartId t s.cur.turn.unit) num.toNat with
    | none => s.stopHand h .illegalInstr
    | some old =>
      let v : Word := match o with
        | .rw => h.reg src
        | .rs => old ||| h.reg src
        | .rc => old &&& ~~~ h.reg src
        | .rwi => src.setWidth 32
        | .rsi => old ||| src.setWidth 32
        | .rci => old &&& ~~~ (src.setWidth 32)
      let writes := match o with | .rw => true | .rwi => true | _ => decide (src ≠ 0#5)
      let g := (h.setReg rd old).proceed (s.cycle + 1) len
      if !writes then s.onHand s.cur.turn.unit (fun _ => g)
      else match g.setCsr num.toNat v with
        | none => s.stopHand h .illegalInstr
        | some g1 => s.onHand s.cur.turn.unit (fun _ => g1)

/-- The stagehand at issue continues at an address. -/
def State.jumpHand (s : State) (h : Hand) (target : Word) : State :=
  s.onHand s.cur.turn.unit (fun _ => { h.proceed (s.cycle + 1) 0 with pc := target })

/-- A standard instruction (R260 to R262). -/
def execStagehandInstruction (i : Rv) (compressed : Bool) (s : State) : Result :=
  s.withHand (fun h =>
    let len := if compressed then 2 else 4
    let next := h.pc + BitVec.ofNat 32 len
    match i with
    | .lui rd imm => s.doneHand (h.setReg rd imm) len
    | .auipc rd imm => s.doneHand (h.setReg rd (h.pc + imm)) len
    | .jal rd off => s.jumpHand (h.setReg rd next) (h.pc + off)
    | .jalr rd rs1 off => s.jumpHand (h.setReg rd next) ((h.reg rs1 + off) &&& ~~~ 1#32)
    | .br c rs1 rs2 off => if rvCond c (h.reg rs1) (h.reg rs2) then s.jumpHand h (h.pc + off) else s.doneHand h len
    | .ld o rd rs1 off => s.handLoad h o rd rs1 off len
    | .st o rs1 rs2 off => s.handStore h o rs1 rs2 off len
    | .opi o rd rs1 imm => s.doneHand (h.setReg rd (rvAlu o (h.reg rs1) imm)) len
    | .op o rd rs1 rs2 => s.doneHand (h.setReg rd (rvAlu o (h.reg rs1) (h.reg rs2))) len
    | .md o rd rs1 rs2 => s.doneHand (h.setReg rd (rvMul o (h.reg rs1) (h.reg rs2))) len
    | .fence => s.handFence h (.stagehandInstruction .fence compressed) 1 len
    | .fenceI => s.doneHand h len
    | .ebreak => s.stopHand h .breakpoint
    | .csr o rd src num => s.handCsr h o rd src num len
    | .illegal => s.stopHand h .illegalInstr)

/-! ### Xstage (R263 to R271) -/

/-- The copy counter of a stagehand (R264). -/
def State.copyCount (s : State) (u : UnitId) : Nat := s.counter u .copy

/-- The operation that a stagehand's instruction hands to an engine. -/
def State.handFar (s : State) (x : Instr) : FarOp :=
  { id := s.cur.stamp, unit := s.cur.turn.unit, pid := 0, instr := x, pos := s.cur.pos, mstep := none, after := s.cur.pos,
    afterStep := none, word := s.cur.word, cls := .copy, lanes := 1, todo := 1, va := [], wild := 0, pa := [], hits := [],
    data := [], data2 := [], old := [], dest := none, rel := false, acq := false, scope := 1, level := 1, checked := false,
    done := false, moving := false, tile := [], rows := 0 }

/-- TCOPY (R265): the checks of R217 at issue, then an operation counted in the copy counter; the stagehand stays at the
instruction until its translations have been gone through. -/
def tcopy (x : Instr) (out : Bool) (hn : BitVec 4) (b a : BitVec 5) (s : State) : Result :=
  s.withHand (fun h =>
    match s.myTroupe s.cur.turn.unit with
    | none => s
    | some t =>
      let hd := h.h[hn.toNat]?.getD (.replicate 8 0)
      let at_ := (h.reg b).toNat
      let addr := (h.reg a).toNat
      let k := at_ - 0x10000
      let origin := h.data.dword k
      let extent := h.data.dword (k + 8)
      let e := extentOf hd extent
      let len := if e.contains 0 then 0 else tileBytes (elemWidth (hFmt hd)) (hSpitch hd) e
      if 63 ≤ s.copyCount s.cur.turn.unit then s.stallHand x false
      else if at_ < 0x10000 ∨ 0x14000 < at_ + 16 then s.stopHand h .scratchBounds
      else if at_ % 8 ≠ 0 then s.stopHand h .misaligned
      else if (List.range 4).any (fun j => h.poison.contains (k / 4 + j)) ∨ (List.range 8).any (fun j => h.poison.contains (0x2000 + 8 * hn.toNat + j)) then
        s.stopHand h .poisoned
      else if !hLegal hd || (out && !hDense hd) || !tileFits hd origin extent then s.stopHand h .handleInvalid
      else if addr % 64 ≠ 0 then s.stopHand h .misaligned
      else if t.regionBad addr len then s.stopHand h .scratchBounds
      else
        let f : FarOp := { s.handFar x with tile := hd.toList ++ [origin, extent, BitVec.ofNat 64 (t.scratchAddr addr)] }
        ({ s with fars := s.fars ++ [f] }.later { kind := .tileCopyComplete, unit := f.unit, id := f.id }).stallHand x true)

/-- TCOPY.IN (R265). -/
def execTcopyIn (h : BitVec 4) (b : BitVec 5) (a : BitVec 5) (s : State) : Result := tcopy (.tcopyIn h b a) false h b a s

/-- TCOPY.OUT (R265). -/
def execTcopyOut (h : BitVec 4) (b : BitVec 5) (a : BitVec 5) (s : State) : Result := tcopy (.tcopyOut h b a) true h b a s

/-- XH.SET (R266). -/
def execXhSet (k : BitVec 3) (h : BitVec 4) (b : BitVec 5) (a : BitVec 5) (s : State) : Result :=
  s.withHand (fun g =>
    let v : Dword := g.reg b ++ g.reg a
    let old := g.h[h.toNat]?.getD (.replicate 8 0)
    s.doneHand { g with h := g.h.setIfInBounds h.toNat (old.setIfInBounds k.toNat v), poison := g.poison.filter (fun x => x ≠ 0x2000 + 8 * h.toNat + k.toNat) } 4)

/-- XWAIT (R267). -/
def execXwait (a : BitVec 5) (s : State) : Result :=
  s.withHand (fun h =>
    if s.copyCount s.cur.turn.unit ≤ (h.reg a).toNat then s.doneHand h 4 else s.stallHand (.xwait a) false)

/-- XFENCE (R268). -/
def execXfence (e : BitVec 2) (s : State) : Result := s.withHand (fun h => s.handFence h (.xfence e) e 4)

/-- XBIN (R269), counted in the copy counter. -/
def execXbin (b : BitVec 5) (a : BitVec 5) (s : State) : Result :=
  s.withHand (fun h =>
    let u := s.cur.turn.unit
    if 63 ≤ s.copyCount u then s.stallHand (.xbin b a) false
    else if (s.binIndex (s.vdiOf u) (h.reg a).toNat).isNone then s.stopHand h .protFault
    else
      let f : FarOp := { s.handFar (.xbin b a) with va := [(h.reg a).setWidth 64], data := [h.reg b], checked := true }
      ({ s with fars := s.fars ++ [f] }.later { kind := .binAdditionPerformed, unit := u, id := f.id }).doneHand h 4)

/-- XSEM.ADD (R269): a device-scope release; the stagehand waits for the acknowledgement. -/
def execXsemAdd (b : BitVec 5) (a : BitVec 5) (s : State) : Result :=
  s.withHand (fun h =>
    let u := s.cur.turn.unit
    match s.semIndex (s.vdiOf u) (h.reg a).toNat with
    | none => s.stopHand h .protFault
    | some n =>
      if !s.handQuiet u then s.stallHand (.xsemAdd b a) false
      else
        ((s.drainUnit u).later { kind := .semaphoreAddAcknowledge, unit := u, id := s.cur.stamp, a := n, dword := (h.reg b).setWidth 64 }).stallHand (.xsemAdd b a) true)

/-- XSEM.WAIT (R269). -/
def execXsemWait (b : BitVec 5) (a : BitVec 5) (s : State) : Result :=
  s.withHand (fun h =>
    match s.semIndex (s.vdiOf s.cur.turn.unit) (h.reg a).toNat with
    | none => s.stopHand h .protFault
    | some n =>
      if (h.reg b).toNat ≤ ((s.sems.find n).getD 0).toNat then s.doneHand h 4 else s.stallHand (.xsemWait b a) true)

/-- XEXIT (R270); the pc stays at the instruction. -/
def execXexit (s : State) : Result :=
  s.withHand (fun h =>
    s.onHand s.cur.turn.unit (fun _ => { h with exited := true, held := none, asleep := false, minstret := h.minstret + 1 }))

/-- Whether another stagehand of the troupe has waited at the ring, on the same side, since before the instruction at issue: operations
are applied in the order in which they reach the ring (R120). -/
def State.handQueued (s : State) (x : Instr) : Bool :=
  match s.troupeOf s.cur.turn.unit with
  | none => false
  | some (_, t) => t.hands.any (fun u =>
      match s.hands.find u with
      | none => false
      | some h => (match h.held with | some y => (ringWaits y).isSome && decide (ringWaits y = ringWaits x) | none => false) && decide (h.tag < s.cur.tag))

/-- A ring operation of a stagehand (R120, R271): misuse stops it, a waiting operation stalls it. -/
def handRing (x : Instr) (n : BitVec 4) (o : Hand → RingOp) (d : Option (BitVec 5)) (s : State) : Result :=
  s.withHand (fun h =>
    if s.syncBad s.cur.turn.unit n.toNat then s.stopAtSync else
    match s.ringOp s.cur.turn.unit n.toNat (o h) with
    | (_, .misuse) => s.stopHand h .ringMisuse
    | (_, .wait) => s.stallHand x false
    | (s1, .done _ t) =>
      if s.handQueued x then s.stallHand x false
      else s1.doneHand (match d with | some d => h.setReg d (t.setWidth 32) | none => h) 4)

/-- RNG.TKT (R271). -/
def execRngTkt (n : BitVec 4) (d : BitVec 5) (s : State) : Result := handRing (.rngTkt n d) n (fun _ => .ticket) (some d) s

/-- RNG.PUT (R271). -/
def execRngPut (n : BitVec 4) (a : BitVec 5) (s : State) : Result := handRing (.rngPut n a) n (fun h => .fill ((h.reg a).setWidth 16)) none s

/-- RNG.GET (R271). -/
def execRngGet (n : BitVec 4) (d : BitVec 5) (s : State) : Result := handRing (.rngGet n d) n (fun _ => .take) (some d) s

/-- RNG.REL (R271). -/
def execRngRel (n : BitVec 4) (s : State) : Result := handRing (.rngRel n) n (fun _ => .free) none s

/-! ### Faults that Proscenium repairs (R358, R359) -/

/-- The physical address of the `n`-th frame that Proscenium takes. -/
def takenFrame (n : Nat) : Nat := Config.frame n % 2 ^ 28 * 4096

/-- Proscenium maps the page of a guest physical address in stage 2, where it is not mapped (R358, R359). -/
def State.repair2 (s : State) (gpa : Nat) : List Nat → Nat → State
  | [], _ => s
  | lvl :: ls, table =>
    let at_ := table + 8 * bits gpa (12 + 9 * lvl) 9
    let e := (s.mem.dword at_).toNat
    if bits e 0 1 = 1 then (if isPointer e then s.repair2 gpa ls (frameOf e) else s)
    else
      let f := takenFrame s.fresh
      let s1 : State := { s with fresh := s.fresh + 1 }
      if lvl = 0 then s1.writePhys at_ (leBytes 8 (f + 0xF))
      else ({ s1 with mem := s1.mem.clear f 4096 }.writePhys at_ (leBytes 8 (f + 1))).repair2 gpa ls f

/-- Proscenium raises PLEND from the tenant's reserve, and maps the new range in stage 2 (R358). -/
def State.refillPool (s : State) (vi : Nat) (v : Vdi) : State :=
  let k := min v.reserve 0x200000
  let s1 := (List.range (k / 0x1000)).foldl (fun (x : State) j => x.repair2 (v.plend.toNat + 0x1000 * j) levels (frameOf v.hptr.toNat)) s
  s1.onVdi vi (fun y => { y with plend := y.plend + BitVec.ofNat 64 k, reserve := y.reserve - k })

/-- Map a page for an engine, as MAPPG would, with one refill when the pool is empty (R358, R359). The page is 4 KiB with
U, W and R. Nothing when it cannot be mapped. -/
def State.mapForEngine (s : State) (vi va : Nat) : Nat → Option State
  | 0 => none
  | n + 1 =>
    match s.vdis.find vi with
    | none => none
    | some v =>
      match s.mapPage vi v (va % 2 ^ 57) 0 0xB with
      | .trap e => if e.cause = .stage2Fault then (s.repair2 e.gpa levels (frameOf v.hptr.toNat)).mapForEngine vi va n else none
      | .value s1 d =>
        if d = 0xFFFFFFFFFFFFFFFF#64 then (if v.reserve = 0 then none else (s1.refillPool vi v).mapForEngine vi va n)
        else some s1

/-- Repair the translation behind an engine's fault: nothing when the cause is not one that Proscenium repairs, or when it cannot
repair it, which is open for stage 2 (R358, R359, R404; log entry 74). -/
def State.repairFault (s : State) (vi va cause gpa : Nat) : Option State :=
  match s.vdis.find vi with
  | none => none
  | some v =>
    if cause = Cause.code .pageFault then s.mapForEngine vi va 16
    else if cause = Cause.code .stage2Fault ∧ Config.repairs s.fresh then
      some ({ s with fresh := s.fresh + 1 }.repair2 gpa levels (frameOf v.hptr.toNat))
    else none

/-- The cause that an engine's fault event names (R351). -/
def engineCause (code : Nat) : Cause :=
  if code = 0x0A then .protFault else if code = 0x0B then .nonCanonical else if code = 0x0C then .topCross
  else if code = 0x0E then .poisoned else if code = 0x0D then .stage2Fault else .pageFault

/-- A PageFault or a Stage2Fault of an engine goes to Proscenium with its record (R359, R404). -/
def State.report (s : State) (vi : Nat) (cause : Cause) (r : List Dword) : State :=
  if cause = .pageFault ∨ cause = .stage2Fault then { s with records := s.records ++ [(vi, r)] } else s

/-- The fault of a TCOPY or of a handle fetch (R359): Proscenium maps the page or repairs stage 2 and the operation starts
again; any other cause stops the point. -/
def execStagehandTranslationFault (s : State) : Result :=
  let e := s.ev
  match s.fars.find? (fun f => decide (f.id = e.id)) with
  | none => .next s
  | some f =>
    let cause := engineCause e.b
    let s0 := s.report (s.vdiOf f.unit) cause (faultRecord { f with va := [BitVec.ofNat 64 e.a] } 0 { cause := cause, gpa := e.c })
    match s0.repairFault (s.vdiOf f.unit) e.a e.b e.c with
    | some s1 =>
      let kind : Instr := if f.cls = .fetch then .handleFetchComplete else .tileCopyComplete
      .next ((s1.onFar f.id (fun g => { g with checked := false, rows := 0, pages := [], shown := [], lines := [] })).later { kind := kind, unit := f.unit, id := f.id })
    | none => .next (s0.stopUnit f.unit (if f.cls = .fetch then 2 else 3) cause (BitVec.ofNat 64 f.pos) (f.word.setWidth 64))

/-! ### Proscenium's handler for a cast's traps (R358) -/

/-- The guest physical addresses whose stage-2 translation a cast's trap at the hypervisor level awaits: those of its records,
or of the page that the MAPPG whose walk or writes failed would have reached. -/
def State.awaited (s : State) (u : UnitId) (c : Ctx) (p : Path) : List Nat :=
  let recs := (c.parked.filter (fun k => decide (k.pid = p.pid) && decide (k.level = 2))).map (fun (k : Park) => k.rec2.toNat) ++
    ((c.whole.filter (fun (w : Nat × List Dword) => decide (w.1 = 2))).map (fun (w : Nat × List Dword) => (w.2.getD 2 0).toNat))
  match s.vdis.find (s.vdiOf u), decode .cast (c.hyp.tval.setWidth 32) 0 with
  | some v, .ok (.mappg _ a b) =>
    if recs ≠ [] then recs
    else
      let i := s.pathIssue u false p
      match s.mapPage (s.vdiOf u) v ((c.rdS i a).toNat % 2 ^ 57) (bits (c.rdS i b).toNat 60 3) (bits (c.rdS i b).toNat 1 4) with
      | .trap e => [e.gpa]
      | .value _ _ => []
  | _, _ => recs

/-- Proscenium's handler serves a trap that has just entered the hypervisor level of a cast (R358): a pool request raises PLEND, and
a Stage2Fault is repaired and its lanes leave HPARK; the path then returns. An empty reserve, a fault that cannot be repaired
and any other cause stop the point. What it does counts as one step; a tenant whose handler is code of its own at HTVEC is not
served so (log entry 74). -/
def State.serveTrap (s : State) (u : UnitId) (slotB : Bool) : State :=
  match s.ctxs.find u with
  | none => s
  | some c =>
    let p := c.path slotB
    let l := c.hyp
    let cause := l.cause.toNat % 256
    let from_ := bits l.cause.toNat 8 2
    match s.vdis.find (s.vdiOf u), allCauses.find? (fun (k : Cause) => decide (k.code = cause)) with
    | some v, some k =>
      let stops := s.stopUnit u 1 k (posDword l.epc.toNat l.mstep) l.tval
      let back (x : State) : State :=
        (x.returnFrom u slotB).onCtx u (fun y => y.onPath slotB (fun q => { q with readyAt := max q.readyAt (s.cycle + 1) }))
      if !p.live ∨ p.plvl ≠ 2#2 ∨ p.held.isSome ∨ l.busy ≠ some p.pid ∨ p.pc ≠ (l.tvec.toNat % 2 ^ 30) * 4 then s
      else if k = .breakpoint ∧ from_ = 1 ∧ l.tval = 1#64 then (if v.reserve = 0 then stops else back (s.refillPool (s.vdiOf u) v))
      else if k = .stage2Fault then
        if Config.repairs s.fresh then
          let s1 := (s.awaited u c p).foldl (fun (x : State) g => x.repair2 g levels (frameOf v.hptr.toNat)) { s with fresh := s.fresh + 1 }
          back (s1.onCtx u (fun y => { y with hyp := { y.hyp with park := 0 } }))
        else stops
      else stops
    | _, _ => s

end Sys2Proof.Machine
end

