-- ==== Sys2Proof/Machine/Board.lean ====
section
/-! DEFINITION. The Callboard (R272 to R280, R366 to R369), the host's registers, and the copy engines (R281, R282,
R404). -/

namespace Sys2Proof.Machine

/-! ### Queues (R273 to R275, R366, R367) -/

/-- Entries of a queue's rings (R273). -/
def Queue.size (q : Queue) : Nat := 2 ^ q.qlog2.toNat

/-- A queue stops (R366). -/
def Queue.stopWith (q : Queue) (why : BitVec 2) : Queue := { q with stop := why, xseq := q.qacc + 1 }

/-- The engine that accepts entries looks at a queue. -/
def State.acceptSoon (s : State) (v q : Nat) : State := s.later { kind := .entryAccept, a := v, b := q, flag := true }

/-- QLOG2 of a QCFG value. -/
def cfgLog2 (x : Dword) : BitVec 4 := BitVec.ofNat 4 (bits x.toNat 4 4)

/-- The fields of QCFG other than EN. -/
def Queue.configure (q : Queue) (x : Dword) : Queue :=
  { q with qlog2 := cfgLog2 x, pri := BitVec.ofNat 2 (bits x.toNat 2 2), kind := decide (bits x.toNat 1 1 = 1) }

/-- A context is ready to start the queue's next entry (R277). -/
def Queue.readyToStart (q : Queue) (cycle : Nat) : Queue :=
  if q.en && q.running.isNone && q.readySince.isNone && !q.accepted.isEmpty then { q with readySince := some cycle } else q

/-- A write of QCFG that sets EN (R273, R367): with a ring size outside 4 to 12 it has no effect; acceptance resumes, and
held completions are written. -/
def execQueueEnable (s : State) : Result :=
  let v := s.ev.a
  let k := s.ev.b
  match s.queue v k with
  | none => .next s
  | some q =>
    if q.en ∨ (cfgLog2 s.ev.dword).toNat < 4 ∨ 12 < (cfgLog2 s.ev.dword).toNat then .next s
    else
      .next ((((s.onQueue v k (fun y => ({ y.configure s.ev.dword with en := true } : Queue).readyToStart s.cycle)).acceptSoon v k).soon
        { kind := .completionWrite, a := v, b := k }).soon { kind := .contextDispatch })

/-- A write of QCFG that clears EN clears QERR (R367); a context that has not started is no longer ready, and its wait ends
(R277). -/
def execQueueDisable (s : State) : Result :=
  .next (s.onQueue s.ev.a s.ev.b (fun q =>
    { q with en := false, stop := 0, xseq := 0, rcause := 0, readySince := if q.running.isNone then none else q.readySince,
             aged := if q.running.isNone then 0 else q.aged }))

/-- A write of QCFG with EN clear, while the queue is disabled (R273); it clears QERR as every such write does (R367). -/
def execQcfgConfigure (s : State) : Result :=
  .next (s.onQueue s.ev.a s.ev.b (fun q =>
    if q.en then q else { q.configure s.ev.dword with stop := 0, xseq := 0, rcause := 0 }))

/-- The host announces submitted entries, which it has written to its memory before; a value out of range stops the queue
(R274, R275, R366). -/
def execQtailWrite (s : State) : Result :=
  let v := s.ev.a
  let k := s.ev.b
  let x : Word := s.ev.dword.setWidth 32
  .next ((({ s with hostMem := s.hostMem.putBytes s.ev.c (s.ev.bytes.headD []) } : State).onQueue v k (fun q =>
    let y := { q with qtail := x }
    if q.size < (x - q.qacc).toNat then y.stopWith 3 else y)).acceptSoon v k)

/-- The device reads the next submission entry, checks its SEQ and advances QACC (R274, R275); an entry that cannot be read
or holds another SEQ stops the queue (R366). -/
def execEntryAccept (s : State) : Result :=
  let v := s.ev.a
  let k := s.ev.b
  match s.queue v k with
  | none => .next s
  | some q =>
    if !q.en ∨ q.stop ≠ 0#2 ∨ q.qacc = q.qtail then .next s
    else
      let n := q.qacc + 1
      let at_ := q.qbase.toNat + 16 * (n.toNat % q.size)
      if !s.ev.flag then .next (s.onQueue v k (fun y => y.stopWith 2))
      else if s.hostMem.word at_ ≠ n then .next (s.onQueue v k (fun y => y.stopWith 1))
      else
        .next (((s.onQueue v k (fun y =>
          ({ y with qacc := n, accepted := y.accepted ++ [(n, s.hostMem.word (at_ + 4), s.hostMem.dword (at_ + 8))] } : Queue).readyToStart s.cycle)).acceptSoon
            v k).soon { kind := .contextDispatch })

/-- The host marks completions consumed (R275). -/
def execQcackWrite (s : State) : Result :=
  .next ((s.onQueue s.ev.a s.ev.b (fun q => { q with qcack := s.ev.dword.setWidth 32 })).soon { kind := .completionWrite, a := s.ev.a, b := s.ev.b })

/-- The device writes the completion of the oldest ended sheet and then QDONE (R274, R275), unless the queue is disabled,
its ring is full, or the function's Bus Master Enable is clear (R367, R368). -/
def execCompletionWrite (s : State) : Result :=
  let v := s.ev.a
  let k := s.ev.b
  let bme := ((s.vdis.find v).map (fun (x : Vdi) => x.bme)).getD false
  match s.queue v k with
  | none => .next s
  | some q =>
    match q.finished with
    | [] => .next s
    | (seq, status) :: more =>
      if !q.en ∨ !bme ∨ (q.qdone - q.qcack).toNat = q.size then .next s
      else
        let at_ := q.cbase.toNat + 16 * (seq.toNat % q.size)
        let m := ((s.hostMem.putWord at_ seq).putWord (at_ + 4) status).putDword (at_ + 8) s.dt
        .next (({ s with hostMem := m }.onQueue v k (fun y => { y with qdone := seq, finished := more })).soon { kind := .completionWrite, a := v, b := k })

/-! ### Contexts and cores (R276, R277) -/

/-- The effective level of a ready context (R277). -/
def Queue.level (q : Queue) : Nat := min 3 (q.pri.toNat + q.aged)

/-- A ready context that waits for a core: interface, queue, and its queue registers. -/
def State.readyContexts (s : State) : List (Nat × Nat × Queue) :=
  s.vdis.flatMap (fun (v : Nat × Vdi) => v.2.queues.filterMap (fun (q : Nat × Queue) =>
    if q.2.readySince.isSome && q.2.core.isNone && (q.2.running.isSome || (q.2.en && !q.2.accepted.isEmpty)) then some (v.1, q.1, q.2) else none))

/-- Callboard cores that no context holds. -/
def State.freeBoards (s : State) : List Nat :=
  (List.range 8).filter (fun n => !(s.vdis.any (fun (v : Nat × Vdi) => v.2.queues.any (fun (q : Nat × Queue) => decide (q.2.core = some n)))))

/-- Whether a ready context comes before another: a higher level, or a longer wait. -/
def readyBefore (x y : Nat × Nat × Queue) : Bool :=
  decide (y.2.2.level < x.2.2.level) || (decide (y.2.2.level = x.2.2.level) && decide (x.2.2.readySince.getD 0 < y.2.2.readySince.getD 0))

/-- The registers of a sheet as it starts (R276). -/
def sheetCtx (cycle q : Nat) (seq entry : Word) (arg : Dword) : Ctx :=
  let s0 : Vector Dword 48 := (((Vector.replicate 48 0#64).setIfInBounds 0 arg).setIfInBounds 1 (seq.setWidth 64)).setIfInBounds 2 (BitVec.ofNat 64 q)
  { Ctx.zero with s := s0, a := { Path.none with live := true, pid := 1, pc := 4 * entry.toNat, em := BitVec.allOnes 32, readyAt := cycle },
                  nextPid := 2 }

/-- A free Callboard core takes the ready context of the highest level that has waited longest (R277); which of several
equal ones is open. -/
def execContextDispatch (s : State) : Result :=
  let rs := s.readyContexts
  let best := rs.filter (fun x => !rs.any (fun y => readyBefore y x))
  match s.freeBoards, best[Config.pick s.fresh % best.length]? with
  | n :: _, some (v, k, q) =>
    let s0 : State := { s with fresh := s.fresh + 1 }
    let s1 := match q.running, q.accepted with
      | some _, _ => s0.onQueue v k (fun y => { y with core := some n, readySince := none, aged := 0 })
      | none, (seq, entry, arg) :: more =>
        (s0.onQueue v k (fun y => { y with core := some n, readySince := none, aged := 0, running := some (seq, entry), accepted := more })).setCtx
          (.board v k) (sheetCtx s.cycle k seq entry arg)
      | none, [] => s0
    .next (s1.soon { kind := .contextDispatch })
  | _, _ => .next s

/-- A context that has waited ready for another 65,536 cycles rises a level (R277). -/
def execContextPriorityAging (s : State) : Result :=
  .next (s.onQueue s.ev.a s.ev.b (fun q =>
    match q.readySince with
    | some c => if c + 65536 * (q.aged + 1) ≤ s.cycle then { q with aged := q.aged + 1 } else q
    | none => q))

/-- A waiting context releases its core (R277). -/
def State.freeCore (s : State) (u : UnitId) : State :=
  match u with
  | .board v k => (s.onQueue v k (fun q => { q with core := none, readySince := none })).soon { kind := .contextDispatch }
  | _ => s

/-! ### Copy records (R281) -/

/-- Whether a copy record stands as R281 says. -/
def copyLegal (v : Vdi) (addr : Nat) (r : List Byte) : Bool :=
  let w := (recWord r 0).toNat
  let fromBin := decide (bits w 34 1 = 1)
  decide (addr % 64 = 0) && decide (bits w 48 16 = 0) && decide (bits w 32 2 = 0) && decide (bits w 4 16 = 0) &&
    (r.drop 0x20).all (fun b => decide (b = 0#8)) && (fromBin || decide (bits w 20 12 = 0)) &&
    decide (bits w 36 12 < v.img.semShare) && (!fromBin || decide (bits w 20 12 < v.img.binShare)) &&
    (fromBin || decide ((recWord r 3).toNat ≤ 2 ^ 48))

/-- Present a copy record to the copy engines (R281). -/
def State.presentCopy (s : State) (vdi addr : Nat) (r : List Byte) : State × Presented :=
  match s.vdis.find vdi with
  | none => (s, .refused)
  | some v =>
    if !copyLegal v addr r then (s, .refused)
    else if 64 ≤ v.copies.length then (s, .full)
    else
      let c : Copy := { vdi := vdi, addr := BitVec.ofNat 64 addr, w0 := recWord r 0, src := recWord r 1, dst := recWord r 2, len := recWord r 3,
                        pos := 0, faulted := false }
      ((s.onVdi vdi (fun x => { x with copies := x.copies ++ [c] })).soon { kind := .copyStart }, .accepted)

/-! ### The Callboard words (R278) -/

/-- CB.SUBMIT (R278): the checks of its second operand, then the record is read; the context waits without a core. -/
def execCbSubmit (a b : Reg) (s : State) : Result :=
  s.withCur (fun i c =>
    let u := s.cur.turn.unit
    let vals := [c.rdS i a, c.rdS i b]
    match u with
    | .board v k =>
      let copy := ((s.queue v k).map (fun (q : Queue) => q.kind)).getD false
      if nth vals 1 ≠ (if copy then 1#64 else 0#64) then s.raise .illegalInstr
      else ((s.later { kind := .recordPresented, unit := u, id := s.cur.tag }).holdPath (.cbSubmit a b) vals true).freeCore u
    | _ => s.raise .illegalInstr)

/-- A context's wait has ended, and it is ready for a core (R277). -/
def State.boardReady (s : State) (v k tag : Nat) : State :=
  ((s.wake (.board v k) tag).onQueue v k (fun q => { q with readySince := some s.cycle })).soon { kind := .contextDispatch }

/-- A submission is refused: the sheet ends with STATUS 1, and RCAUSE says why (R278, R366, R369). -/
def State.refuseSubmit (s : State) (v k : Nat) (cause : Nat) : State :=
  (s.onQueue v k (fun q => { q with rcause := BitVec.ofNat 8 cause })).endSheet v k 1

/-- The record of a CB.SUBMIT has been read: it is accepted, waits while the queue that takes it is full, or is refused; a
fault of the read, poison of a table entry among them, ends the sheet with STATUS 2 (R278, R361, R366). -/
def State.submitRecord (s : State) (v k tag : Nat) : State :=
  match (s.ctxs.find (.board v k)).bind (fun (c : Ctx) => c.sleeper tag) with
  | none => s
  | some h =>
    let va := (nth h.vals 0).toNat
    let nest := decide (nth h.vals 1 = 0#64)
    let bad := if nest then 0x15 else 0x0A
    match s.readBase v 1 40 va (if nest then 256 else 64) with
    | (s1, .error (e, _)) =>
      if e.data then s1.refuseSubmit v k 0x0E else s1.sheetFault v k e.cause (h.word.setWidth 64)
    | (s1, .ok r) =>
      match (if nest then s1.presentNest v va r else s1.presentCopy v va r) with
      | (s2, .refused) => s2.refuseSubmit v k bad
      | (s2, .full) => s2.later s.ev
      | (s2, .accepted) => s2.boardReady v k tag

/-- The read of a record is complete: a submission of a sheet or of the post window is carried out, and the word of
another unit acts (R335, R402). -/
def execRecordPresented (s : State) : Result :=
  .next (if s.ev.flag then s.windowPost s.ev.a s.ev.dword.toNat s.ev.b
    else match s.ev.unit with
      | .board v k => s.submitRecord v k s.ev.id
      | u => s.rouse u s.ev.id)

/-- CB.SEMWAIT (R278): a context that waits releases its core (R277). -/
def execCbSemwait (a : Reg) (k : BitVec 12) (s : State) : Result :=
  s.withCur (fun i c =>
    let u := s.cur.turn.unit
    let x := c.rdS i a
    match s.semIndex (s.vdiOf u) k.toNat with
    | none => s.raise .protFault
    | some n =>
      if x.toNat ≤ ((s.sems.find n).getD 0).toNat then s else (s.holdPath (.cbSemwait a k) [x] true).freeCore u)

/-- CB.SEMADD (R278): the context goes on once the addition is acknowledged (R402). -/
def execCbSemadd (a : Reg) (k : BitVec 12) (s : State) : Result :=
  s.withCur (fun i c =>
    let u := s.cur.turn.unit
    let x := c.rdS i a
    match s.semIndex (s.vdiOf u) k.toNat with
    | none => s.raise .protFault
    | some n =>
      (s.later { kind := .semaphoreAddAcknowledge, unit := u, id := s.cur.tag, a := n, dword := x }).holdPath (.cbSemadd a k) [x] true)

/-- CB.IRQ (R278); earlier additions of the sheet are performed, since each holds its context. -/
def execCbIrq (v : BitVec 12) (s : State) : Result := s.withCur (fun _ _ => s.msix (s.vdiOf s.cur.turn.unit) v.toNat)

/-! ### Registers (R273, R280, R334, R349, R368) -/

/-- A host write sets a semaphore of an interface's share (R280). -/
def execSemaphoreHostWrite (s : State) : Result :=
  match s.semIndex s.ev.a s.ev.b with
  | none => .next s
  | some n => .next ({ s with sems := s.sems.put n s.ev.dword }.semWake n)

/-- A write to a register without a row of its own: QBASE and CBASE while the queue is disabled, and FLACK; every other
write changes nothing (R273, R334, R349, R367). Proscenium writes the group table (R303, R312), and its handler's service of a
cast's trap reaches the cast this way too (R358). -/
def execRegisterWrite (s : State) : Result :=
  let v := s.ev.a
  let o := s.ev.b
  let x := s.ev.dword
  if s.ev.id = 1 then
    match s.ev.point with
    | [g, w, home, index] => .next (s.writeGroup g.toNat w.toNat home.toNat index.toNat)
    | _ => .next s
  else if s.ev.id = 2 then .next (s.serveTrap s.ev.unit s.ev.flag)
  else if !s.ev.flag then
    if !s.secure.recovery then .next s
    else if o = 0x3000008 then .next { s with flash := { s.flash with off := x.setWidth 28 } }
    else if 0x3001000 ≤ o ∧ o + 8 ≤ 0x3001100 then
      .next { s with flash := { s.flash with buffer := s.flash.buffer.putBytes (o - 0x3001000) (leBytes 8 x.toNat) } }
    else .next s
  else if o = 0x0808 then .next (s.onVdi v (fun y => { y with flack := x.setWidth 32 }))
  else if 0x1000 ≤ o ∧ o < 0x1000 + 0x40 * 16 then
    let k := (o - 0x1000) / 0x40
    let r := (o - 0x1000) % 0x40
    .next (s.onQueue v k (fun q => if q.en then q else if r = 0x08 then { q with qbase := x } else if r = 0x10 then { q with cbase := x } else q))
  else .next s

/-- A write of FLLOST clears it (R349). -/
def execFllostClear (s : State) : Result := .next (s.onVdi s.ev.a (fun y => { y with fllost := 0 }))

/-- A Function Level Reset resets the function's PCIe configuration state, Bus Master Enable with it, and its MSI-X table; it
leaves everything else (R368). -/
def execFunctionLevelReset (s : State) : Result := .next (s.onVdi s.ev.a (fun y => { y with bme := false, pcie := [], msixTable := [] }))

/-- A host write of a function's configuration: Bus Master Enable is set, and held completions and messages go out, or it is cleared with
the flag (R368). With operand b = 1 the write is of a dword of the configuration space, and with b = 2 of a dword of the MSI-X table, at
index c: what they hold the spec does not say, and only a reset changes it otherwise (log entry 4). -/
def execBusMasterEnable (s : State) : Result :=
  let v := s.ev.a
  match s.vdis.find v with
  | none => .next s
  | some x =>
    if s.ev.b = 1 then .next (s.onVdi v (fun y => { y with pcie := y.pcie.put s.ev.c s.ev.word }))
    else if s.ev.b = 2 then .next (s.onVdi v (fun y => { y with msixTable := y.msixTable.put s.ev.c s.ev.word }))
    else if s.ev.flag then .next (s.onVdi v (fun y => { y with bme := false }))
    else
    .next (x.queues.foldl (fun (y : State) (q : Nat × Queue) => y.soon { kind := .completionWrite, a := v, b := q.1 })
      (s.onVdi v (fun y => { y with bme := true, irqSent := y.irqSent ++ y.irqHeld, irqHeld := [] })))

/-! ### Copies (R281, R282, R404) -/

/-- A record of KIND 11 (R281, R404). -/
def State.copyRecord (s : State) (c : Copy) (cause : Nat) (info : Dword) : State :=
  s.faultLog c.vdi { w0 := faultWord 11 cause 0 0 0 15, pos := c.addr, info := info, dt := s.dt }

/-- The engine whose copy has ended is free. -/
def State.engineFree (s : State) (e : Nat) : State := { s with engines := s.engines.drop e }.soon { kind := .copyStart }

/-- A free engine starts the oldest record of a copy queue (R281), substituting a bin's count (R282); which interface's
queue it serves is open. -/
def execCopyStart (s : State) : Result :=
  let vs := s.vdis.filter (fun (v : Nat × Vdi) => !v.2.copies.isEmpty)
  match (List.range 4).filter (fun e => (s.engines.find e).isNone), vs[Config.pick s.fresh % vs.length]? with
  | e :: _, some (v, x) =>
    match x.copies with
    | [] => .next s
    | c :: more =>
      let s1 := ({ s with fresh := s.fresh + 1 } : State).onVdi v (fun y => { y with copies := more })
      let w := c.w0.toNat
      let n := if bits w 34 1 = 1 then ((s.bins.find (x.img.binBase + bits w 20 12)).getD 0).toNat * 2 ^ bits w 0 4 else c.len.toNat
      if 2 ^ 48 < n then .next ((s1.copyRecord c 0x0A (BitVec.ofNat 64 n)).soon { kind := .copyStart })
      else
        .next (({ s1 with engines := s1.engines.put e { c with len := BitVec.ofNat 64 n } }.later { kind := .copyComplete, a := e }).soon { kind := .copyStart })
  | _, _ => .next s

/-- Bytes of the next part of a copy: up to the next aligned 4-byte word of the destination (R128, R281). -/
def Copy.part (c : Copy) : Nat := min (c.len.toNat - c.pos) (4 - (c.dst.toNat + c.pos) % 4)

/-- Source bytes of a copy with the poison that they carry (R361, R404): a byte is translated on its own, for the part may
cross a page of the source. -/
def State.copySource (s : State) (vdi : Nat) : Nat → Nat → State × Except (Xerr × Nat) (List Byte × Bool)
  | 0, _ => (s, .ok ([], false))
  | n + 1, va =>
    match addressCheck (va : Int) 1 with
    | some k => (s, .error ({ cause := k, gpa := 0 }, va))
    | none =>
      match s.access vdi (needR 1) va with
      | (s1, .error e) => (s1, .error (e, va))
      | (s1, .ok x) =>
        match s1.copySource vdi n (va + 1) with
        | (s2, .error e) => (s2, .error e)
        | (s2, .ok (bs, b)) => (s2, .ok (s1.mem.read x.pa :: bs, s1.lineBad x.pa || b))

/-- Move the next part of a copy (R281, R404), with the poison of its source (R361); the first word of a line that the copy
covers whole clears the line's mark (R360). -/
def State.copyPart (s : State) (c : Copy) : State × Except (Xerr × Nat) Unit :=
  let target := c.dst.toNat + c.pos
  match s.copySource c.vdi c.part (c.src.toNat + c.pos) with
  | (s1, .error e) => (s1, .error e)
  | (s1, .ok (bs, bad)) =>
    match addressCheck (target : Int) 1 with
    | some k => (s1, .error ({ cause := k, gpa := 0 }, target))
    | none =>
      match s1.access c.vdi (needW 1) target with
      | (s2, .error e) => (s2, .error (e, target))
      | (s2, .ok y) =>
        let line := y.pa / 64
        let whole := decide (y.pa % 64 = 0) && decide (64 ≤ c.len.toNat - c.pos)
        let p0 := if whole then s2.poison.filter (fun l => l ≠ line) else s2.poison
        let p1 := if bad then line :: p0.filter (fun l => l ≠ line) else p0
        let s3 := s2.dirty y
        ({ s3 with mem := s3.mem.putBytes y.pa bs, poison := p1 }, .ok ())

/-- A copy goes on by one part, and with the last one it has finished and adds to DSEM (R281). -/
def execCopyComplete (s : State) : Result :=
  let e := s.ev.a
  match s.engines.find e with
  | none => .next s
  | some c =>
    if c.faulted then .next s
    else if c.len.toNat ≤ c.pos then
      let w := c.w0.toNat
      let s1 := if bits w 35 1 = 1 then (match s.semIndex c.vdi (bits w 36 12) with | some n => s.semAdd n 1 | none => s) else s
      .next (s1.engineFree e)
    else
      match s.copyPart c with
      | (s1, .error (x, va)) =>
        .next ({ s1 with engines := s1.engines.put e { c with faulted := true } }.soon
          { kind := .copyFault, a := e, b := x.cause.code, c := x.gpa, dword := BitVec.ofNat 64 va })
      | (s1, .ok ()) =>
        .next (({ s1 with engines := s1.engines.put e { c with pos := c.pos + c.part } }.countBase c.vdi (2 * c.part)).later s.ev)

/-- The record of a copy's fault in the layout of R250 (R404): a copy moves 4-byte words, and writes where the address lies in its
destination; it has no word, whose position and major are open (log entry 73). -/
def copyFaultRecord (n : Nat) (c : Copy) (va : Dword) (e : Xerr) : List Dword :=
  let wr := decide (va = c.dst + BitVec.ofNat 64 c.pos)
  [BitVec.ofNat 64 ((Config.recordPos n).toNat * 2 ^ 32 + wr.toNat * 2 ^ 20 + 2 * 2 ^ 16 + (Config.recordMajor n).toNat * 2 ^ 8 + e.cause.code), va,
   BitVec.ofNat 64 (if e.cause = .stage2Fault then e.gpa else 0), 0]

/-- A copy has met a fault (R404): Proscenium repairs it and the copy goes on from the word that faulted, or the copy ends
with a record. -/
def execCopyFault (s : State) : Result :=
  let e := s.ev.a
  match s.engines.find e with
  | none => .next s
  | some c =>
    if !c.faulted then .next s
    else
      let s0 := s.report c.vdi (engineCause s.ev.b) (copyFaultRecord s.fresh c s.ev.dword { cause := engineCause s.ev.b, gpa := s.ev.c })
      match s0.repairFault c.vdi s.ev.dword.toNat s.ev.b s.ev.c with
      | some s1 => .next ({ s1 with engines := s1.engines.put e { c with faulted := false } }.later { kind := .copyComplete, a := e })
      | none => .next ((s0.copyRecord c s.ev.b s.ev.dword).engineFree e)

end Sys2Proof.Machine
end

