-- ==== Sys2Proof/Machine/Object.lean ====
section
/-! DEFINITION. The bytes of an object image (R396 to R398), and what the loader reads from them (R399). -/

namespace Sys2Proof.Machine

/-- A section entry (R397). -/
structure ObjSection where
  kind : Nat
  size : Nat
  off : Nat
  obj : Nat
  deriving DecidableEq, Repr

/-- A symbol: its section, KIND and VALUE (R398). -/
structure Symbol where
  sect : Nat
  kind : Nat
  value : Nat
  deriving DecidableEq, Repr

/-- A relocation (R398). -/
structure Reloc where
  sect : Nat
  off : Nat
  sym : Nat
  type : Nat
  addend : Nat
  deriving DecidableEq, Repr

/-- An object image, with its body entries: CENT and the index of a ring table (R396 to R398). -/
structure ObjectImage where
  sections : List ObjSection
  symbols : List Symbol
  relocs : List Reloc
  bodies : List (Nat × Nat)
  xmin : Int
  xmax : Int
  ymin : Int
  ymax : Int
  gangMax : Nat
  deriving DecidableEq, Repr

/-- A little-endian field of `n` bytes. -/
def objField (bs : List Byte) (o n : Nat) : Nat := leNat ((bs.drop o).take n)

/-- A signed byte. -/
def objSigned (bs : List Byte) (o : Nat) : Int := (BitVec.ofNat 8 (objField bs o 1)).toInt

/-- Read an object image: the header, then the section table, the symbols, the relocations and the body table. The bytes are no image
when MAGIC or VERSION is wrong, the seven bytes at 0x19 are not zero, a table or a section's contents do not lie within them, or a
section kind is unknown or occurs more often than R397 allows. -/
def parseObject (bs : List Byte) : Option ObjectImage :=
  let nsect := objField bs 6 2
  let nsym := objField bs 8 4
  let nrel := objField bs 0xC 4
  let nbody := objField bs 0x10 4
  let syms := 32 + 32 * nsect
  let rels := syms + 80 * nsym
  let bods := rels + 24 * nrel
  if bs.length < bods + 8 * nbody ∨ bs.length < 32 ∨ objField bs 0 4 ≠ 0x4F584644 ∨ objField bs 4 2 ≠ 1 ∨ objField bs 0x19 7 ≠ 0 then none
  else
    let sections := (List.range nsect).map (fun k =>
      let o := 32 + 32 * k
      ({ kind := objField bs o 4, size := objField bs (o + 8) 8, off := objField bs (o + 16) 8, obj := objField bs (o + 24) 4 } : ObjSection))
    if sections.any (fun x => decide (5 < x.kind) || (decide (x.kind ≠ 2) && decide (bs.length < x.off + x.size))) ||
        [0, 3, 4].any (fun k => decide (1 < (sections.filter (fun x => decide (x.kind = k))).length)) then none
    else some {
      sections := sections
      symbols := (List.range nsym).map (fun k =>
        let o := syms + 80 * k
        { sect := objField bs (o + 64) 4, kind := objField bs (o + 68) 4, value := objField bs (o + 72) 8 })
      relocs := (List.range nrel).map (fun k =>
        let o := rels + 24 * k
        { sect := objField bs o 4, off := objField bs (o + 4) 4, sym := objField bs (o + 8) 4, type := objField bs (o + 12) 4, addend := objField bs (o + 16) 8 })
      bodies := (List.range nbody).map (fun k => (objField bs (bods + 8 * k) 4, objField bs (bods + 8 * k + 4) 4))
      xmin := objSigned bs 0x14
      xmax := objSigned bs 0x15
      ymin := objSigned bs 0x16
      ymax := objSigned bs 0x17
      gangMax := objField bs 0x18 1 }

/-- The contents of a section; a zero-fill section has none in the image. -/
def ObjSection.contents (x : ObjSection) (bs : List Byte) : List Byte := if x.kind = 2 then List.replicate x.size 0#8 else (bs.drop x.off).take x.size

/-- The contents of the sections of a kind, in the order of the table. -/
def ObjectImage.kindBytes (o : ObjectImage) (bs : List Byte) (k : Nat) : List Byte :=
  (o.sections.filter (fun x => decide (x.kind = k))).flatMap (fun x => x.contents bs)

/-- The ring table of a body entry: sixteen 64-bit descriptors of a kind 5 section (R397, R398). -/
def ObjectImage.ringTable (o : ObjectImage) (bs : List Byte) (index : Nat) : List Dword :=
  if index = 0xFFFFFFFF then []
  else (List.range 16).map (fun k => BitVec.ofNat 64 (objField (o.kindBytes bs 5) (128 * index + 8 * k) 8))

/-- The value that a relocation writes (R398): of TYPE 1, the virtual address of a data symbol plus ADDEND. No other relocation arises,
so the bytes are no image where one stands (log entry 33). -/
def ObjectImage.relocValue (o : ObjectImage) (sectVa : List Nat) (r : Reloc) : Option Dword :=
  match o.symbols[r.sym]? with
  | some y => if r.type = 1 ∧ y.kind = 1 ∧ y.sect < o.sections.length then some (BitVec.ofNat 64 (sectVa.getD y.sect 0 + y.value + r.addend)) else none
  | none => none

/-- The relocations with their values, when each has one. -/
def ObjectImage.relocValues (o : ObjectImage) (sectVa : List Nat) : List Reloc → Option (List (Nat × Nat × Dword))
  | [] => some []
  | r :: rs =>
    match o.relocValue sectVa r, o.relocValues sectVa rs with
    | some x, some xs => some ((r.sect, r.off, x) :: xs)
    | _, _ => none

/-- The parts of a tenant's image, read from the bytes of its object image when these are given; nothing when they are no image. -/
def resolveImage (m : TenantImage) : Option TenantImage :=
  if m.object = [] then some m
  else
    match parseObject m.object with
    | none => none
    | some o =>
      match o.relocValues m.sectVa o.relocs with
      | none => none
      | some rs => some { m with
          code := o.kindBytes m.object 0
          stagehandCode := o.kindBytes m.object 3
          stagehandData := o.kindBytes m.object 4
          emptyObjects := (o.sections.filter (fun x => decide (x.obj ≤ 2) && decide (x.size = 0))).map (fun x => x.obj)
          data := (o.sections.zipIdx).map (fun (x : ObjSection × Nat) => if x.1.kind = 1 ∨ x.1.kind = 2 then (m.sectVa.getD x.2 0, x.1.contents m.object) else (0, []))
          relocs := rs
          bodies := o.bodies.map (fun (b : Nat × Nat) => { cent := b.1, rdesc := o.ringTable m.object b.2 })
          xmin := o.xmin
          xmax := o.xmax
          ymin := o.ymin
          ymax := o.ymax
          gangMax := o.gangMax }

end Sys2Proof.Machine
end

