-- ==== Sys2Proof/Machine/Matrix.lean ====
section
/-! DEFINITION. The matrix unit: operand words (R223, R224), the checks of R225, issue and overlap (R226, R227), the steps
of R107 and R108, products (R228 to R235), array shape (R236), the gate pipeline (R231, R237, R238), the linear scan (R109,
R239), status (R240) and handle operands (R103 to R106, R241 to R243). -/

namespace Sys2Proof.Machine

/-! ### Formats and shape -/

/-- AFMT of fm (R92). -/
def fmA (fm : Word) : Nat := bits fm.toNat 28 4
/-- BFMT of fm. -/
def fmB (fm : Word) : Nat := bits fm.toNat 24 4
/-- ACC of fm. -/
def fmAcc (fm : Word) : BitVec 2 := BitVec.ofNat 2 (bits fm.toNat 22 2)
/-- OFMT of fm. -/
def fmO (fm : Word) : Nat := bits fm.toNat 18 4

/-- Whether two operand formats and an accumulate format obey R93. -/
def pairLegal (a b : Nat) (acc : BitVec 2) : Bool :=
  if isIntFmt a && isIntFmt b then decide (acc = 1#2)
  else if isIntFmt a || isIntFmt b then false
  else decide (acc = 0#2 ∨ acc = 2#2)

/-- Rows of the array in a shape (R24, R222). -/
def arrayRows (shape : BitVec 2) : Nat := if 2 ≤ shape.toNat then 128 else 64
/-- Columns of the array in a shape. -/
def arrayCols (shape : BitVec 2) : Nat := if shape.toNat % 2 = 1 then 128 else 64

/-- Width class of a pair (R107). -/
def pairWidth (a b : Nat) : Nat := max (elemWidth a) (elemWidth b)

/-- P, the K positions of a step (R107). -/
def stepP (w : Nat) (structured : Bool) : Nat :=
  if 16 ≤ w then (if structured then 4 else 1) else if 6 ≤ w then (if structured then 4 else 2) else if structured then 8 else 4

/-- T, the cycles of a step (R227). -/
def stepT (w : Nat) (structured : Bool) : Nat := (if w = 32 then 4 else 1) * (if structured && decide (16 ≤ w) then 2 else 1)

/-- The exact value of an accumulator word (R222). -/
def accValue (acc : BitVec 2) (w : Word) : Num :=
  match acc.toNat with
  | 0 => f32 w
  | 1 => (Fmt.int true 32).decode w.toNat
  | _ => fp16.decode (w.toNat % 2 ^ 16)

/-- An exact value in a format, by its code, under a mode and SAT: round of R159. -/
def encodeIn (code : Nat) (mode : Mode) (sat : Bool) (x : Num) : Nat × BitVec 7 :=
  match fmtOf code with
  | .flt g => g.encode mode sat x
  | .int sg w => intEncode sg w mode x

/-! ### Steps (R107, R108) -/

/-- A step of a cell: the accumulator and the exact sum of the products, rounded once (R108). -/
def stepAcc (acc : BitVec 2) (w : Word) (ps : List Num) : Word × BitVec 7 :=
  let x := ps.foldl (Num.add false) (accValue acc w)
  match acc.toNat with
  | 1 =>
    match x.asInt with
    | some v => (BitVec.ofInt 32 v, if v < -(2 ^ 31) ∨ 2 ^ 31 - 1 < v then stIOV else 0)
    | none => (w, 0)
  | 0 => let r := fp32.encode .rne false x; (BitVec.ofNat 32 r.1, r.2 &&& (stNV ||| stOF))
  | _ => let r := fp16.encode .rne false x; (BitVec.ofNat 32 r.1, r.2 &&& (stNV ||| stOF))

/-- A row of a tile: its exact values, nothing at a position that a 2:4 group does not keep. -/
abbrev TileRow := List (Option Num)

/-- The products of one group, for each position that both operands keep (R229). -/
def groupProducts (a b : TileRow) (lo p : Nat) : List Num :=
  (List.range p).filterMap (fun j =>
    match (a[lo + j]?).join, (b[lo + j]?).join with
    | some x, some y => some (x.mul y)
    | _, _ => none)

/-- A cell after its groups, with its flags and the number of products. -/
def cellSteps (acc : BitVec 2) (p : Nat) (groups : List Nat) (a b : TileRow) (w : Word) : Word × BitVec 7 × Nat :=
  groups.foldl (fun (r : Word × BitVec 7 × Nat) g =>
    let ps := groupProducts a b (g * p) p
    let x := stepAcc acc r.1 ps
    (x.1, r.2.1 ||| x.2, r.2.2 + ps.length)) (w, 0, 0)

/-- Rows of accumulators after their groups, with the flags and the number of products. -/
def stepRows (acc : BitVec 2) (p : Nat) (groups : List Nat) (as bs : List TileRow) (cols : Nat) (old : List (List Word)) :
    List (List Word) × BitVec 7 × Nat :=
  let rs := (List.range as.length).map (fun i => (List.range cols).map (fun j =>
    cellSteps acc p groups (as.getD i []) (bs.getD j []) ((old.getD i []).getD j 0)))
  (rs.map (fun r => r.map (fun x => x.1)), rs.flatten.foldl (fun f x => f ||| x.2.1) 0,
   rs.flatten.foldl (fun n x => n + x.2.2) 0)

/-- Whether a value counts as zero for skipping (R230). -/
def Num.isZero : Num → Bool
  | .fin _ m _ => decide (m = 0)
  | _ => false

/-- Whether a value is an infinity or a NaN. -/
def Num.notFinite : Num → Bool
  | .fin .. => false
  | _ => true

/-- The chunks of eight positions in which every value of A is zero (R230). -/
def zeroChunks (k : Nat) (as : List TileRow) : List Nat :=
  (List.range (k / 8)).filter (fun c => as.all (fun a => (List.range 8).all (fun j =>
    match (a[8 * c + j]?).join with | some x => x.isZero | none => true)))

/-- Whether a chunk of B holds an infinity or a NaN (R230). -/
def chunkNotFinite (bs : List TileRow) (c : Nat) : Bool :=
  bs.any (fun b => (List.range 8).any (fun j => match (b[8 * c + j]?).join with | some x => x.notFinite | none => false))

/-! ### Operand words (R223, R224) -/

/-- A tile in scratchpad: address, PITCH, rows and bytes in a row. -/
structure Area where
  addr : Nat
  pitch : Nat
  rows : Nat
  rowBytes : Nat
  deriving DecidableEq, Repr

/-- The tile of an operand word, rows of `n` elements of `w` bits. -/
def areaOf (v : Dword) (rows n w : Nat) : Area := { addr := bits v.toNat 0 22, pitch := bits v.toNat 32 16, rows := rows, rowBytes := n * w / 8 }

/-- Whether a field that must be zero is not: bits 31:22, and SLOTS except in MSHO. -/
def opReserved (slots : Bool) (v : Dword) : Bool := decide (bits v.toNat 22 10 ≠ 0) || (!slots && decide (bits v.toNat 48 16 ≠ 0))

/-- Bytes from a row to the next. -/
def Area.stride (a : Area) : Nat := if a.pitch = 0 then a.rowBytes else a.pitch
/-- Bytes from ADDR to the end of the last row. -/
def Area.len (a : Area) : Nat := (a.rows - 1) * a.stride + a.rowBytes
/-- Whether ADDR or PITCH breaks R225. -/
def Area.misaligned (a : Area) : Bool :=
  decide (a.addr % 64 ≠ 0) || decide (a.pitch % 64 ≠ 0) || (decide (a.pitch ≠ 0) && decide (a.pitch < a.rowBytes))
/-- The area as a resource. -/
def Area.res (a : Area) : Res := .area a.addr (a.addr + a.len)
/-- Whether two areas overlap. -/
def Area.overlaps (a b : Area) : Bool := decide (a.addr < b.addr + b.len) && decide (b.addr < a.addr + a.len)

/-- The codes of `n` elements of `w` bits in a row of an area (R91). -/
def State.areaRow (s : State) (t : Troupe) (a : Area) (n w r : Nat) : List Nat :=
  let x := leNat (s.scratch.bytes (t.scratchAddr (a.addr + r * a.stride)) (n * w / 8))
  (List.range n).map (fun k => x / 2 ^ (w * k) % 2 ^ w)

/-- Whether an area holds poison. -/
def State.areaBad (s : State) (t : Troupe) (a : Area) : Bool :=
  (List.range a.rows).any (fun r => s.scratchBad (t.scratchAddr (a.addr + r * a.stride)) a.rowBytes)

/-- The exact values of an area in a format that needs no scale (R90). -/
def State.areaTile (s : State) (t : Troupe) (a : Area) (n fmt : Nat) : List TileRow :=
  (List.range a.rows).map (fun r => (s.areaRow t a n (elemWidth fmt) r).map (fun x => some ((fmtOf fmt).decode x)))

/-- Write rows of `w`-bit codes to an area. -/
def State.putArea (s : State) (t : Troupe) (a : Area) (w : Nat) (rows : List (List Nat)) : State :=
  rows.zipIdx.foldl (fun (x : State) (r : List Nat × Nat) =>
    let at_ := t.scratchAddr (a.addr + r.2 * a.stride)
    let n := r.1.length * w / 8
    { x with scratch := x.scratch.putBytes at_ (leBytes n (packCodes w r.1)),
             scratchPoison := x.scratchPoison.filter (fun q => !(decide (at_ ≤ 4 * q) && decide (4 * q + 4 ≤ at_ + n))) }) s

/-- A handle reference (R224): the register that it names, and the tile's origin. -/
def refHandle (c : Ctx) (v : Dword) : Handle := c.handle (BitVec.ofNat 4 (bits v.toNat 0 4))
/-- Reserved bits of a handle reference. -/
def refReserved (v : Dword) : Bool := decide (bits v.toNat 48 16 ≠ 0) || decide (bits v.toNat 4 12 ≠ 0)
/-- Whether the innermost level is Structured-2:4. -/
def hStructured (h : Handle) : Bool := decide (hLevel h (hRank h - 1) = 4)
/-- The checks of R217 and R224 on a matrix handle and its reference. -/
def matrixHandle (h : Handle) (v : Dword) : Bool :=
  hLegal h && decide (hRank h = 2) && decide (bits v.toNat 32 16 % 8 = 0)

/-- The first condition that holds gives the cause (R225). -/
def firstCause : List (Bool × Cause) → Option Cause
  | [] => none
  | (b, c) :: cs => if b then some c else firstCause cs

/-! ### Issue and overlap (R226, R227) -/

/-- Whether two resources are in conflict when one of the words writes. -/
def Res.hits (a b : Res) : Bool :=
  match a, b with
  | .area l h, .area l2 h2 => decide (l < h2) && decide (l2 < h)
  | .stSet, .stSet => false
  | .stSet, .st => true
  | .st, .stSet => true
  | _, _ => decide (a = b)

/-- Whether an earlier word holds back one that would issue in this cycle: it has not completed before this cycle and is
on the same engine, writes what the new word reads or writes, or reads what it writes. -/
def MatOp.blocks (o : MatOp) (cycle : Nat) (eng : Engine) (reads writes : List Res) : Bool :=
  (match o.due with | none => true | some d => decide (cycle ≤ d)) &&
    ((decide (o.engine = eng) && decide (eng ≠ .none)) ||
      o.writes.any (fun a => (reads ++ writes).any a.hits) || o.reads.any (fun a => writes.any a.hits))

/-- The matrix state of the troupe of the unit at issue. -/
def State.mxTroupe (s : State) : Option (Nat × Troupe) := s.troupeOf s.cur.turn.unit

/-- Change a troupe's matrix state. -/
def State.onMx (s : State) (k : Nat) (f : Matrix → Matrix) : State := s.onTroupe k (fun t => { t with mx := f t.mx })

/-- A matrix word issues: it waits while an earlier one blocks it, then its checks are made, and it acts. -/
def State.mxIssue (s : State) (x : Instr) (vals : List Dword) (eng : Engine) (t : Troupe) (reads writes : List Res)
    (checks : List (Bool × Cause)) (go : State) : State :=
  if t.mx.ops.any (fun o => o.blocks s.cycle eng reads writes) then s.holdPath x vals false
  else match firstCause checks with
    | some c => s.raise c
    | none => go

/-- Record an issued word that completes `n` cycles after this one. -/
def State.mxRun (s : State) (k : Nat) (x : Instr) (eng : Engine) (reads writes : List Res) (n : Nat) : State :=
  let o : MatOp := { id := s.cur.stamp, engine := eng, instr := x, vals := [], fm := 0, mask := 0, reads := reads, writes := writes,
                     due := some (s.cycle + n), done := false }
  (s.onMx k (fun m => { m with ops := m.ops.filter (fun (p : MatOp) => !p.done || decide (p.due = some s.cycle)) ++ [o] })).atCycle
    (s.cycle + n) { kind := .matrixWordComplete, unit := s.cur.turn.unit, id := s.cur.stamp }

/-- A matrix word finishes on its engine, and waiting words may issue from the next cycle on (R226). -/
def execMatrixWordComplete (s : State) : Result :=
  match s.troupeOf s.ev.unit with
  | none => .next s
  | some (k, _) => .next (s.onMx k (fun m => { m with ops := m.ops.map (fun (o : MatOp) => if o.id = s.ev.id then { o with done := true } else o) }))

/-- Set sticky bits in the cue stream's st (R222). -/
def State.mxFlags (s : State) (t : Troupe) (f : BitVec 7) : State := s.onCtx t.cue (fun c => c.setSt f)

/-- Count multiply-accumulates by the A format (R299). -/
def State.mxCount (s : State) (t : Troupe) (fmt n : Nat) : State := s.count t.vdi (16 + fmt) n

/-- Every slot, as resources. -/
def allSlots : List Res := (List.range 16).map Res.slot
/-- The slots of a mask. -/
def slotsOf (m : Nat) : List Nat := (List.range 16).filter (fun n => decide (m / 2 ^ n % 2 = 1))
/-- The mask of slots. -/
def slotMask (ns : List Nat) : Nat := (ns.map (fun n => 2 ^ n)).sum
/-- Free slots, the lowest first. -/
def Matrix.free (m : Matrix) : List Nat := (List.range 16).filter (fun n => (m.slots.find n).isNone)
/-- Whether every slot of a mask is taken. -/
def Matrix.takenAll (m : Matrix) (ns : List Nat) : Bool := ns.all (fun n => (m.slots.find n).isSome)
/-- Poison in a store of the matrix state. -/
def Matrix.badIn (m : Matrix) (stores : List Nat) : Bool := m.bad.any (fun b => stores.contains b.1)
/-- Poison goes with the words that hold it. -/
def Matrix.clean (m : Matrix) (stores : List Nat) : Matrix := { m with bad := m.bad.filter (fun b => !stores.contains b.1) }

/-! ### Handle operands (R103 to R106, R241 to R243) -/

/-- V(c) of R103. -/
def qn4Codebook : List Int := [-128, -89, -67, -51, -38, -27, -17, -8, 0, 9, 19, 30, 43, 59, 81, 128]

/-- qn4_value (R105). -/
def qn4Value (c q : Nat) (sc : Word) : Num :=
  let br := f32 (ieee .rne ((f32 sc).mul (.fin false (q + 1) (-8)))).1
  (numOfInt (qn4Codebook.getD c 0) (-7) false).mul br

/-- The value of an MX element under its scale (R106). -/
def mxValue (fmt c x : Nat) : Num :=
  let f := if fmt = 0xD then e4m3 else if fmt = 0xE then e2m3 else e2m1
  if x = 0xFF then .nan
  else match f.decode c with
    | .fin sg m e => .fin sg m (e + (x : Int) - 127)
    | v => v

/-- The exact value of element `n` of a handle, from its code, with the scales that it needs. What a QN4 scale pointer does that is not
aligned to 4 bytes R104 does not say: the model reads the record where the pointer points (log entry 83). -/
def State.handleValue (s : State) (u : UnitId) (lvl : BitVec 2) (h : Handle) (code n : Nat) : State × Except (Xerr × Nat) (Num × Bool) :=
  let fmt := hFmt h
  let sc := hField h 6
  if fmt = 0xC then
    let base := sc + 260 * (n / 16384)
    match s.fetchBytes u (.plain lvl) 5 base 4 with
    | (s1, .error e) => (s1, .error e)
    | (s1, .ok (bs, b)) =>
      match s1.fetchBytes u (.plain lvl) 2 (base + 4 + n / 64 % 256) 1 with
      | (s2, .error e) => (s2, .error e)
      | (s2, .ok (q, b2)) => (s2, .ok (qn4Value code (leNat q) (BitVec.ofNat 32 (leNat bs)), b || b2))
  else if 0xD ≤ fmt then
    match s.fetchBytes u (.plain lvl) 2 (sc + n / 32) 1 with
    | (s1, .error e) => (s1, .error e)
    | (s1, .ok (x, b)) => (s1, .ok (mxValue fmt code (leNat x), b))
  else (s, .ok ((fmtOf fmt).decode code, false))

/-- The elements of a row of a matrix handle from coordinate `k` on: +0 where nothing is stored, and nothing where a 2:4
group does not keep the position. R224 gives +0 beyond a bound and R107 keeps positions of stored codes alone: for an element of a
Structured-2:4 operand at or beyond a bound the spec does not say which, and the model forms no product there (log entry 78). -/
def State.handleRow (s : State) (u : UnitId) (lvl : BitVec 2) (h : Handle) (r : Nat) : Nat → Nat → State × Except (Xerr × Nat) (TileRow × Bool)
  | 0, _ => (s, .ok ([], false))
  | n + 1, k =>
    let rest (s1 : State) (v : Option Num) (b : Bool) : State × Except (Xerr × Nat) (TileRow × Bool) :=
      match s1.handleRow u lvl h r n (k + 1) with
      | (s2, .error e) => (s2, .error e)
      | (s2, .ok (vs, b2)) => (s2, .ok (v :: vs, b || b2))
    match s.element u (.plain lvl) h [r, k] with
    | (s1, .error e) => (s1, .error e)
    | (s1, .ok (_, b, none)) => rest s1 (if hStructured h then none else some (.fin false 0 0)) b
    | (s1, .ok (code, b, some i)) =>
      match s1.handleValue u lvl h code i with
      | (s2, .error e) => (s2, .error e)
      | (s2, .ok (v, b2)) => rest s2 (some v) (b || b2)

/-- The tile of a handle reference, `rows` rows of `cols` elements from the origin on, fetched row by row. -/
def State.handleTile (s : State) (u : UnitId) (lvl : BitVec 2) (h : Handle) (k0 cols : Nat) : Nat → Nat → State × Except (Xerr × Nat) (List TileRow × Bool)
  | 0, _ => (s, .ok ([], false))
  | n + 1, r =>
    match s.handleRow u lvl h r cols k0 with
    | (s1, .error e) => (s1, .error e)
    | (s1, .ok (row, b)) =>
      match s1.handleTile u lvl h k0 cols n (r + 1) with
      | (s2, .error e) => (s2, .error e)
      | (s2, .ok (rs, b2)) => (s2, .ok (row :: rs, b || b2))

/-- An H form issues: its operation fetches (R241), and the word keeps its engine and what it reads and writes until it
has completed. -/
def State.mxFetch (s : State) (k : Nat) (i : Issue) (c : Ctx) (x : Instr) (vals : List Dword) (mask : Nat) (eng : Engine)
    (reads writes : List Res) (hs : List Handle) : State :=
  let o : MatOp := { id := s.cur.stamp, engine := eng, instr := x, vals := vals, fm := i.fm, mask := mask, reads := reads, writes := writes,
                     due := none, done := false }
  let f : FarOp := { s.newFar i c x .fetch with id := s.cur.stamp, checked := true, tile := hs.flatMap (fun h => h.toList) }
  let s1 := s.onMx k (fun m => { m with ops := m.ops.filter (fun (p : MatOp) => !p.done || decide (p.due = some s.cycle)) ++ [o] })
  { s1 with fars := s1.fars ++ [f] }.later { kind := .handleFetchComplete, unit := f.unit, id := f.id }

/-- Handle number `n` that an operation copied at issue. -/
def FarOp.handleAt (f : FarOp) (n : Nat) : Handle := Vector.ofFn (fun (k : Fin 8) => f.tile.getD (8 * n + k.val) 0)

/-! ### Output-stationary products (R228 to R230) -/

/-- MZERO (R228). -/
def execMzero (s : State) : Result :=
  s.withCur (fun _ _ =>
    match s.mxTroupe with
    | none => s
    | some (k, t) =>
      s.mxIssue .mzero [] .array t [] [.cells] []
        ((s.onMx k (fun m => { m.clean [0] with cells := [], cellFmt := none })).mxRun k .mzero .array [] [.cells] 2))

/-- The effect of an MMAO on cells and st, and its cycles (R227, R229, R230); `a` is the code of the A format. -/
def State.mmaoRun (s : State) (k : Nat) (t : Troupe) (fm : Word) (a b K : Nat) (structured : Bool) (as bs : List TileRow) : State × Nat :=
  let w := pairWidth a b
  let p := stepP w structured
  let skip := if fm.getLsbD 14 then zeroChunks K as else []
  let groups := (List.range (K / p)).filter (fun g => !skip.contains (g * p / 8))
  let r := stepRows (fmAcc fm) p groups as bs (arrayCols t.mx.shape) t.mx.cells
  let sk : BitVec 7 := if skip.any (chunkNotFinite bs) then stSKNF else 0
  let s1 := s.onMx k (fun m => { m with cells := r.1, cellFmt := some (fmAcc fm) })
  ((s1.mxFlags t (r.2.1 ||| sk)).mxCount t a r.2.2,
   stepT w structured * (K / p - 8 / p * skip.length) + arrayRows t.mx.shape + arrayCols t.mx.shape + 4)

/-- Whether a count word of MMAO is out of its limits (R229). -/
def badK (v : Dword) : Bool := decide (v.toNat < 8 ∨ 4096 < v.toNat ∨ v.toNat % 8 ≠ 0)

/-- Whether the cells hold values of another accumulate format (R229). -/
def Matrix.otherFmt (m : Matrix) (acc : BitVec 2) : Bool := match m.cellFmt with | some f => decide (f ≠ acc) | none => false

/-- MMAO (R229). -/
def execMmao (d a b : Reg) (s : State) : Result :=
  s.withCur (fun i c =>
    match s.mxTroupe with
    | none => s
    | some (k, t) =>
      let v := s.sources c [d, a, b]
      let K := (nth v 2).toNat
      let fa := fmA i.fm
      let fb := fmB i.fm
      let A := areaOf (nth v 0) (arrayRows t.mx.shape) K (elemWidth fa)
      let B := areaOf (nth v 1) (arrayCols t.mx.shape) K (elemWidth fb)
      let reads : List Res := [.cells, .fm, A.res, B.res]
      let writes : List Res := [.cells, .stSet]
      let checks : List (Bool × Cause) :=
        [(opReserved false (nth v 0) || opReserved false (nth v 1) || badK (nth v 2), .cueMisuse),
         (!pairLegal fa fb (fmAcc i.fm), .illegalInstr), (decide (0xC ≤ fa) || decide (0xC ≤ fb), .handleInvalid),
         (A.misaligned || B.misaligned, .misaligned), (t.regionBad A.addr A.len || t.regionBad B.addr B.len, .scratchBounds),
         (t.mx.otherFmt (fmAcc i.fm), .cueMisuse), (s.areaBad t A || s.areaBad t B || t.mx.badIn [0], .poisoned)]
      s.mxIssue (.mmao d a b) v .array t reads writes checks
        (let r := s.mmaoRun k t i.fm fa fb K false (s.areaTile t A K fa) (s.areaTile t B K fb)
         r.1.mxRun k (.mmao d a b) .array reads writes r.2))

/-- MMAO.H (R224, R229). -/
def execMmaoH (d a b : Reg) (s : State) : Result :=
  s.withCur (fun i c =>
    match s.mxTroupe with
    | none => s
    | some (k, t) =>
      let v := s.sources c [d, a, b]
      let hA := refHandle c (nth v 0)
      let hB := refHandle c (nth v 1)
      let reads : List Res := [.cells, .fm]
      let writes : List Res := [.cells, .stSet]
      let checks : List (Bool × Cause) :=
        [(refReserved (nth v 0) || refReserved (nth v 1) || badK (nth v 2), .cueMisuse),
         (!pairLegal (hFmt hA) (hFmt hB) (fmAcc i.fm), .handleInvalid),
         (!matrixHandle hA (nth v 0) || !matrixHandle hB (nth v 1) || (hStructured hA && hStructured hB), .handleInvalid),
         (t.mx.otherFmt (fmAcc i.fm), .cueMisuse), (t.mx.badIn [0], .poisoned)]
      s.mxIssue (.mmaoH d a b) v .array t reads writes checks (s.mxFetch k i c (.mmaoH d a b) v 0 .array reads writes [hA, hB]))

/-! ### Weight-stationary products (R232 to R235) -/

/-- The shadow plane takes a weight tile (R232). -/
def State.loadPlane (s : State) (k : Nat) (fm : Word) (w : Nat) (fromHandle structured : Bool) (rows : List TileRow) : State :=
  s.onMx k (fun m =>
    { m.clean [18] with shadow :=
      { loaded := true, fmt := w, fromHandle := fromHandle, p := stepP (pairWidth w (fmA fm)) structured, cls := elemWidth (fmA fm),
        structured := structured, rows := rows } })

/-- MLDW (R232). -/
def execMldw (d : Reg) (s : State) : Result :=
  s.withCur (fun i c =>
    match s.mxTroupe with
    | none => s
    | some (k, t) =>
      let v := s.sources c [d]
      let fb := fmB i.fm
      let kw := arrayRows t.mx.shape * stepP (pairWidth fb (fmA i.fm)) false
      let W := areaOf (nth v 0) (arrayCols t.mx.shape) kw (elemWidth fb)
      let reads : List Res := [.fm, W.res]
      let checks : List (Bool × Cause) :=
        [(opReserved false (nth v 0), .cueMisuse), (!pairLegal (fmA i.fm) fb (fmAcc i.fm), .illegalInstr),
         (decide (0xC ≤ fb), .handleInvalid), (W.misaligned, .misaligned), (t.regionBad W.addr W.len, .scratchBounds),
         (s.areaBad t W, .poisoned)]
      s.mxIssue (.mldw d) v .loader t reads [.shadow] checks
        ((s.loadPlane k i.fm fb false false (s.areaTile t W kw fb)).mxRun k (.mldw d) .loader reads [.shadow] (arrayCols t.mx.shape + 8)))

/-- MLDW.H (R224, R232). -/
def execMldwH (d : Reg) (s : State) : Result :=
  s.withCur (fun i c =>
    match s.mxTroupe with
    | none => s
    | some (k, t) =>
      let v := s.sources c [d]
      let h := refHandle c (nth v 0)
      let checks : List (Bool × Cause) :=
        [(refReserved (nth v 0), .cueMisuse), (!pairLegal (fmA i.fm) (hFmt h) (fmAcc i.fm), .handleInvalid),
         (!matrixHandle h (nth v 0), .handleInvalid)]
      s.mxIssue (.mldwH d) v .loader t [.fm] [.shadow] checks (s.mxFetch k i c (.mldwH d) v 0 .loader [.fm] [.shadow] [h]))

/-- MFLIP (R233). -/
def execMflip (s : State) : Result :=
  s.withCur (fun _ _ =>
    match s.mxTroupe with
    | none => s
    | some (k, t) =>
      let rs : List Res := [.active, .shadow]
      let swap (b : Nat × Nat) : Nat × Nat := if b.1 = 17 then (18, b.2) else if b.1 = 18 then (17, b.2) else b
      s.mxIssue .mflip [] .array t rs rs []
        ((s.onMx k (fun m => { m with active := m.shadow, shadow := m.active, bad := m.bad.map swap })).mxRun k .mflip .array rs rs 2))

/-- Slot rows after R activation rows have streamed through the plane (R234): row m goes to row m mod RA of the
(m div RA)-th slot of the list. -/
def streamRows (ra cols : Nat) (acc : BitVec 2) (pl : Plane) (slots : Map Nat Slot) : List Nat → List TileRow → List (Nat × Slot) × BitVec 7 × Nat
  | [], _ => ([], 0, 0)
  | n :: ns, xs =>
    let old := ((slots.find n).map (fun (x : Slot) => x.rows)).getD []
    let mine := xs.take ra
    let r := stepRows acc pl.p (List.range ra) mine pl.rows cols old
    let more := streamRows ra cols acc pl slots ns (xs.drop ra)
    ((n, { fmt := acc, rows := r.1 ++ old.drop mine.length }) :: more.1, r.2.1 ||| more.2.1, r.2.2 + more.2.2)

/-- The effect of an MMAW on slots and st (R234). -/
def State.mmawRun (s : State) (k : Nat) (t : Troupe) (fm : Word) (x mask : Nat) (auto : Bool) (xs : List TileRow) : State :=
  let ns := slotsOf mask
  let r := streamRows (arrayRows t.mx.shape) (arrayCols t.mx.shape) (fmAcc fm) t.mx.active (if auto then [] else t.mx.slots) ns xs
  let s1 := s.onMx k (fun m => { (if auto then m.clean (ns.map (fun n => n + 1)) else m) with
    slots := r.1.foldl (fun (z : Map Nat Slot) (e : Nat × Slot) => z.put e.1 e.2) m.slots })
  (s1.mxFlags t r.2.1).mxCount t x r.2.2

/-- R of a count word of MMAW. -/
def mmawR (v : Dword) : Nat := bits v.toNat 0 11
/-- AUTO of a count word. -/
def mmawAuto (v : Dword) : Bool := decide (bits v.toNat 16 1 = 1)
/-- Whether the count word is out of its limits (R234). -/
def badR (v : Dword) : Bool :=
  decide (mmawR v = 0 ∨ 1024 < mmawR v) || decide (bits v.toNat 11 5 ≠ 0) || decide (bits v.toNat 17 47 ≠ 0)
/-- S of R234. -/
def mmawS (t : Troupe) (v : Dword) : Nat := (mmawR v + arrayRows t.mx.shape - 1) / arrayRows t.mx.shape

/-- Whether the mask of an MMAW with AUTO = 0 breaks its rule (R234). -/
def badSlotMask (t : Troupe) (acc : BitVec 2) (qs qn : Dword) : Bool :=
  let ns := slotsOf qs.toNat
  decide (2 ^ 16 ≤ qs.toNat) || decide (ns.length ≠ mmawS t qn) ||
    !ns.all (fun n => match t.mx.slots.find n with | some x => decide (x.fmt = acc) | none => false)

/-- The slots that an MMAW uses (R234). -/
def mmawMask (t : Troupe) (qs qn : Dword) : Nat := if mmawAuto qn then slotMask (t.mx.free.take (mmawS t qn)) else qs.toNat % 2 ^ 16

/-- What an MMAW reads and writes; with AUTO = 1 it reads which slots are free. -/
def mmawRes (t : Troupe) (qs qn : Dword) : List Res × List Res :=
  let ns := (slotsOf (mmawMask t qs qn)).map Res.slot
  ([.active, .fm] ++ (if mmawAuto qn then allSlots else ns), .stSet :: ns)

/-- T × R + RA + CA + 4 (R227). -/
def mmawCycles (t : Troupe) (x : Nat) (qn : Dword) : Nat :=
  stepT (pairWidth x t.mx.active.fmt) t.mx.active.structured * mmawR qn + arrayRows t.mx.shape + arrayCols t.mx.shape + 4

/-- The last checks of an MMAW, in the order of R234: the class of the activations, the plane, the free slots. -/
def mmawChecks (t : Troupe) (x : Nat) (qn : Dword) : List (Bool × Cause) :=
  [(t.mx.active.loaded && decide (elemWidth x ≠ t.mx.active.cls), .cueMisuse), (!t.mx.active.loaded, .cueMisuse),
   (mmawAuto qn && decide (t.mx.free.length < mmawS t qn), .cueMisuse)]

/-- With AUTO = 1 the mask of the slots is written to qs at issue (R234). -/
def State.autoMask (s : State) (i : Issue) (d : Reg) (t : Troupe) (qs qn : Dword) : State :=
  if mmawAuto qn then s.onCtx s.cur.turn.unit (fun c => c.wrS i 1 d (BitVec.ofNat 64 (mmawMask t qs qn))) else s

/-- MMAW (R234). The plane that has never been loaded has no KW: the spec does not say how long the activation rows then are, and the
model takes P = 1 for the checks that come before CueMisuse (log entry 83). -/
def execMmaw (d a b : Reg) (s : State) : Result :=
  s.withCur (fun i c =>
    match s.mxTroupe with
    | none => s
    | some (k, t) =>
      let v := s.sources c [d, a, b]
      let qn := nth v 2
      let fa := fmA i.fm
      let pl := t.mx.active
      let kw := arrayRows t.mx.shape * pl.p
      let X := areaOf (nth v 1) (mmawR qn) kw (elemWidth fa)
      let rw := mmawRes t (nth v 0) qn
      let mask := mmawMask t (nth v 0) qn
      let checks : List (Bool × Cause) :=
        [(opReserved false (nth v 1) || badR qn || (!mmawAuto qn && badSlotMask t (fmAcc i.fm) (nth v 0) qn), .cueMisuse),
         (pl.loaded && !pairLegal fa pl.fmt (fmAcc i.fm), if pl.fromHandle then .handleInvalid else .illegalInstr),
         (decide (0xC ≤ fa), .handleInvalid), (X.misaligned, .misaligned), (t.regionBad X.addr X.len, .scratchBounds)] ++
        mmawChecks t fa qn ++
        [(s.areaBad t X || t.mx.badIn (17 :: (if mmawAuto qn then [] else (slotsOf mask).map (fun n => n + 1))), .poisoned)]
      s.mxIssue (.mmaw d a b) v .array t (X.res :: rw.1) rw.2 checks
        (((s.mmawRun k t i.fm fa mask (mmawAuto qn) (s.areaTile t X kw fa)).autoMask i d t (nth v 0) qn).mxRun k (.mmaw d a b) .array
          (X.res :: rw.1) rw.2 (mmawCycles t fa qn)))

/-- MMAW.H (R224, R234). -/
def execMmawH (d a b : Reg) (s : State) : Result :=
  s.withCur (fun i c =>
    match s.mxTroupe with
    | none => s
    | some (k, t) =>
      let v := s.sources c [d, a, b]
      let qn := nth v 2
      let h := refHandle c (nth v 1)
      let pl := t.mx.active
      let rw := mmawRes t (nth v 0) qn
      let mask := mmawMask t (nth v 0) qn
      let checks : List (Bool × Cause) :=
        [(refReserved (nth v 1) || badR qn || (!mmawAuto qn && badSlotMask t (fmAcc i.fm) (nth v 0) qn), .cueMisuse),
         (pl.loaded && !pairLegal (hFmt h) pl.fmt (fmAcc i.fm), .handleInvalid),
         (!matrixHandle h (nth v 1) || !hDense h, .handleInvalid)] ++
        mmawChecks t (hFmt h) qn ++
        [(t.mx.badIn (17 :: (if mmawAuto qn then [] else (slotsOf mask).map (fun n => n + 1))), .poisoned)]
      s.mxIssue (.mmawH d a b) v .array t rw.1 rw.2 checks
        ((s.mxFetch k i c (.mmawH d a b) v mask .array rw.1 rw.2 [h]).autoMask i d t (nth v 0) qn))

/-- MACQ (R235). -/
def execMacq (d a : Reg) (s : State) : Result :=
  s.withCur (fun i c =>
    match s.mxTroupe with
    | none => s
    | some (k, t) =>
      let v := s.sources c [a]
      let n := (nth v 0).toNat
      let ns := t.mx.free.take n
      let writes := ns.map Res.slot
      let reads : List Res := .fm :: allSlots
      s.mxIssue (.macq d a) v .control t reads writes
        [(decide (n = 0 ∨ 16 < n), .cueMisuse), (decide (t.mx.free.length < n), .cueMisuse)]
        (((s.onMx k (fun m => { m.clean (ns.map (fun x => x + 1)) with
            slots := ns.foldl (fun (z : Map Nat Slot) x => z.put x { fmt := fmAcc i.fm, rows := [] }) m.slots })).onCtx s.cur.turn.unit
            (fun c1 => c1.wrS i 1 d (BitVec.ofNat 64 (slotMask ns)))).mxRun k (.macq d a) .control reads writes 1))

/-- MREL (R235). -/
def execMrel (d : Reg) (s : State) : Result :=
  s.withCur (fun _ c =>
    match s.mxTroupe with
    | none => s
    | some (k, t) =>
      let v := s.sources c [d]
      let ns := slotsOf (nth v 0).toNat
      let rs := ns.map Res.slot
      s.mxIssue (.mrel d) v .control t rs rs [(decide (2 ^ 16 ≤ (nth v 0).toNat) || !t.mx.takenAll ns, .cueMisuse)]
        ((s.onMx k (fun m => { m.clean (ns.map (fun x => x + 1)) with slots := ns.foldl (fun (z : Map Nat Slot) x => z.drop x) m.slots })).mxRun
          k (.mrel d) .control rs rs 1))

/-! ### The gate pipeline (R231, R237, R238) -/

/-- SPLUS: ln(1 + e^x) (R238). -/
def fsplus (a : Word) : Word × BitVec 7 :=
  let x := f32 a
  match x with
  | .nan => (nan32, stNV)
  | .inf s => (if s then zero32 false else inf32 false, 0)
  | .fin s m e =>
    if x.atLeast 16 then (a, 0)
    else if !x.atLeast (-110) then (zero32 false, stUF ||| stNX)
    else
      let one := 2 ^ fxBits
      -- e^(−|x|) = u × 2^(−n), and ln(1 + y) = 2 atanh(y / (2 + y)), kept as v × 2^(−n)
      let (u, n) := fxExp2Neg (fxScaled m e)
      let y := u / 2 ^ n
      let z := y * one / (2 * one + y)
      let v := 2 * fxAtanhSeries (fxMul z z) 70 0 (u * one / (2 * one + y))
      if s then fxRound false v (-(n : Int)) else fxRound false (fxOf m e + v / 2 ^ n) 0

/-- CLAMP (R238): a NaN among the three gives the canonical NaN. -/
def gateClamp (lo hi x : Word) : Word × BitVec 7 :=
  if isNan lo || isNan hi || isNan x then (nan32, stNV)
  else
    let y := (fminmax true x lo).1
    (fminmax false y hi).1 |> fun z => (z, 0)

/-- OP of a gate entry (R237). -/
def gateOp (g : Dword) : Nat := bits g.toNat 60 4

/-- Whether an entry of the program may not stand: a reserved OP, or a nonzero field that its OP does not use. Of a CVT whose FMT is 0xC to
0xF, a code that R237 does not list, the spec names no trap: the model takes it as reserved (log entry 83). -/
def gateBad (g : Dword) : Bool :=
  let used : Nat := match gateOp g with
    | 1 => 0x3FFFFF
    | 2 => 0xFFFF00000000 + 0x3FFFFF
    | 7 => 0xFFFFFFFF
    | 8 => 0x3F
    | _ => 0
  decide (8 < gateOp g) || decide (g.toNat % 2 ^ 60 &&& used ≠ g.toNat % 2 ^ 60) || (decide (gateOp g = 8) && decide (0xB < bits g.toNat 0 4))

/-- The scratchpad region of a BIAS or MUL entry, for a drain of `rows` rows (R238). -/
def gateArea (cols rows : Nat) (g : Dword) : Option Area :=
  if gateOp g = 1 then some { addr := bits g.toNat 0 22, pitch := 0, rows := 1, rowBytes := 4 * cols }
  else if gateOp g = 2 then some { addr := bits g.toNat 0 22, pitch := bits g.toNat 32 16, rows := rows, rowBytes := 4 * cols }
  else none

/-- One operation of the gate program at drained row q and column j (R238). -/
def State.gate (s : State) (t : Troupe) (cols rows : Nat) (sat : Bool) (g : Dword) (q j : Nat) (x : Word) : Word × BitVec 7 :=
  let y (r : Nat) : Word := match gateArea cols rows g with
    | some a => s.scratch.word (t.scratchAddr (a.addr + r * a.stride + 4 * j))
    | none => 0
  let enc (v : Num) : Word × BitVec 7 := let r := fp32.encode .rne sat v; (BitVec.ofNat 32 r.1, r.2)
  match gateOp g with
  | 1 => enc ((f32 x).add false (f32 (y 0)))
  | 2 => enc ((f32 x).mul (f32 (y q)))
  | 3 => fsig x
  | 4 => ftanh x
  | 5 => fexp2 x
  | 6 => fsplus x
  | 7 => gateClamp (BitVec.ofNat 32 (bits g.toNat 0 16 * 2 ^ 16)) (BitVec.ofNat 32 (bits g.toNat 16 16 * 2 ^ 16)) x
  | _ =>
    let f := bits g.toNat 0 4
    let r := encodeIn f (modeOf (bits g.toNat 4 2)) sat (f32 x)
    ((ieee .rne ((fmtOf f).decode r.1)).1, r.2)

/-- One drained value: through the program, then to OFMT (R231). -/
def State.drainValue (s : State) (t : Troupe) (fm : Word) (cols rows : Nat) (acc : BitVec 2) (q j : Nat) (w : Word) : Nat × BitVec 7 :=
  let sat := fmSat fm
  let x := accValue acc w
  if t.mx.gate = [] then encodeIn (fmO fm) (fmMode fm) sat x
  else
    let r0 := fp32.encode .rne sat x
    let r := t.mx.gate.foldl (fun (r : Word × BitVec 7) g =>
      let z := s.gate t cols rows sat g q j r.1
      (z.1, r.2 ||| z.2)) (BitVec.ofNat 32 r0.1, r0.2)
    let o := encodeIn (fmO fm) (fmMode fm) sat (f32 r.1)
    (o.1, r.2 ||| o.2)

/-- The rows that an MSHO drains, each with its accumulate format (R231). -/
def Matrix.drained (m : Matrix) (slots : List Nat) : List (BitVec 2 × List Word) :=
  let ra := arrayRows m.shape
  if slots = [] then (List.range ra).map (fun r => (m.cellFmt.getD 0, m.cells.getD r []))
  else slots.flatMap (fun n =>
    match m.slots.find n with
    | some x => (List.range ra).map (fun r => (x.fmt, x.rows.getD r []))
    | none => [])

/-- MSHO (R231). -/
def execMsho (d : Reg) (s : State) : Result :=
  s.withCur (fun i c =>
    match s.mxTroupe with
    | none => s
    | some (k, t) =>
      let v := s.sources c [d]
      let ns := slotsOf (bits (nth v 0).toNat 48 16)
      let ra := arrayRows t.mx.shape
      let ca := arrayCols t.mx.shape
      let rows := if ns = [] then ra else ra * ns.length
      let w := elemWidth (fmO i.fm)
      let D := areaOf (nth v 0) rows ca w
      let gs := t.mx.gate.filterMap (gateArea ca rows)
      let src : List Res := if ns = [] then [.cells] else ns.map Res.slot
      let reads : List Res := src ++ [.gate, .fm] ++ gs.map Area.res
      let writes : List Res := [D.res, .stSet]
      let checks : List (Bool × Cause) :=
        [(opReserved true (nth v 0) || !t.mx.takenAll ns, .cueMisuse), (D.misaligned || gs.any Area.misaligned, .misaligned),
         (t.regionBad D.addr D.len || gs.any (fun g => t.regionBad g.addr g.len), .scratchBounds),
         (gs.any (s.areaBad t) || t.mx.badIn (if ns = [] then [0] else ns.map (fun n => n + 1)), .poisoned)]
      s.mxIssue (.msho d) v .gate t reads writes checks
        (let out := (t.mx.drained ns).zipIdx.map (fun r => (List.range ca).map (fun j =>
            s.drainValue t i.fm ca rows r.1.1 r.2 j (r.1.2.getD j 0)))
         let f := out.flatten.foldl (fun g x => g ||| x.2) 0
         ((s.putArea t D w (out.map (fun r => r.map (fun x => x.1)))).mxFlags t f).mxRun k (.msho d) .gate reads writes (12 + rows)))

/-- GCFG (R237). -/
def execGcfg (d : Reg) (s : State) : Result :=
  s.withCur (fun _ c =>
    match s.mxTroupe with
    | none => s
    | some (k, t) =>
      let v := s.sources c [d]
      let P : Area := { addr := bits (nth v 0).toNat 0 22, pitch := 0, rows := 1, rowBytes := 64 }
      let rec0 := s.scratch.bytes (t.scratchAddr P.addr) 64
      let prog := ((List.range 8).map (recWord rec0)).takeWhile (fun g => decide (gateOp g ≠ 0))
      s.mxIssue (.gcfg d) v .gate t [P.res] [.gate]
        [(decide (2 ^ 22 ≤ (nth v 0).toNat), .cueMisuse), (P.misaligned, .misaligned), (t.regionBad P.addr 64, .scratchBounds),
         (s.areaBad t P, .poisoned), (prog.any gateBad, .illegalInstr)]
        ((s.onMx k (fun m => { m with gate := prog })).mxRun k (.gcfg d) .gate [P.res] [.gate] 4))

/-! ### The linear scan (R109, R239) -/

/-- One level of the scan at distance `d` (R109). -/
def scanLevel (d : Nat) (a b : List Word) : List Word × List Word × BitVec 7 :=
  let at_ (x : List Word) (t : Nat) : Word := x.getD t 0
  let rb := (List.range b.length).map (fun t => if d ≤ t then ffma .rne false false (at_ a t) (at_ b (t - d)) (at_ b t) else (at_ b t, 0))
  let ra := (List.range a.length).map (fun t => if d ≤ t then fmul .rne (at_ a t) (at_ a (t - d)) else (at_ a t, 0))
  (ra.map (fun x => x.1), rb.map (fun x => x.1), (ra ++ rb).foldl (fun f x => f ||| x.2) 0)

/-- The scan of one channel, with fuel for its levels (R109). -/
def scanFrom : Nat → Nat → List Word → List Word → List Word × List Word × BitVec 7
  | 0, _, a, b => (a, b, 0)
  | n + 1, d, a, b =>
    if a.length ≤ d then (a, b, 0)
    else
      let r := scanLevel d a b
      let r2 := scanFrom n (2 * d) r.1 r.2.1
      (r2.1, r2.2.1, r.2.2 ||| r2.2.2)

/-- ceil(log2 n). -/
def ceilLog2 (n : Nat) : Nat := bitLen (n - 1)

/-- LSCAN (R239). -/
def execLscan (d a b : Reg) (s : State) : Result :=
  s.withCur (fun _ c =>
    match s.mxTroupe with
    | none => s
    | some (k, t) =>
      let v := s.sources c [d, a, b]
      let q := (nth v 2).toNat
      let n := bits q 0 11
      let ch := bits q 16 13
      let A := areaOf (nth v 0) n ch 32
      let B := areaOf (nth v 1) n ch 32
      let reads : List Res := [A.res, B.res]
      let writes : List Res := [A.res, B.res, .stSet]
      let checks : List (Bool × Cause) :=
        [(opReserved false (nth v 0) || opReserved false (nth v 1) || decide (bits q 11 5 ≠ 0 ∨ bits q 29 35 ≠ 0) ||
            decide (n = 0 ∨ 1024 < n ∨ ch = 0 ∨ 4096 < ch), .cueMisuse),
         (A.misaligned || B.misaligned, .misaligned), (t.regionBad A.addr A.len || t.regionBad B.addr B.len, .scratchBounds),
         (A.overlaps B, .cueMisuse), (s.areaBad t A || s.areaBad t B, .poisoned)]
      s.mxIssue (.lscan d a b) v .gate t reads writes checks
        (let as := (List.range n).map (s.areaRow t A ch 32)
         let bs := (List.range n).map (s.areaRow t B ch 32)
         let col (m : List (List Nat)) (j : Nat) : List Word := m.map (fun r => BitVec.ofNat 32 (r.getD j 0))
         let rs := (List.range ch).map (fun j => scanFrom 11 1 (col as j) (col bs j))
         let row (f : List Word × List Word × BitVec 7 → List Word) (r : Nat) : List Nat := rs.map (fun x => ((f x).getD r 0).toNat)
         let s1 := (s.putArea t A 32 ((List.range n).map (row (fun x => x.1)))).putArea t B 32 ((List.range n).map (row (fun x => x.2.1)))
         let fl := (rs.foldl (fun f x => f ||| x.2.2) 0) &&& (stNV ||| stOF ||| stUF ||| stNX)
         (s1.mxFlags t fl).mxRun k (.lscan d a b) .gate reads writes
           (8 + ceilLog2 n * n * ((ch + arrayCols t.mx.shape - 1) / arrayCols t.mx.shape))))

/-! ### Array shape and status (R236, R240) -/

/-- Whether a SHAPE code lies within the troupe's (R236). -/
def shapeWithin (troupe shape : Nat) : Bool :=
  decide (shape = 0) || decide (shape = troupe) || decide (troupe = 3)

/-- MFUSE (R236): it waits until every engine is idle, and under R226 for an earlier word that has no engine but reads what it resets. -/
def execMfuse (d : Reg) (s : State) : Result :=
  s.withCur (fun _ c =>
    match s.mxTroupe with
    | none => s
    | some (k, t) =>
      let v := s.sources c [d]
      let n := (nth v 0).toNat
      if t.mx.ops.any (fun o => o.blocks s.cycle .none [] [.cells, .active, .shadow] ||
          (decide (o.engine ≠ .none) && (match o.due with | none => true | some x => decide (s.cycle ≤ x)))) then
        s.holdPath (.mfuse d) v false
      else if 4 ≤ n ∨ !shapeWithin t.shape.toNat n ∨ t.mx.slots ≠ [] then s.raise .cueMisuse
      else s.onMx k (fun m =>
        { m.clean [0, 17, 18] with shape := BitVec.ofNat 2 n, cells := [], cellFmt := none, active := Plane.zero, shadow := Plane.zero }))

/-- A word of MSTAT (R227, R240): it waits under R226 alone, and takes one cycle. -/
def mstatWord (x : Instr) (qs : List Reg) (reads writes : List Res) (checks : List Dword → List (Bool × Cause))
    (f : Issue → Troupe → List Dword → Ctx → Ctx) (s : State) : Result :=
  s.withCur (fun i c =>
    match s.mxTroupe with
    | none => s
    | some (k, t) =>
      let v := s.sources c qs
      s.mxIssue x v .none t reads writes (checks v) ((s.onCtx s.cur.turn.unit (f i t v)).mxRun k x .none reads writes 1))

/-- MSTAT.ST (R240). -/
def execMstatSt (d : Reg) (s : State) : Result :=
  mstatWord (.mstatSt d) [] [.st] [] (fun _ => []) (fun i _ _ c => c.wrS i 1 d (c.st.setWidth 64)) s

/-- MSTAT.CLR (R240). -/
def execMstatClr (d : Reg) (s : State) : Result :=
  mstatWord (.mstatClr d) [d] [.st] [.st] (fun _ => []) (fun _ _ v c => { c with st := c.st &&& ~~~ ((nth v 0).setWidth 7) }) s

/-- MSTAT.SETFMT (R240): the checks of R93; the new fm applies from the next group. -/
def execMstatSetfmt (d : Reg) (s : State) : Result :=
  mstatWord (.mstatSetfmt d) [d] [] [.fm] (fun v => [(!fmLegal ((nth v 0).setWidth 32), .illegalInstr)])
    (fun i _ v c => c.onPath i.slotB (fun p => { p with fm := (nth v 0).setWidth 32 })) s

/-- MSTAT.GETFMT (R240). -/
def execMstatGetfmt (d : Reg) (s : State) : Result :=
  mstatWord (.mstatGetfmt d) [] [.fm] [] (fun _ => []) (fun i _ _ c => c.wrS i 1 d (i.fm.setWidth 64)) s

/-- The state word of R240. -/
def Matrix.stateWord (m : Matrix) : Dword :=
  BitVec.ofNat 64 ((!m.gate.isEmpty).toNat * 2 ^ 20 + m.active.loaded.toNat * 2 ^ 19 + m.shadow.loaded.toNat * 2 ^ 18 +
    m.shape.toNat * 2 ^ 16 + slotMask ((List.range 16).filter (fun n => (m.slots.find n).isSome)))

/-- MSTAT.STATE (R240). -/
def execMstatState (d : Reg) (s : State) : Result :=
  mstatWord (.mstatState d) [] ([.gate, .active, .shadow] ++ allSlots) [] (fun _ => []) (fun i t _ c => c.wrS i 1 d t.mx.stateWord) s

/-! ### The fetch of an H form (R241) -/

/-- The word of a fetch has its operands: it acts, and completes after the count of R227. -/
def State.mxFetched (s : State) (f : FarOp) (k : Nat) (r : State × Nat) : State :=
  let s1 := r.1.onMx k (fun m => { m with ops := m.ops.map (fun (o : MatOp) => if o.id = f.id then { o with due := some (s.cycle + r.2) } else o) })
  (s1.dropFar f.id).atCycle (s.cycle + r.2) { kind := .matrixWordComplete, unit := f.unit, id := f.id }

/-- The fetch of a handle operand ends in a fault (R225, R359), before anything has changed. -/
def State.fetchFault (s : State) (f : FarOp) (e : Xerr × Nat) : State :=
  s.soon { kind := .stagehandTranslationFault, unit := f.unit, id := f.id, a := e.2, b := e.1.cause.code, c := e.1.gpa }

/-- Poison has reached the array (R361). -/
def State.fetchPoison (s : State) (f : FarOp) : State := s.stopUnit f.unit 2 .poisoned (BitVec.ofNat 64 f.pos) (f.word.setWidth 64)

/-- Count what the fetch of a handle's tile has moved (R19, R299). -/
def State.countTile (s : State) (f : FarOp) (h : Handle) (k0 cols rows r : Nat) : State :=
  s.countCells f.unit (.plain f.level) h ((List.range rows).flatMap (fun j => (List.range cols).map (fun k => [r + j, k0 + k])))

/-- The global fetch of an H form's operands returns (R241): the values enter the array or the plane, and the word acts. -/
def execHandleFetchComplete (s : State) : Result :=
  match s.fars.find? (fun f => decide (f.id = s.ev.id)), s.troupeOf s.ev.unit with
  | some f, some (k, t) =>
    match t.mx.ops.find? (fun o => decide (o.id = f.id)) with
    | none => .next s
    | some o =>
      let ra := arrayRows t.mx.shape
      let ca := arrayCols t.mx.shape
      let m0 (n : Nat) : Nat := bits (nth o.vals n).toNat 16 16
      let k0 (n : Nat) : Nat := bits (nth o.vals n).toNat 32 16
      match o.instr with
      | .mmaoH _ _ _ =>
        let K := (nth o.vals 2).toNat
        let hA := f.handleAt 0
        let hB := f.handleAt 1
        match s.handleTile f.unit f.level hA (k0 0) K ra (m0 0) with
        | (s1, .error e) => .next (s1.fetchFault f e)
        | (s1, .ok (as, b1)) =>
          match s1.handleTile f.unit f.level hB (k0 1) K ca (m0 1) with
          | (s2, .error e) => .next (s2.fetchFault f e)
          | (s2, .ok (bs, b2)) =>
            if b1 || b2 then .next (s2.fetchPoison f)
            else
              let s3 := (s2.countTile f hA (k0 0) K ra (m0 0)).countTile f hB (k0 1) K ca (m0 1)
              .next (s3.mxFetched f k (s3.mmaoRun k t o.fm (hFmt hA) (hFmt hB) K (hStructured hA || hStructured hB) as bs))
      | .mldwH _ =>
        let h := f.handleAt 0
        let kw := ra * stepP (pairWidth (hFmt h) (fmA o.fm)) (hStructured h)
        match s.handleTile f.unit f.level h (k0 0) kw ca (m0 0) with
        | (s1, .error e) => .next (s1.fetchFault f e)
        | (s1, .ok (ws, b)) =>
          if b then .next (s1.fetchPoison f)
          else
            let s2 := s1.countTile f h (k0 0) kw ca (m0 0)
            .next (s2.mxFetched f k (s2.loadPlane k o.fm (hFmt h) true (hStructured h) ws, ca + 8))
      | .mmawH _ _ _ =>
        let h := f.handleAt 0
        let qn := nth o.vals 2
        match s.handleTile f.unit f.level h (k0 1) (ra * t.mx.active.p) (mmawR qn) (m0 1) with
        | (s1, .error e) => .next (s1.fetchFault f e)
        | (s1, .ok (xs, b)) =>
          if b then .next (s1.fetchPoison f)
          else
            let s2 := s1.countTile f h (k0 1) (ra * t.mx.active.p) (mmawR qn) (m0 1)
            .next (s2.mxFetched f k (s2.mmawRun k t o.fm (hFmt h) o.mask (mmawAuto qn) xs, mmawCycles t (hFmt h) qn))
      | _ => .next s
  | _, _ => .next s

end Sys2Proof.Machine
end

