-- ==== Sys2Proof/Machine/Save.lean ====
section
/-! DEFINITION. Save areas (R292, R293): what a save writes to them, and the state that a restore reads from them (R87,
R294, R338). -/

namespace Sys2Proof.Machine

/-! ### Places -/

/-- Guest physical address of the save area of a quadrant (R292). -/
def areaAt (v : Vdi) (core q : Nat) : Nat :=
  v.img.saveBase + 0x200000 * (v.coreNumber core * v.quads.length + (v.quads.filter (fun k => decide (k < q))).length)

/-- The sub-array of a quadrant in its troupe: the array row and column at its corner (R21, R236, R292). -/
def subArray (t : Troupe) (q : Nat) : Nat × Nat :=
  let q0 := t.quads.headD 0
  (64 * (q / 2 - q0 / 2), 64 * (q % 2 - q0 % 2))

/-- A piece of an area: its offset and its bytes. -/
abbrev Piece := Nat × List Byte

/-- 64-bit words one after another. -/
def dwords (ws : List Nat) : List Byte := ws.flatMap (leBytes 8)
/-- 32-bit words one after another. -/
def words (ws : List Nat) : List Byte := ws.flatMap (leBytes 4)

/-! ### Cast records (R293) -/

/-- The position and MSTEP from which a path goes on: a word that holds it is executed again. -/
def Path.restart (p : Path) : Nat × Option Nat :=
  match p.held with
  | some h => (h.pos, h.mstep)
  | Option.none => (p.pc, p.mstep)

/-- The eight words of a slot. -/
def Path.record (p : Path) : List Byte :=
  let r := p.restart
  dwords [p.live.toNat, r.1 % 2 ^ 32 + r.2.getD 0 % 32 * 2 ^ 32, p.em.toNat, p.fm.toNat, p.cf.toNat,
    p.parent.getD 0 % 64 + p.parent.isSome.toNat * 2 ^ 8, p.plvl.toNat, 0]

/-- The eight words of a handler level. -/
def Level.record (l : Level) : List Byte :=
  dwords [l.tvec.toNat, l.epc.toNat, l.cause.toNat, l.em.toNat, l.park.toNat, l.tval.toNat, l.scr.toNat, 0]

/-- PERM of a translation register: R, W, X and U in the places of a leaf's bits (R123). -/
def Tx.perm (t : Tx) : Nat := t.r.toNat * 2 + t.w.toNat * 4 + t.x.toNat * 8 + t.u.toNat * 16

/-- A tagged item: its tag and its bytes. -/
def taggedVec (x : VVal) : Nat × List Byte :=
  match x with
  | .uni v => (0, words [v.toNat])
  | .aff b s => (1, words [b.toNat, s.toNat])
  | .gen _ => (2, words ((List.range 32).map (fun l => (x.lane l).toNat)))

/-- A tagged window entry. -/
def taggedWin (x : WVal) : Nat × List Byte :=
  match x with
  | .scalar v => (3, dwords [v.toNat])
  | .vec v => taggedVec v

/-- The eight items of a slot's window: absent for an empty slot; entries that nothing has written are zero (R62), and which tag
such an entry has the spec does not say: the model saves a scalar-valued zero (log entry 35). -/
def Path.items (p : Path) : List (Nat × List Byte) :=
  if p.live then (List.range 8).map (fun k => match p.win[k]? with | some e => taggedWin e.val | Option.none => (3, dwords [0]))
  else List.replicate 8 (4, [])

/-- The tagged items of a cast: v0 to v47, o0 to o7, both windows. -/
def Ctx.items (c : Ctx) : List (Nat × List Byte) := c.v.toList.map taggedVec ++ c.a.items ++ c.b.items

/-- The parked lanes of a cast, in ascending lane order. -/
def Ctx.parksInOrder (c : Ctx) : List Park := (List.range 32).flatMap (fun l => c.parked.filter (fun k => decide (k.lane = l)))

/-- The fault records of the parked lanes, in ascending lane order (R293): a lane that a whole-path fault has put into xPARK has
that fault's one record (R403). -/
def Ctx.laneRecords (c : Ctx) : List (List Dword) :=
  (List.range 32).flatMap (fun l =>
    (c.parked.filter (fun k => decide (k.lane = l))).map (fun (k : Park) => [k.rec0, k.rec1, k.rec2, k.rec3]) ++
      (c.whole.filter (fun (w : Nat × List Dword) => active (c.level (BitVec.ofNat 2 w.1)).park l)).map (fun (w : Nat × List Dword) => w.2))

/-- The lanes of a whole-path fault that stand before a parked lane in those records. -/
def Ctx.wholeBefore (c : Ctx) (lane : Nat) : Nat :=
  ((List.range lane).map (fun l => (c.whole.filter (fun (w : Nat × List Dword) => active (c.level (BitVec.ofNat 2 w.1)).park l)).length)).sum

/-- The cast record (R293). -/
def castRecord (c : Ctx) (cnts : Dword) : List Byte :=
  let items := c.items
  dwords (c.s.toList.map (fun x => x.toNat)) ++ c.a.record ++ c.b.record ++
    dwords [c.dsmap.toNat, c.dsseq.toNat, c.cctl.toNat, cnts.toNat] ++ c.sup.record ++ c.hyp.record ++
    dwords [c.sup.mstep.getD 0, c.hyp.mstep.getD 0] ++ List.replicate 80 0#8 ++
    c.tx.toList.flatMap (fun t => dwords [t.base.toNat, t.frame.toNat, t.limit.toNat, t.perm]) ++
    c.h.toList.flatMap (fun h => dwords (h.toList.map (fun x => x.toNat))) ++
    items.map (fun i => BitVec.ofNat 8 i.1) ++ items.flatMap (fun i => i.2) ++
    c.laneRecords.flatMap (fun r => dwords ((List.range 4).map (fun k => (r.getD k 0).toNat)))

/-! ### Matrix state (R292) -/

/-- A saved weight: sign, exponent and significand. The least exponent marks what R292 does not name: a position that no group
keeps, a NaN, an infinity (log entry 35). -/
def weightBits (x : Option Num) : Nat :=
  let special (neg : Bool) (m : Nat) : Nat := neg.toNat * 2 ^ 63 + 2 ^ 62 + m
  match x with
  | none => special false 1
  | some .nan => special false 2
  | some (.inf n) => special n 3
  | some (.fin n m e) => n.toNat * 2 ^ 63 + (BitVec.ofInt 15 e).toNat * 2 ^ 48 + m % 2 ^ 48

/-- The weight that 64 saved bits stand for. -/
def weightOf (w : Nat) : Option Num :=
  let neg := decide (bits w 63 1 = 1)
  if bits w 48 15 = 2 ^ 14 then
    (match bits w 0 48 with
     | 1 => none
     | 2 => some .nan
     | 3 => some (.inf neg)
     | m => some (.fin neg m (-2 ^ 14)))
  else some (.fin neg (bits w 0 48) (BitVec.ofNat 15 (bits w 48 15)).toInt)

/-- A 64 × 64 tile of words of the sub-array at a corner. -/
def tileOf (rows : List (List Word)) (at_ : Nat × Nat) : List Byte :=
  words ((List.range 64).flatMap (fun i => (List.range 64).map (fun j => ((rows.getD (at_.1 + i) []).getD (at_.2 + j) 0).toNat)))

/-- The rows of a plane of the sub-array at a corner: 64 × P rows of 64 values. -/
def planeOf (p : Plane) (at_ : Nat × Nat) : List Byte :=
  dwords ((List.range (64 * p.p)).flatMap (fun k => (List.range 64).map (fun j =>
    weightBits ((p.rows.getD (at_.2 + j) []).getD (at_.1 * p.p + k) none))))

/-- The matrix part of an area. -/
def matrixPieces (m : Matrix) (at_ : Nat × Nat) : List Piece :=
  (List.range 16).map (fun n => (0x111000 + 0x4000 * n, tileOf (((m.slots.find n).map (fun (x : Slot) => x.rows)).getD []) at_)) ++
    [(0x151000, tileOf m.cells at_), (0x155000, planeOf m.active at_), (0x195000, planeOf m.shadow at_)]

/-! ### What the layout has no place for

R294 has a point resume exactly as it was saved, and R87 saves the whole of R61, while the layout of R292 and R293 names no place
for some of it. The model keeps it in the reserved part at the end of each area, as 64-bit words after their number (log entry
35). -/

/-- A path as a restore takes it up: a word that holds it is executed again, but for one that waits at a barrier. A word that
is not the last of its group is tried again where it stands, since later words of the group may have had their effect. -/
def Path.settle (p : Path) : Path :=
  let atBarrier (h : Held) : Bool := h.asleep && (match h.instr with | .barWait _ => true | .cueBar _ => true | _ => false)
  let retry (h : Held) : Held := if atBarrier h then h else { h with asleep := false }
  match p.held with
  | .none => { p with acq := .none, delayed := false, demoted := false }
  | some h =>
    if atBarrier h ∨ h.after ≠ h.nextPos ∨ p.also ≠ [] then { p with held := some (retry h), also := p.also.map retry }
    else { p with pc := h.pos, mstep := h.mstep, held := .none, acq := .none, delayed := false, demoted := false }

/-- Posts of a unit that hold their paths and that a restore issues again: they take their ordinals anew (R316). -/
def Ctx.postsAgain (c : Ctx) : Nat :=
  ((c.a :: c.b :: c.spilled.map (fun (e : Nat × Path) => e.2)).filter (fun (p : Path) =>
    p.holders.any (fun (h : Held) => match h.instr with | .collPost .. => true | _ => false) && p.settle.holders.isEmpty)).length

/-- An optional number as one word. -/
def optWord (x : Option Nat) : Nat := match x with | some n => n + 1 | none => 0

/-- An optional number from its word. -/
def wordOpt (n : Nat) : Option Nat := if n = 0 then none else some (n - 1)

/-- A list as its length and its elements' words. -/
def listWords {α : Type} (f : α → List Nat) (as : List α) : List Nat := as.length :: as.flatMap f

/-- Read `n` elements from words in turn; the words that are left. -/
def readMany {α : Type} (f : List Nat → α × List Nat) : Nat → List Nat → List α × List Nat
  | 0, xs => ([], xs)
  | n + 1, xs =>
    let (a, r) := f xs
    let (as, r1) := readMany f n r
    (a :: as, r1)

/-- Read a list back. -/
def listFrom {α : Type} (f : List Nat → α × List Nat) (xs : List Nat) : List α × List Nat := readMany f (min (xs.headD 0) 0x4000) xs.tail

/-- Read a number. -/
def numFrom (xs : List Nat) : Nat × List Nat := (xs.headD 0, xs.tail)

/-- Words of a held word. -/
def Held.words (h : Held) : List Nat :=
  [h.pos, optWord h.mstep, h.word.toNat, h.nextPos, h.after, optWord h.afterStep, h.em.toNat, h.fm.toNat, h.asleep.toNat, h.tag, h.leads.toNat] ++
    listWords (fun (x : Dword) => [x.toNat]) h.vals

/-- The instruction of a word of a unit that is not a stagehand. -/
def wordInstr (k : Kind) (w : Word) : Instr := match decode k w 0 with | .ok i => i | .error _ => .nop

/-- Read a held word; issue orders count on from `base`. -/
def heldFrom (k : Kind) (cycle base : Nat) (xs : List Nat) : Held × List Nat :=
  let w (n : Nat) : Nat := xs.getD n 0
  let (vals, rest) := listFrom numFrom (xs.drop 11)
  let word : Word := BitVec.ofNat 32 (w 2)
  ({ instr := wordInstr k word, pos := w 0, mstep := wordOpt (w 1), word := word, nextPos := w 3, after := w 4, afterStep := wordOpt (w 5),
     em := BitVec.ofNat 32 (w 6), fm := BitVec.ofNat 32 (w 7), since := cycle, vals := vals.map (BitVec.ofNat 64), asleep := decide (w 8 = 1),
     tag := base + w 9, leads := decide (w 10 = 1) }, rest)

/-- Words of a run-on. -/
def RunOn.words (r : RunOn) : List Nat :=
  [r.plvl.toNat, r.parked.toNat, r.wait.toNat] ++ listWords (fun (m : Nat × Option Nat) => [m.1, optWord m.2]) r.meet.toList

/-- Read a run-on. -/
def runFrom (xs : List Nat) : RunOn × List Nat :=
  let (ms, rest) := listFrom (fun ys => ((ys.getD 0 0, wordOpt (ys.getD 1 0)), ys.drop 2)) (xs.drop 3)
  ({ plvl := BitVec.ofNat 2 (xs.getD 0 0), parked := BitVec.ofNat 32 (xs.getD 1 0), wait := BitVec.ofNat 32 (xs.getD 2 0), meet := ms.head? }, rest)

/-- Words of a handler entry that waits. -/
def Trap.words (t : Trap) : List Nat :=
  [t.level, t.cause, t.tval.toNat, t.epc, optWord t.mstep, t.em.toNat, t.park.toNat] ++ listWords (fun (x : Dword) => [x.toNat]) t.record

/-- Read a handler entry that waits. -/
def trapFrom (xs : List Nat) : Trap × List Nat :=
  let w (n : Nat) : Nat := xs.getD n 0
  let (r, rest) := listFrom numFrom (xs.drop 7)
  ({ level := w 0, cause := w 1, tval := BitVec.ofNat 64 (w 2), epc := w 3, mstep := wordOpt (w 4), em := BitVec.ofNat 32 (w 5),
     park := BitVec.ofNat 32 (w 6), record := r.map (BitVec.ofNat 64) }, rest)

/-- Words of a path as a restore takes it up. -/
def Path.words (p : Path) : List Nat :=
  let q := p.settle
  [q.pid, q.pc, optWord q.mstep, q.demoted.toNat, q.live.toNat, q.cf.toNat] ++ listWords Held.words q.holders ++ listWords RunOn.words q.runs ++ listWords Trap.words q.entry.toList

/-- Complete a path that its slot or its stack entry gives. -/
def Path.complete (k : Kind) (cycle base : Nat) (p : Path) (xs : List Nat) : Path × List Nat :=
  let w (n : Nat) : Nat := xs.getD n 0
  let (hs, r1) := listFrom (heldFrom k cycle base) (xs.drop 6)
  let (runs, r2) := listFrom runFrom r1
  let (ts, r3) := listFrom trapFrom r2
  ({ p with live := decide (w 4 = 1), cf := decide (w 5 = 1), pid := w 0, pc := w 1, mstep := wordOpt (w 2), demoted := decide (w 3 = 1), held := hs.head?, also := hs.tail, runs := runs,
            entry := ts.head? }, r3)

/-- Words of a parked lane beside its fault record: the access that ERET replays (R249). -/
def Park.words (k : Park) : List Nat :=
  let f := k.op
  [k.lane, k.level, k.pid, k.cause.code, f.id, f.pid, f.pos, optWord f.mstep, f.word.toNat, f.after, optWord f.afterStep,
   (f.data.getD k.lane 0).toNat, (f.data2.getD k.lane 0).toNat, (active f.wild k.lane).toNat, f.rel.toNat, f.acq.toNat, f.scope.toNat,
   f.level.toNat, optWord f.dest, (f.va.getD k.lane 0).toNat]

/-- Read a parked lane; its fault record is the lane's in the cast record. -/
def parkFrom (u : UnitId) (base : Nat) (xs : List Nat) : Park × List Nat :=
  let w (n : Nat) : Nat := xs.getD n 0
  let lane := w 0
  let word : Word := BitVec.ofNat 32 (w 8)
  let x := wordInstr u.kind word
  let m : Word := 1#32 <<< lane
  let f : FarOp :=
    { id := base + w 4, unit := u, pid := w 5, instr := x, pos := w 6, mstep := wordOpt (w 7), after := w 9, afterStep := wordOpt (w 10), word := word,
      cls := (clsOf (BitVec.allOnes 32) x).getD .fetch, lanes := m, todo := m, va := List.replicate 32 (BitVec.ofNat 64 (w 19)),
      wild := if w 13 = 1 then m else 0, pa := List.replicate 32 none, hits := List.replicate 32 none,
      data := List.replicate 32 (BitVec.ofNat 32 (w 11)), data2 := List.replicate 32 (BitVec.ofNat 32 (w 12)), old := [], dest := wordOpt (w 18),
      rel := decide (w 14 = 1), acq := decide (w 15 = 1), scope := BitVec.ofNat 2 (w 16), level := BitVec.ofNat 2 (w 17), checked := false, done := false,
      moving := false, tile := [], rows := 0 }
  ({ lane := lane, level := w 1, pid := w 2, rec0 := 0, rec1 := 0, rec2 := 0, rec3 := 0,
     cause := (allCauses.find? (fun (k : Cause) => decide (k.code = w 3))).getD .pageFault, op := f }, xs.drop 20)

/-- Words of a unit that executes Dexfy words. -/
def Ctx.words (c : Ctx) : List Nat :=
  [c.st.toNat, c.ordinal - c.postsAgain, c.nextPid, optWord c.sup.busy, optWord c.hyp.busy, c.ended.toNat] ++ c.a.words ++ c.b.words ++
    listWords (fun (e : Nat × Path) => e.1 :: e.2.words) c.spilled ++ listWords Park.words c.parksInOrder ++
    listWords (fun (e : Nat × List Dword) => e.1 :: listWords (fun (x : Dword) => [x.toNat]) e.2) c.whole

/-- Complete the registers that a cast record or the cue stream's header gives. -/
def Ctx.complete (cycle base : Nat) (u : UnitId) (c : Ctx) (xs : List Nat) : Ctx × List Nat :=
  let w (n : Nat) : Nat := xs.getD n 0
  let path := Path.complete u.kind cycle base
  let (a, r1) := path c.a (xs.drop 6)
  let (b, r2) := path c.b r1
  let (sp, r3) := listFrom (fun ys => let (p, r) := path Path.none ys.tail; ((ys.headD 0, p), r)) r2
  let (ks, r4) := listFrom (parkFrom u base) r3
  let (wh, r5) := listFrom (fun ys => let (d, r) := listFrom numFrom ys.tail; ((ys.headD 0, d.map (BitVec.ofNat 64)), r)) r4
  ({ c with st := BitVec.ofNat 7 (w 0), ordinal := w 1, nextPid := w 2, sup := { c.sup with busy := wordOpt (w 3) },
            hyp := { c.hyp with busy := wordOpt (w 4) }, ended := decide (w 5 = 1), a := if c.a.live then a else c.a, b := if c.b.live then b else c.b,
            spilled := sp, parked := ks, whole := wh }, r5)

/-- Words of a stagehand. -/
def Hand.words (h : Hand) : List Nat := [h.mcycle.toNat, h.minstret.toNat, h.exited.toNat]

/-- Complete a stagehand. -/
def Hand.complete (h : Hand) (xs : List Nat) : Hand × List Nat :=
  ({ h with mcycle := BitVec.ofNat 64 (xs.getD 0 0), minstret := BitVec.ofNat 64 (xs.getD 1 0), exited := decide (xs.getD 2 0 = 1) }, xs.drop 3)

/-- Words of a plane's records. -/
def Plane.words (p : Plane) : List Nat := [p.loaded.toNat, p.fmt, p.fromHandle.toNat, p.p, p.cls, p.structured.toNat]

/-- The participants of a troupe's barriers, by number. -/
def Troupe.parties (t : Troupe) : List UnitId := t.casts ++ [t.cue]

/-- The number of a participant. -/
def Troupe.party (t : Troupe) (u : UnitId) : Nat := (t.parties.findIdx? (fun x => decide (x = u))).getD 0

/-- Words of a troupe: rings, barriers and waits, and the records of its matrix state. -/
def Troupe.words (t : Troupe) : List Nat :=
  let arrived (e : Nat × Arrivals) : List Nat := e.1 :: listWords (fun u => [t.party u]) e.2
  t.rings.toList.flatMap (fun r => [r.tail.toNat, r.head.toNat, r.freed.toNat] ++ listWords (fun n => [n]) r.full) ++
    listWords arrived t.bars ++ listWords arrived t.cues ++
    listWords (fun (w : Bool × UnitId × Nat × Nat) => [w.1.toNat, t.party w.2.1, w.2.2.1, w.2.2.2]) t.waits ++
    [optWord (t.mx.cellFmt.map (fun x => x.toNat))] ++ t.mx.active.words ++ t.mx.shadow.words

/-- Complete a troupe, from the words of its rings, barriers and waits; the words of its matrix state are left. -/
def Troupe.complete (base : Nat) (t : Troupe) (xs : List Nat) : Troupe × List Nat :=
  let unit (n : Nat) : UnitId := t.parties.getD n t.cue
  let arrived (ys : List Nat) : (Nat × Arrivals) × List Nat := let (us, r) := listFrom numFrom ys.tail; ((ys.headD 0, us.map unit), r)
  let (rings, r1) := readMany (fun ys => let (full, r) := listFrom numFrom (ys.drop 3); ((ys.getD 0 0, ys.getD 1 0, ys.getD 2 0, full), r)) 16 xs
  let (bars, r2) := listFrom arrived r1
  let (cues, r3) := listFrom arrived r2
  let (waits, r4) := listFrom (fun ys => ((decide (ys.getD 0 0 = 1), unit (ys.getD 1 0), ys.getD 2 0, base + ys.getD 3 0), ys.drop 4)) r3
  ({ t with rings := Vector.ofFn (fun (k : Fin 16) =>
              let x := rings.getD k.val (0, 0, 0, [])
              { t.rings[k] with tail := BitVec.ofNat 16 x.1, head := BitVec.ofNat 16 x.2.1, freed := BitVec.ofNat 16 x.2.2.1, full := x.2.2.2 })
            bars := bars, cues := cues, waits := waits }, r4)

/-- The words of the area of rank `r` of a troupe. -/
def State.rankWords (s : State) (t : Troupe) (r : Nat) : List Nat :=
  let q := t.quads.getD r 0
  let ctx (u : UnitId) : Ctx := (s.ctxs.find u).getD Ctx.zero
  let hand (u : UnitId) : Hand := (s.hands.find u).getD Hand.zero
  s.stamp :: (List.range 4).flatMap (fun l => (ctx (.cast t.core q l)).words) ++ (hand (.rigger t.core q)).words ++ (hand (.striker t.core q)).words ++
    (if r = 0 then (ctx t.cue).words ++ t.words else [])

/-! ### Areas -/

/-- What the rank-0 header holds of the cue stream: fm, st, the active shape, TAKEN with the slot formats, the gate program,
the registers and the handles. The places of the first four in 0x38 to 0x57, and of the gate program at 0x58, are the
model's. -/
def cuePieces (t : Troupe) (c : Ctx) : List Piece :=
  let m := t.mx
  let taken := (List.range 16).filter (fun n => (m.slots.find n).isSome)
  let formats := (taken.map (fun n => (((m.slots.find n).map (fun (x : Slot) => x.fmt.toNat)).getD 0) * 4 ^ n)).sum
  [(0x30, words [c.a.restart.1]),
   (0x38, dwords [c.a.fm.toNat, c.st.toNat, m.shape.toNat, formats * 2 ^ 16 + slotMask taken] ++ dwords (m.gate.map (fun x => x.toNat))),
   (0x100, dwords ((c.s.toList.take 16).map (fun x => x.toNat))),
   (0x180, c.h.toList.flatMap (fun h => dwords (h.toList.map (fun x => x.toNat))))]

/-- What an area holds of a stagehand. -/
def handPieces (off : Nat) (h : Hand) (copies : Nat) : List Piece :=
  [(off, words ((h.x.toList.drop 1).map (fun x => x.toNat) ++ [h.pc.toNat, copies])),
   (off + 0x100, h.h.toList.flatMap (fun e => dwords (e.toList.map (fun x => x.toNat)))),
   (off + 0x2000, h.data.bytes 0 0x4000)]

/-- The pieces of the area of rank `r` of a troupe, but for its header and its scratchpad. -/
def State.areaPieces (s : State) (t : Troupe) (r : Nat) : List Piece :=
  let q := t.quads.getD r 0
  let ctx (u : UnitId) : Ctx := (s.ctxs.find u).getD Ctx.zero
  let hand (off : Nat) (u : UnitId) : List Piece := handPieces off ((s.hands.find u).getD Hand.zero) (s.counter u .copy)
  (List.range 4).map (fun l => (0x1000 + 0x4000 * l, castRecord (ctx (.cast t.core q l)) (s.cnts (.cast t.core q l)))) ++
    matrixPieces t.mx (subArray t q) ++ hand 0x1D5000 (.rigger t.core q) ++ hand 0x1DB000 (.striker t.core q) ++
    (if r = 0 then cuePieces t (ctx t.cue) else []) ++ [(0x1E1000, dwords (listWords (fun n => [n]) (s.rankWords t r)))]

/-- The header's fixed words (R292); VALID is written last. -/
def headerPiece (handle : BitVec 16) (t : Troupe) (r : Nat) (valid : Bool) (tsave : Dword) : Piece :=
  (0, dwords ((handle.toNat * 2 ^ 16 + t.member * 2 ^ 9 + r * 2 ^ 7 + t.shape.toNat * 2 ^ 5 + valid.toNat) ::
    (List.range 4).map (fun k => (BitVec.ofInt 64 (t.point.getD k 0)).toNat) ++ [tsave.toNat]))

/-- A 2 MiB area as memory: its pieces, and zero elsewhere. -/
def areaMemory (ps : List Piece) (scratch : Memory) (from_ : Nat) : Memory :=
  ps.foldl (fun (m : Memory) (p : Piece) => m.putBytes p.1 p.2)
    (((scratch.filter (fun c => decide (from_ ≤ c.1) && decide (c.1 < from_ + 2 ^ 20))).map (fun (c : Nat × Byte) => (c.1 - from_ + 0x11000, c.2))))

/-- A write of a save engine that faults: its guest physical address and the cause. -/
structure SaveFault where
  gpa : Nat
  cause : Cause
  deriving DecidableEq, Repr

/-- Write an area page by page through stage 2; the first fault ends it, and what stands before it is written. -/
def State.writeArea (s : State) (v : Vdi) (gpa : Nat) (m : Memory) : List Nat → State × Option SaveFault
  | [] => (s, none)
  | k :: ks =>
    match s.writeGuest v (gpa + 4096 * k) (m.bytes (4096 * k) 4096) with
    | .error e => (s, some { gpa := gpa + 4096 * k, cause := e.cause })
    | .ok s1 => s1.writeArea v gpa m ks

/-- The pages of an area. -/
def areaPages : List Nat := List.range 512

/-- Bytes of an area as they are read through stage 2; an address that does not translate reads zero. -/
def State.readArea (s : State) (v : Vdi) (gpa n : Nat) : List Byte :=
  (List.range n).map (fun k => match s.readGuest v (gpa + k) 1 with | .ok bs => bs.headD 0 | .error _ => 0)

/-! ### Poison (R361) -/

/-- Offset of a tagged item's value in a cast record. -/
def Ctx.itemOffset (c : Ctx) (k : Nat) : Nat := 0x800 + 72 + ((c.items.take k).map (fun i => i.2.length)).sum

/-- Offsets in an area that receive poisoned bytes of a rank. -/
def State.areaPoison (s : State) (t : Troupe) (r : Nat) : List Nat :=
  let q := t.quads.getD r 0
  let base := devScratch t.core q 0
  let at_ := subArray t q
  let ctx (u : UnitId) : Ctx := (s.ctxs.find u).getD Ctx.zero
  let special (n : Nat) : Nat := if n < 64 then 8 * n else if n < 128 then 0x300 + 32 * (n - 64) else 0x400 + 8 * (n - 128)
  let one (l : Nat) : List Nat :=
    let c := ctx (.cast t.core q l)
    c.poisonS.map (fun n => 0x1000 + 0x4000 * l + special n) ++
      c.poisonV.map (fun k => 0x1000 + 0x4000 * l + c.itemOffset (k / 32) +
        (match (taggedVec (c.vreg (k / 32))).1 with | 2 => 4 * (k % 32) | _ => 0))
  let hand (off : Nat) (u : UnitId) : List Nat := ((s.hands.find u).getD Hand.zero).poison.filterMap (fun k =>
    if k < 0x2000 then some (off + 0x2000 + 4 * k) else if k < 0x3000 then some (off + 0x100 + 8 * (k - 0x2000))
    else if k < 0x4000 then some (off + 4 * (k - 0x3001)) else none)
  let mx (e : Nat × Nat) : List Nat :=
    let i := e.2 / 128
    let j := e.2 % 128
    let tile (off : Nat) : List Nat :=
      if at_.1 ≤ i ∧ i < at_.1 + 64 ∧ at_.2 ≤ j ∧ j < at_.2 + 64 then [off + 4 * (64 * (i - at_.1) + (j - at_.2))] else []
    let plane (off : Nat) (p : Plane) : List Nat :=
      if at_.1 ≤ i ∧ i < at_.1 + 64 ∧ at_.2 ≤ j ∧ j < at_.2 + 64 then [off + 8 * (64 * p.p * (i - at_.1) + (j - at_.2))] else []
    if e.1 = 0 then tile 0x151000 else if e.1 ≤ 16 then tile (0x111000 + 0x4000 * (e.1 - 1))
    else if e.1 = 17 then plane 0x155000 t.mx.active else plane 0x195000 t.mx.shadow
  (s.scratchPoison.filter (fun w => decide (base ≤ 4 * w) && decide (4 * w < base + 2 ^ 20))).map (fun w => 4 * w - base + 0x11000) ++
    (List.range 4).flatMap one ++ hand 0x1D5000 (.rigger t.core q) ++ hand 0x1DB000 (.striker t.core q) ++ t.mx.bad.flatMap mx ++
    (if r = 0 then (ctx t.cue).poisonS.map (fun n => if n < 128 then 0x100 + 8 * n else 0x180 + 8 * (n - 128)) ++ t.badSync.map (fun _ => 0x1E1000) else [])

/-- Mark the granules of an area that receive poisoned bytes. -/
def State.poisonArea (s : State) (v : Vdi) (gpa : Nat) (offs : List Nat) : State :=
  offs.foldl (fun (x : State) o =>
    match x.stage2 v (gpa + o) with
    | .error _ => x
    | .ok l =>
      let line := l.apply (gpa + o) / 64
      if x.poison.contains line then x else { x with poison := line :: x.poison }) s

/-- Whether an area holds a poisoned granule (R365). -/
def State.areaPoisoned (s : State) (v : Vdi) (gpa : Nat) : Bool :=
  (List.range (2 ^ 21 / 64)).any (fun k => match s.stage2 v (gpa + 64 * k) with | .ok l => s.lineBad (l.apply (gpa + 64 * k)) | .error _ => false)

/-! ### Reading an area back -/

/-- A 64-bit word of bytes that have been read. -/
def dwordAt (bs : List Byte) (off : Nat) : Nat := leNat ((bs.drop off).take 8)
/-- A 32-bit word of bytes that have been read. -/
def wordAt (bs : List Byte) (off : Nat) : Nat := leNat ((bs.drop off).take 4)

/-- A slot's path, from its record and window. -/
def pathFrom (bs : List Byte) (off pid : Nat) (win : List WEnt) : Path :=
  let w (k : Nat) : Nat := dwordAt bs (off + 8 * k)
  if w 0 % 2 = 0 then Path.none
  else
    { Path.none with
      live := true, pid := pid, pc := bits (w 1) 0 32,
      mstep := if bits (w 1) 32 5 = 0 then Option.none else some (bits (w 1) 32 5),
      em := BitVec.ofNat 32 (w 2), fm := BitVec.ofNat 32 (w 3), cf := decide (w 4 % 2 = 1),
      parent := if bits (w 5) 8 1 = 1 then some (bits (w 5) 0 6) else Option.none, plvl := BitVec.ofNat 2 (w 6), win := win }

/-- A handler level, from its record; `busy` is the path that is inside its handler. -/
def levelFrom (bs : List Byte) (off mstep : Nat) (busy : Option Nat) : Level :=
  let w (k : Nat) : Nat := dwordAt bs (off + 8 * k)
  { tvec := BitVec.ofNat 32 (w 0), epc := BitVec.ofNat 32 (w 1), cause := BitVec.ofNat 32 (w 2), em := BitVec.ofNat 32 (w 3),
    park := BitVec.ofNat 32 (w 4), tval := BitVec.ofNat 64 (w 5), scr := BitVec.ofNat 64 (w 6),
    mstep := if mstep = 0 then none else some mstep, busy := busy }

/-- A tagged value, with the bytes that it takes. -/
def untag (tag : Nat) (bs : List Byte) : WVal × Nat :=
  let w (k : Nat) : Word := BitVec.ofNat 32 (wordAt bs (4 * k))
  if tag = 0 then (.vec (.uni (w 0)), 4) else if tag = 1 then (.vec (.aff (w 0) (w 1)), 8)
  else if tag = 2 then (.vec (.gen ((List.range 32).map w)), 128)
  else if tag = 3 then (.scalar (BitVec.ofNat 64 (dwordAt bs 0)), 8) else (.scalar 0, 0)

/-- The tagged values in order, and the bytes after them. -/
def untagAll : List Nat → List Byte → List WVal × List Byte
  | [], bs => ([], bs)
  | t :: ts, bs =>
    let (x, k) := untag t bs
    let (xs, rest) := untagAll ts (bs.drop k)
    (x :: xs, rest)

/-- The registers of a cast, from its record (R293). -/
def castFrom (bs : List Byte) : Ctx :=
  let tags := (List.range 72).map (fun k => ((bs.drop (0x800 + k)).headD 0).toNat)
  let (vals, _) := untagAll tags (bs.drop (0x800 + 72))
  let win (k : Nat) : List WEnt := ((vals.drop k).take 8).map (fun v => { val := v, ready := 0, before := [] })
  let seq := dwordAt bs 0x208
  { Ctx.zero with
    s := Vector.ofFn (fun (k : Fin 48) => BitVec.ofNat 64 (dwordAt bs (8 * k.val)))
    v := Vector.ofFn (fun (k : Fin 56) => (vals.getD k.val (.scalar 0)).toVec)
    tx := Vector.ofFn (fun (k : Fin 8) =>
      let p := dwordAt bs (0x318 + 32 * k.val)
      { Tx.zero with base := BitVec.ofNat 64 (dwordAt bs (0x300 + 32 * k.val)), frame := BitVec.ofNat 64 (dwordAt bs (0x308 + 32 * k.val)),
                     r := decide (bits p 1 1 = 1), w := decide (bits p 2 1 = 1), x := decide (bits p 3 1 = 1), u := decide (bits p 4 1 = 1) })
    h := Vector.ofFn (fun (k : Fin 16) => Vector.ofFn (fun (j : Fin 8) => BitVec.ofNat 64 (dwordAt bs (0x400 + 64 * k.val + 8 * j.val))))
    cctl := BitVec.ofNat 32 (dwordAt bs 0x210), dsmap := BitVec.ofNat 64 (dwordAt bs 0x200), nspill := bits seq 8 7, next := BitVec.ofNat 8 seq
    sup := levelFrom bs 0x220 (dwordAt bs 0x2A0 % 32) none, hyp := levelFrom bs 0x260 (dwordAt bs 0x2A8 % 32) none
    a := pathFrom bs 0x180 1 (win 56), b := pathFrom bs 0x1C0 2 (win 64) }

/-- Give the parked lanes their fault records, which stand after the tagged values of the cast record (R293). -/
def Ctx.withRecords (c : Ctx) (bs : List Byte) : Ctx :=
  let tags := (List.range 72).map (fun k => ((bs.drop (0x800 + k)).headD 0).toNat)
  let rest := (untagAll tags (bs.drop (0x800 + 72))).2
  let w (n j : Nat) : Dword := BitVec.ofNat 64 (dwordAt rest (32 * n + 8 * j))
  { c with parked := (List.range c.parked.length).filterMap (fun k => (c.parked[k]?).map (fun (x : Park) =>
      let n := k + c.wholeBefore x.lane
      { x with rec0 := w n 0, rec1 := w n 1, rec2 := w n 2, rec3 := w n 3 })) }

/-- A stagehand, from its part of an area; its instruction store comes from the image. -/
def handFrom (bs : List Byte) (h : Hand) : Hand :=
  { h with x := Vector.ofFn (fun (j : Fin 32) => if j.val = 0 then 0 else BitVec.ofNat 32 (wordAt bs (4 * (j.val - 1))))
           pc := BitVec.ofNat 32 (wordAt bs 124)
           h := Vector.ofFn (fun (j : Fin 16) => Vector.ofFn (fun (i : Fin 8) => BitVec.ofNat 64 (dwordAt bs (0x100 + 64 * j.val + 8 * i.val))))
           data := Memory.putBytes [] 0 ((bs.drop 0x2000).take 0x4000) }

/-- The cue stream, from the rank-0 header. -/
def cueFrom (hdr : List Byte) (c : Ctx) : Ctx :=
  { c with
    s := Vector.ofFn (fun (k : Fin 48) => if k.val < 16 then BitVec.ofNat 64 (dwordAt hdr (0x100 + 8 * k.val)) else 0)
    h := Vector.ofFn (fun (k : Fin 16) => Vector.ofFn (fun (j : Fin 8) => BitVec.ofNat 64 (dwordAt hdr (0x180 + 64 * k.val + 8 * j.val))))
    st := BitVec.ofNat 7 (dwordAt hdr 0x40)
    a := { c.a with pc := wordAt hdr 0x30, fm := BitVec.ofNat 32 (dwordAt hdr 0x38) } }

/-- The tiles of an array from the areas of its quadrants, by array row and column. -/
def arrayFrom (rows cols : Nat) (at_ : Nat → Nat → Nat) : List (List Word) :=
  (List.range rows).map (fun i => (List.range cols).map (fun j => BitVec.ofNat 32 (at_ i j)))

/-- The matrix state, from the areas of a troupe's ranks and the words of its records. `area` reads the part of the quadrant that
holds an array row and column. -/
def matrixFrom (shape : BitVec 2) (hdr : List Byte) (xs : List Nat) (area : Nat → Nat → Nat → Nat → Nat) : Matrix :=
  let taken := dwordAt hdr 0x50
  let sh : BitVec 2 := BitVec.ofNat 2 (dwordAt hdr 0x48)
  let rows := arrayRows shape
  let cols := arrayCols shape
  let tile (off : Nat) : List (List Word) := arrayFrom rows cols (fun i j => area i j (off + 4 * (64 * (i % 64) + j % 64)) 4)
  let plane (off n : Nat) : Plane :=
    let w (k : Nat) : Nat := xs.getD (n + k) 0
    let p := w 3
    { loaded := decide (w 0 = 1), fmt := w 1, fromHandle := decide (w 2 = 1), p := p, cls := w 4, structured := decide (w 5 = 1),
      rows := if w 0 = 0 then [] else (List.range cols).map (fun j => (List.range (rows * p)).map (fun k =>
        weightOf (area (k / p) j (off + 8 * (64 * (k % (64 * p)) + j % 64)) 8))) }
  { cells := tile 0x151000, cellFmt := (wordOpt (xs.headD 0)).map (BitVec.ofNat 2), active := plane 0x155000 1, shadow := plane 0x195000 7,
    slots := ((List.range 16).filter (fun n => decide (bits taken n 1 = 1))).map (fun n =>
      (n, { fmt := BitVec.ofNat 2 (bits taken (16 + 2 * n) 2), rows := tile (0x111000 + 0x4000 * n) })),
    gate := ((List.range 8).map (fun k => BitVec.ofNat 64 (dwordAt hdr (0x58 + 8 * k)))).takeWhile (fun g => decide (gateOp g ≠ 0)),
    shape := sh, ops := [], bad := [] }

end Sys2Proof.Machine
end

