-- ==== Sys2Proof/Machine/Preempt.lean ====
section
/-! DEFINITION. Loading a tenant (R399, R405), pre-emption (R288 to R297, R406), save faults (R363 to R365), restore (R294,
R298), budgets and watchdog (R301, R302). -/

namespace Sys2Proof.Machine

/-! ### Tenants (R286, R323, R399, R405) -/

/-- The quadrant sets that a partition may have (R286). -/
def quadSets : List (List Nat) := [[0], [1], [2], [3], [0, 1], [2, 3], [0, 2], [1, 3], [0, 1, 2, 3]]

/-- Whether a partition is a rectangle of the grid with a legal quadrant set and shares no quadrant with another (R286). -/
def State.partitionLegal (s : State) (m : TenantImage) : Bool :=
  let v := Vdi.create m []
  decide (0 < m.w) && decide (0 < m.h) && decide (m.x0 + m.w ≤ 32) && decide (m.y0 + m.h ≤ 8) && quadSets.contains m.quads &&
    s.vdis.all (fun (e : Nat × Vdi) => v.cores.all (fun c => m.quads.all (fun q => !e.2.hasQuad c q)))

/-- Whether an image's shares fit beside those of the other interfaces (R272, R303, R307): 256 queue contexts, 64 nest slots, 4096
semaphores, 4096 bins, 512 posts and 1024 groups in all; the spans of semaphores and bins are disjoint. -/
def State.sharesLegal (s : State) (m : TenantImage) : Bool :=
  let all := m :: s.vdis.map (fun (e : Nat × Vdi) => e.2.img)
  let fits (f : TenantImage → Nat) (n : Nat) : Bool := decide ((all.map f).sum ≤ n)
  let apart (b n b' n' : Nat) : Bool := decide (n = 0) || decide (n' = 0) || decide (b + n ≤ b') || decide (b' + n' ≤ b)
  fits (fun x => x.queues.length) 256 && fits TenantImage.nestSlots 64 && fits TenantImage.pctShare 512 &&
    decide (m.semBase + m.semShare ≤ 4096) && decide (m.binBase + m.binShare ≤ 4096) &&
    s.vdis.all (fun (e : Nat × Vdi) => apart m.semBase m.semShare e.2.img.semBase e.2.img.semShare &&
      apart m.binBase m.binShare e.2.img.binBase e.2.img.binShare) &&
    decide (s.coll.groups.length + m.groups.length ≤ 1024) && m.groups.all (fun g => groupLegal g.1 g.2.1 g.2.2)

/-- The tenant measurement (R323): the configuration record, then each code object with its length. -/
def tenantMeasurement (m : TenantImage) : List Byte :=
  let flags := m.queues.map (fun b => b.toNat)
  let cfg := Config.partitionRecord (m.quads.length :: m.quads ++ m.queues.length :: flags ++ [m.nestSlots, m.semShare, m.binShare, m.pctShare]) m.policy
  let object (k : Nat) (bs : List Byte) : List Byte := if bs = [] ∧ !m.emptyObjects.contains k then [] else leBytes 8 bs.length ++ bs
  sha384 (leBytes 64 cfg.toNat ++ object 0 m.code ++ object 1 m.stagehandCode ++ object 2 m.stagehandData)

/-- A quadrant whose stores are zeroed (R405). -/
def State.zeroQuad (s : State) (core q : Nat) : State :=
  let base := devScratch core q 0
  { s with scratch := s.scratch.clear base (2 ^ 20), scratchPoison := s.scratchPoison.filter (fun w => !(decide (base ≤ 4 * w) && decide (4 * w < base + 2 ^ 20))),
           quads := s.quads.put (quadKey core q) { s.quad (quadKey core q) with macros := [], badMacros := [], windows := [], entries := [], round := [] },
           hands := (s.hands.put (.rigger core q) Hand.zero).put (.striker core q) Hand.zero }

/-- The loader writes bytes into the pages that Proscenium has mapped for the tenant, whatever their permissions, line by line, with
fuel for the lines; nothing where no memory is mapped (R399). -/
def State.placeBytes (s : State) (v : Vdi) : Nat → Nat → List Byte → Option State
  | 0, _, _ => some s
  | fuel + 1, va, bs =>
    if bs = [] then some s
    else
      let k := 64 - va % 64
      match s.stage1 v va with
      | .error _ => none
      | .ok one =>
        match s.stage2 v (one.apply (va % 2 ^ 57)) with
        | .error _ => none
        | .ok two =>
          let pa := two.apply (one.apply (va % 2 ^ 57))
          if s.backed pa then (s.writePhys pa (bs.take k)).placeBytes v fuel (va + k) (bs.drop k) else none

/-- Pieces that the loader places one after the other. -/
def State.placeAll (s : State) (v : Vdi) : List (Nat × List Byte) → Option State
  | [] => some s
  | (va, bs) :: rest =>
    match s.placeBytes v (bs.length / 64 + 2) va bs with
    | none => none
    | some s1 => s1.placeAll v rest

/-- The data and zero-fill sections, then every relocation (R399); nothing when a section does not lie in mapped memory. -/
def State.placeData (s : State) (v : Vdi) (m : TenantImage) : Option State :=
  s.placeAll v (m.data ++ m.relocs.map (fun (r : Nat × Nat × Dword) => ((m.data.getD r.1 (0, [])).1 + r.2.1, leBytes 8 r.2.2.toNat)))

/-- The loader creates a tenant on an interface that has none (R399). Of a load whose image is malformed, or whose sections do not lie in
mapped memory, the spec does not speak: it changes nothing (log entry 33). -/
def execTenantLoad (s : State) : Result :=
  match s.ev.image.bind resolveImage with
  | none => .next s
  | some m =>
    if !s.secure.booted ∨ 64 ≤ m.vdi ∨ (s.vdis.find m.vdi).isSome ∨ !s.partitionLegal m ∨ 16 < m.queues.length ∨ 8 < m.policy.length ∨ !s.sharesLegal m then .next s
    else
      let v := Vdi.create m (tenantMeasurement m)
      let s1 : State :=
        { s with vdis := s.vdis.put m.vdi v,
                 mem := m.memory.foldl (fun (x : Memory) (p : Nat × List Byte) => x.putBytes p.1 p.2) s.mem,
                 bins := s.bins.filter (fun (b : Nat × Dword) => !(decide (m.binBase ≤ b.1) && decide (b.1 < m.binBase + m.binShare))),
                 coll := { s.coll with groups := s.coll.groups ++ m.groups.map (fun g => (g.1, m.vdi, g.2.1, g.2.2, false)) } }
      let places := v.cores.flatMap (fun c => m.quads.map (fun q => (c, q)))
      let s2 := places.foldl (fun (x : State) p => x.zeroQuad p.1 p.2) s1
      let load (x : State) (u : UnitId) : State :=
        x.onHand u (fun h => { h with instrs := h.instrs.putBytes 0 m.stagehandCode, data := h.data.putBytes 0 m.stagehandData })
      let s3 := places.foldl (fun (x : State) p => load (load x (.rigger p.1 p.2)) (.striker p.1 p.2)) s2
      .next ((s3.placeData v m).getD s)

/-- The cores on which a partition receives a quadrant: one that it already has is given back where it is; a new one comes on every
core of the rectangle, since every core gives the partition the same set (R286). -/
def Vdi.givenCores (v : Vdi) (core q : Nat) : List Nat := if v.quads.contains q then [core] else v.cores

/-- The partition that gets a quadrant, or, of another partition that has it on one of those cores, loses it on every core of its
own rectangle (R286, R406; log entry 75). -/
def Vdi.exchange (vi : Nat) (v : Vdi) (core q : Nat) (e : Nat × Vdi) : Nat × Vdi :=
  let cs := v.givenCores core q
  if e.1 = vi then
    (e.1, { e.2 with withheld := e.2.withheld.filter (fun k => !(cs.map (fun c => quadKey c q)).contains k.1),
                     quads := (List.range 4).filter (fun k => decide (k = q) || e.2.quads.contains k) })
  else if cs.any (fun c => e.2.hasQuad c q) then
    (e.1, { e.2 with withheld := e.2.withheld.filter (fun k => k.1 % 4 ≠ q), quads := e.2.quads.filter (fun k => k ≠ q) })
  else e

/-- The requester gives a quadrant out to a partition (R405, R406): it is zeroed, with its stagehands' images, and the placer of that
partition may use it. -/
def State.giveQuad (s : State) (vi : Nat) (v : Vdi) (core q : Nat) : State :=
  let load (x : State) (u : UnitId) : State :=
    x.onHand u (fun h => { h with instrs := h.instrs.putBytes 0 v.img.stagehandCode, data := h.data.putBytes 0 v.img.stagehandData })
  let s1 := (v.givenCores core q).foldl (fun (x : State) c => load (load (x.zeroQuad c q) (.rigger c q)) (.striker c q)) s
  { s1 with vdis := s1.vdis.map (Vdi.exchange vi v core q) }

/-- Whether a quadrant set is one that a partition may have (R286); none, while all of its quadrants have been given out (R406). -/
def setLegal (qs : List Nat) : Bool := decide (qs = []) || quadSets.contains qs

/-- Whether a quadrant may be given to a partition (R286, R406): it lies on a core of the partition's rectangle and holds no troupe,
and it is the partition's own; or the set that the partition then has is legal, no core of it holds a troupe there, and each
partition that has the quadrant on one of those cores keeps a legal set, has no troupe on it and has it withheld everywhere. -/
def State.mayGive (s : State) (vi : Nat) (v : Vdi) (core q : Nat) : Bool :=
  v.hasCore core && decide (q < 4) && (v.givenCores core q).all (fun c => (s.troupeAt c q).isNone) &&
    (v.quads.contains q ||
      (setLegal ((List.range 4).filter (fun k => decide (k = q) || v.quads.contains k)) &&
        s.vdis.all (fun (e : Nat × Vdi) => decide (e.1 = vi) || !(v.givenCores core q).any (fun c => e.2.hasQuad c q) ||
          (setLegal (e.2.quads.filter (fun k => k ≠ q)) &&
            e.2.cores.all (fun c => (s.troupeAt c q).isNone && e.2.withheld.any (fun k => decide (k.1 = quadKey c q)))))))

/-- A quadrant is added to a partition (R405, R406). -/
def execPartitionAddQuadrant (s : State) : Result :=
  match s.vdis.find s.ev.a with
  | none => .next s
  | some v => .next (if s.mayGive s.ev.a v s.ev.b s.ev.c then s.giveQuad s.ev.a v s.ev.b s.ev.c else s)

/-! ### The choice of a response (R288, R289) -/

/-- The three responses, in the order that settles ties. -/
inductive Response where
  | drain | save | flush
  deriving DecidableEq, Repr

/-- A response with its latency and cost estimates. -/
structure Estimate where
  response : Response
  latency : Nat
  cost : Nat
  deriving DecidableEq, Repr

/-- The troupes of a point. -/
def State.members (s : State) (p : Point) : List Troupe := p.members.filterMap (fun k => s.troupes.find k)

/-- Save latency of a member (R288). -/
def State.saveLatency (s : State) (t : Troupe) : Nat :=
  12288 + 64 * (t.casts.map (fun u => s.counter u .g + s.counter u .a + s.counter u .t)).sum

/-- Flush cost of a member: the age of its oldest scene, or of its placement. -/
def State.flushCost (s : State) (p : Point) (t : Troupe) : Nat :=
  let at_ := t.casts.map (fun u => (s.ctxs.find u).bind (fun (c : Ctx) => c.sceneAt))
  if at_.any (fun x => x.isNone) then s.cycle - p.placedAt else s.cycle - (at_.filterMap id).foldl min s.cycle

/-- The drain latency (R288). -/
def State.drainLatency (s : State) (p : Point) : Nat :=
  match (s.nests.find p.slot).bind (fun (n : Nest) => n.dur) with
  | some d => d - (s.cycle - p.placedAt)
  | none => 2 ^ 32 - 1

/-- Whether a save area of a quadrant holds the state of a point that has not been restored. -/
def State.areaHeld (s : State) (vi gpa : Nat) : Bool :=
  s.nests.any (fun (e : Nat × Nest) => decide (e.2.vdi = vi) && e.2.saved.any (fun (sp : SavedPoint) => sp.areas.any (fun (a : Nat × Nat × Nat) => decide (a.2.2 = gpa))))

/-- Whether the partition has a save area for every member (R290). -/
def State.hasAreas (s : State) (p : Point) : Bool :=
  match s.vdis.find p.vdi with
  | none => false
  | some v => (s.members p).all (fun t => t.quads.all (fun q => v.quads.contains q && !s.areaHeld p.vdi (areaAt v t.core q)))

/-- The estimates of the responses that the device may take. -/
def State.estimates (s : State) (p : Point) : List Estimate :=
  let ls := (s.members p).map s.saveLatency
  [{ response := .drain, latency := s.drainLatency p, cost := 0 }] ++
    (if s.hasAreas p then [{ response := .save, latency := ls.foldl max 0, cost := (ls.map (fun l => 2 * l)).sum }] else []) ++
    [{ response := .flush, latency := 256, cost := ((s.members p).map (s.flushCost p)).sum }]

/-- The earliest estimate with the least key. -/
def leastBy (key : Estimate → Nat) : List Estimate → Option Estimate
  | [] => none
  | e :: es =>
    match leastBy key es with
    | none => some e
    | some b => if key e ≤ key b then some e else some b

/-- The response to a bound (R289). -/
def chooseResponse (l : Nat) (es : List Estimate) : Response :=
  match leastBy (fun e => e.cost) (es.filter (fun e => decide (e.latency ≤ l))) with
  | some e => e.response
  | none => ((leastBy (fun e => e.latency) es).map (fun e => e.response)).getD .flush

/-! ### Responses (R290 to R297) -/

/-- Change the phase of a point. -/
def State.setPhase (s : State) (p : Point) (f : Phase) : State := s.onPoint p.slot p.point (fun q => { q with phase := f })

/-- Step 1 of a save: no unit of the point issues again (R291). -/
def State.beginSave (s : State) (p : Point) (l at_ : Nat) : State :=
  (p.members.foldl (fun (x : State) k => x.onTroupe k (fun t => { t with stopped := true })) s).setPhase p (.saving l at_)

/-- A flush whose quadrants go to the requester (R295, R406). -/
def State.flushAway (s : State) (p : Point) : State := s.flushPoint p

/-- The requester that a request names (R288, R406). -/
def Event.requester (e : Event) : Nat := min e.c 2

/-- Take a response. Once the conditions of R56 hold, the retirement stands, whatever the response: the quadrants go to the requester
when it is recorded (R297). -/
def State.respond (s : State) (p : Point) (l at_ : Nat) (r : Response) : State :=
  match if p.retireAt.isSome then .drain else r with
  | .drain => s.setPhase p (.draining l at_)
  | .save => s.beginSave p l at_
  | .flush => s.flushAway p

/-- The placed point that an event names. -/
def State.evPoint (s : State) : Option Point := s.points.find? (fun p => decide (p.slot = s.ev.a) && decide (p.point = s.ev.point))

/-- A pre-emption request for the troupes of a point (R288, R297), by a requester. When a second request replaces a drain by a fresh
choice, the spec does not say to which of the two requesters the quadrants then go: the model keeps the first (log entry 34). -/
def execPreemptRequest (s0 : State) : Result :=
  match s0.evPoint with
  | none => .next s0
  | some p0 =>
    let started := match p0.phase with | .draining _ _ => true | .saving _ _ => true | .suspended => true | _ => false
    let p : Point := if started then p0 else { p0 with asked := some s0.ev.requester }
    let s := if started then s0 else s0.onPoint p.slot p.point (fun q => { q with asked := some s0.ev.requester })
    let l := s.ev.b
    let fresh := (s.respond p l s.cycle (chooseResponse l (s.estimates p))).count p.vdi 7 1
    if l = 0 ∨ 2 ^ 32 ≤ l then .next s0
    else if (s.members p).any (fun t => t.quads.any (fun q => s.stopped.contains (quadKey t.core q))) then .next (s.later s.ev)
    else
      match p.phase with
      | .starting => .next fresh
      | .running => .next fresh
      | .halted _ _ _ => .next ((s.flushAway p).count p.vdi 7 1)
      | .trapped _ _ _ _ => .next ((s.flushAway p).count p.vdi 7 1)
      | .draining _ _ => .next (if s.drainLatency p ≤ l then s else fresh)
      | .saving _ _ => .next s
      | .suspended => .next s

/-- Whether the clock of a quadrant of the point is stopped (R332). -/
def State.pointStopped (s : State) (p : Point) : Bool := (s.members p).any (fun t => t.quads.any (fun q => s.stopped.contains (quadKey t.core q)))

/-- A drain that has not ended after 2 × L cycles (R290); a point whose retirement is due has ended in time (R297), and a stopped
quadrant keeps its state until its clock restarts (R332). -/
def execDrainTimeout (s : State) : Result :=
  match s.evPoint with
  | none => .next s
  | some p =>
    match p.phase with
    | .draining l at_ =>
      if s.cycle < at_ + 2 * l ∨ p.retireAt.isSome ∨ s.pointStopped p then .next s
      else .next (if s.hasAreas p then s.beginSave p l at_ else s.flushAway p)
    | _ => .next s

/-! ### Saving (R291, R363) -/

/-- Whether a held word may be executed again after a restore, or keeps its wait: anything but a word that an engine has
yet to answer. -/
def Held.restartable (h : Held) : Bool :=
  !h.asleep || (match h.instr with | .semwait _ _ => true | .barWait _ => true | .cueBar _ => true | _ => false)

/-- Whether step 2 of a save is done for a troupe (R291). -/
def State.quietTroupe (s : State) (t : Troupe) : Bool :=
  t.mx.ops.all (fun o => o.done) &&
    t.hands.all (fun u => decide (s.counter u .copy = 0) &&
      ((s.hands.find u).map (fun (h : Hand) => !h.asleep || (match h.held with | some (.xsemWait _ _) => true | _ => false))).getD true) &&
    (t.cue :: t.casts).all (fun u =>
      decide (s.counter u .g = 0) && decide (s.counter u .a = 0) && decide (s.counter u .t = 0) && decide (s.counter u .fetch = 0) &&
        (match s.ctxs.find u with
         | none => true
         | some c => (c.a :: c.b :: c.spilled.map (fun (e : Nat × Path) => e.2)).all (fun (p : Path) =>
             p.holders.all Held.restartable)))

/-- Whether step 2 of a save is done (R291), and the clocks of the quadrants that it reads run (R332). -/
def State.saveReady (s : State) (p : Point) : Bool := (s.members p).all s.quietTroupe && !s.pointStopped p

/-- What the model keeps of a saved point beside its areas. -/
def State.savedPoint (s : State) (p : Point) (v : Vdi) : SavedPoint :=
  let ts := s.members p
  { point := p.point, resume := p.resume,
    areas := ts.flatMap (fun t => (List.range t.quads.length).map (fun r => (t.member, r, areaAt v t.core (t.quads.getD r 0)))),
    troupes := ts,
    ctxs := ts.flatMap (fun t => (t.cue :: t.casts).filterMap (fun u => (s.ctxs.find u).map (fun (c : Ctx) => (u, c)))),
    hands := ts.flatMap (fun t => t.hands.filterMap (fun u => (s.hands.find u).map (fun (h : Hand) => (u, h)))),
    posts := s.fars.filter (fun f => decide (f.cls = .x) && ts.any (fun t => t.casts.contains f.unit)),
    stamp := s.stamp, image := [] }

/-- Write the areas of a point with VALID clear, then set VALID in each (R292). -/
def State.writeAreas (s : State) (v : Vdi) (slot : Nat) (ts : List Troupe) : State × Option SaveFault :=
  let ranks := ts.flatMap (fun t => (List.range t.quads.length).map (fun r => (t, r)))
  let tsave := s.timeOf v
  let handle := s.handleOf slot
  let one (x : State × Option SaveFault) (e : Troupe × Nat) : State × Option SaveFault :=
    match x.2 with
    | some _ => x
    | none =>
      let q := e.1.quads.getD e.2 0
      let gpa := areaAt v e.1.core q
      let m := areaMemory (headerPiece handle e.1 e.2 false tsave :: x.1.areaPieces e.1 e.2) x.1.scratch (devScratch e.1.core q 0)
      match x.1.writeArea v gpa m areaPages with
      | (y, some f) => (y, some f)
      | (y, none) => (y.poisonArea v gpa (s.areaPoison e.1 e.2), none)
  let r := ranks.foldl one (s, none)
  match r.2 with
  | some _ => r
  | none =>
    (ranks.foldl (fun (x : State) (e : Troupe × Nat) =>
      match x.writeGuest v (areaAt v e.1.core (e.1.quads.getD e.2 0)) ((headerPiece handle e.1 e.2 true tsave).2.take 8) with
      | .ok y => y
      | .error _ => x) r.1, none)

/-- A spilled path whose word is executed again after a restore stands at that word in its stack entry (R78, R87). -/
def State.settleStacks (s : State) (ts : List Troupe) : State :=
  (ts.flatMap (fun (t : Troupe) => t.casts)).foldl (fun (x : State) u =>
    match x.ctxs.find u with
    | none => x
    | some c => c.spilled.foldl (fun (y : State) (e : Nat × Path) =>
        if e.2.held.isSome ∧ e.2.settle.held = none then y.setStack u e.1 { y.stack u e.1 with pc := e.2.settle.pc } else y) x) s

/-- The points of a tenant are no longer held once no save and no restore of it is suspended (R363, R365). -/
def State.endHold (s : State) (vi : Nat) : State :=
  let busy := s.points.any (fun q => decide (q.vdi = vi) && decide (q.phase = .suspended)) ||
    s.nests.any (fun (n : Nat × Nest) => decide (n.2.vdi = vi) && n.2.saved.any (fun (sp : SavedPoint) => sp.suspended))
  s.onVdi vi (fun x => { x with saveHold := x.saveHold && busy })

/-- Steps 3 and 4 of a save (R291): the areas are written, the quadrants become free, and the point waits to be restored. -/
def State.completeSave (s : State) (p : Point) : State :=
  match s.vdis.find p.vdi with
  | none => s
  | some v =>
    let s1 := ((s.members p).foldl (fun (x : State) t => x.drainWhere t (fun _ => true)) s).settleStacks (s.members p)
    match s1.writeAreas v p.slot (s1.members p) with
    | (s2, some f) => s2.soon { kind := .saveWriteFault, a := p.slot, point := p.point, b := f.cause.code, c := f.gpa }
    | (s2, none) =>
      let sp := s1.savedPoint p v
      let s3 := ((s2.removePoint p).onNest p.slot (fun n => { n with saved := n.saved ++ [sp] })).nestStopCheck p.slot
      (s3.endHold p.vdi).later { kind := .restorePoint, a := p.slot, point := p.point }

/-- A save whose step 2 is done is written (R291). -/
def execSaveComplete (s : State) : Result :=
  match s.evPoint with
  | none => .next s
  | some p =>
    match p.phase with
    | .saving _ _ => .next (if s.saveReady p then s.completeSave p else s)
    | _ => .next s

/-- The save fault record of a quadrant of rank 0 (R364). -/
def State.saveFaultRecord (s : State) (v : Vdi) (vi slot core q : Nat) (cause : Cause) (gpa : Nat) : State :=
  s.faultLog vi
    { w0 := faultWord 8 cause.code (s.handleOf slot) (v.coreNumber core) q 15,
      pos := BitVec.ofNat 64 ((gpa - v.img.saveBase) % 0x200000), info := BitVec.ofNat 64 gpa, dt := s.dt }

/-- A save fault record (R364). -/
def State.saveRecord (s : State) (p : Point) (cause : Cause) (gpa : Nat) : State :=
  match s.vdis.find p.vdi with
  | none => s
  | some v =>
    let ts := s.members p
    let inArea (t : Troupe) (q : Nat) : Bool := decide (areaAt v t.core q ≤ gpa) && decide (gpa < areaAt v t.core q + 0x200000)
    let t := (ts.find? (fun t => t.quads.any (inArea t))).getD (ts.headD (Troupe.create 0 [0] 0 0 0 [] 0))
    s.saveFaultRecord v p.vdi p.slot t.core (t.quads.headD 0) cause gpa

/-- A partition fault holds every point of the partition (R363). -/
def State.faultPartition (s : State) (vi : Nat) : State := (s.endHold vi).onVdi vi (fun x => { x with partFault := true })

/-- A partition fault of a save (R363). -/
def State.partitionFault (s : State) (p : Point) (cause : Cause) (gpa : Nat) : State :=
  ((s.saveRecord p cause gpa).flushAway p).faultPartition p.vdi

/-- A write of the save engine faults (R363): an invalid stage-2 entry suspends the save while Proscenium repairs it or reports
that it cannot; any other fault is a partition fault. -/
def execSaveWriteFault (s : State) : Result :=
  match s.evPoint with
  | none => .next s
  | some p =>
    let go : State :=
      if s.ev.b = Cause.stage2Fault.code then
        let s1 := ((s.setPhase p .suspended).onVdi p.vdi (fun x => { x with saveHold := true }))
        let e : Event := { kind := if Config.pick s1.fresh % 2 = 0 then .saveRetry else .stage2CannotRepair, a := p.slot, point := p.point, c := s.ev.c }
        { s1 with fresh := s1.fresh + 1 }.later e
      else s.partitionFault p (if s.ev.b = Cause.poisoned.code then .poisoned else .protFault) s.ev.c
    match p.phase with
    | .saving _ _ => .next go
    | .suspended => .next go
    | _ => .next s

/-- Proscenium has repaired stage 2, and the write is retried (R363). -/
def execSaveRetry (s : State) : Result :=
  match s.evPoint with
  | none => .next s
  | some p =>
    match s.vdis.find p.vdi with
    | none => .next s
    | some v => .next (if p.phase = .suspended then (s.repair2 s.ev.c levels (frameOf v.hptr.toNat)).completeSave p else s)


/-- Proscenium clears a partition fault (R363). -/
def execPartitionFaultClear (s : State) : Result := .next (s.onVdi s.ev.a (fun x => { x with partFault := false }))

/-- An uncorrectable error met while a troupe's state is read aborts its save, which ends with it (R363, R364). -/
def State.abortSave (s : State) (p : Point) (core q off : Nat) : State :=
  match s.vdis.find p.vdi with
  | none => s
  | some v => ((s.saveRecord p .uncorrectableECC (areaAt v core q + off)).flushAway p).endHold p.vdi

/-! ### Restoring (R294, R298, R365) -/

/-- The unit of the new troupe that takes the place of a unit of the old one: the same rank and number (R26). -/
def moveUnit (a b : Troupe) (u : UnitId) : UnitId :=
  let q (k : Nat) : Nat := b.quads.getD ((a.quads.findIdx? (fun x => decide (x = k))).getD 0) 0
  match u with
  | .cast _ k l => .cast b.core (q k) l
  | .cue _ _ => b.cue
  | .rigger _ k => .rigger b.core (q k)
  | .striker _ k => .striker b.core (q k)
  | .board v k => .board v k

/-- The registers of a restored unit (R87, R338): translation registers are translated afresh. -/
def restoredCtx (a b : Troupe) (c : Ctx) : Ctx :=
  { c with ordinal := c.ordinal - c.postsAgain, tx := c.tx.map (fun (t : Tx) => { t with limit := 0 }), a := c.a.settle, b := c.b.settle,
           spilled := c.spilled.map (fun (e : Nat × Path) => (e.1, e.2.settle)),
           parked := c.parked.map (fun (k : Park) => { k with op := { k.op with unit := moveUnit a b k.op.unit } }) }

/-- A stagehand's registers and data store, beside the instruction store that it has. -/
def restoredHand (h k : Hand) : Hand :=
  { k with instrs := h.instrs, started := false, held := none, asleep := false, readyAt := 0 }

/-- The posts that a member's cnt.x counts come back with it, but for those that have ended since (R291, R315). -/
def State.installPosts (s : State) (sp : SavedPoint) (o t : Troupe) : State :=
  let mine := (sp.posts.filter (fun f => o.casts.contains f.unit)).map (fun (f : FarOp) =>
    { f with unit := moveUnit o t f.unit, done := f.done || sp.freed.contains f.id })
  { s with fars := leaveInOrder (s.fars ++ mine) [] }

/-- Install what the model kept of a member (R294). -/
def State.installKept (s : State) (sp : SavedPoint) (o t : Troupe) (k : Nat) : State :=
  let mv (u : UnitId) : UnitId := moveUnit o t u
  let arr (e : Nat × Arrivals) : Nat × Arrivals := (e.1, e.2.map mv)
  let s1 := (sp.ctxs.filter (fun (e : UnitId × Ctx) => o.units.contains e.1)).foldl
    (fun (x : State) (e : UnitId × Ctx) => x.setCtx (mv e.1) (restoredCtx o t e.2)) s
  let s2 := (sp.hands.filter (fun (e : UnitId × Hand) => o.units.contains e.1)).foldl
    (fun (x : State) (e : UnitId × Hand) => x.onHand (mv e.1) (fun h => restoredHand h e.2)) s1
  (s2.installPosts sp o t).onTroupe k (fun y =>
    { y with rings := o.rings, bars := o.bars.map arr, cues := o.cues.map arr, mx := o.mx,
             waits := o.waits.map (fun (w : Bool × UnitId × Nat × Nat) => (w.1, mv w.2.1, w.2.2.1, w.2.2.2)) })

/-- The words that the reserved part of an area holds. -/
def State.areaWords (s : State) (v : Vdi) (gpa : Nat) : List Nat :=
  let n := min (leNat (s.readArea v (gpa + 0x1E1000) 8)) 0x3DFF
  let bs := s.readArea v (gpa + 0x1E1008) (8 * n)
  (List.range n).map (fun k => dwordAt bs (8 * k))

/-- Install a member from the bytes of its areas alone (R292 to R294). Issue orders count on from those of this module. -/
def State.installBytes (s : State) (v : Vdi) (t : Troupe) (k : Nat) (gpa : Nat → Nat) : State :=
  let hdr := s.readArea v (gpa 0) 0x580
  let base := s.stamp
  let rankOf (i j : Nat) : Nat :=
    (t.quads.findIdx? (fun q => decide (subArray t q = (i / 64 * 64, j / 64 * 64)))).getD 0
  let area (i j off n : Nat) : Nat := leNat (s.readArea v (gpa (rankOf i j) + off) n)
  let one (x : State) (r : Nat) : State :=
    let q := t.quads.getD r 0
    let xs := s.areaWords v (gpa r)
    let cast (y : State × List Nat) (l : Nat) : State × List Nat :=
      let u := UnitId.cast t.core q l
      let bs := s.readArea v (gpa r + 0x1000 + 0x4000 * l) 0x4000
      let (c, rest) := (castFrom bs).complete s.cycle base u y.2
      (y.1.onCtx u (fun old => { c.withRecords bs with scseq := old.scseq }), rest)
    let hand (y : State × List Nat) (off : Nat) (u : UnitId) : State × List Nat :=
      (y.1.onHand u (fun h => ((handFrom (s.readArea v (gpa r + off) 0x6000) h).complete y.2).1), y.2.drop 3)
    let (x1, rest) := hand (hand ((List.range 4).foldl cast ({ x with stamp := max x.stamp (base + xs.headD 0) }, xs.tail)) 0x1D5000 (.rigger t.core q))
      0x1DB000 (.striker t.core q)
    if r = 0 then
      let c0 := cueFrom hdr ((x1.ctxs.find t.cue).getD Ctx.zero)
      let (c1, rest1) := c0.complete s.cycle base t.cue rest
      let (t1, rest2) := t.complete base rest1
      (x1.setCtx t.cue c1).onTroupe k (fun y => { y with rings := t1.rings, bars := t1.bars, cues := t1.cues, waits := t1.waits, mx := matrixFrom t.shape hdr rest2 area })
    else x1
  (List.range t.quads.length).foldl one s

/-- Install a member of a restored point (R294): its scratchpad from its areas; its other state as the model kept it, when
the areas still hold just that, and from the areas' bytes otherwise. -/
def State.installMember (s : State) (v : Vdi) (sp : SavedPoint) (t : Troupe) (k : Nat) (areas : List (Nat × Nat × Nat)) : State :=
  let gpa (r : Nat) : Nat := ((areas.find? (fun (a : Nat × Nat × Nat) => decide (a.1 = t.member ∧ a.2.1 = r))).map (fun (a : Nat × Nat × Nat) => a.2.2)).getD 0
  let ranks := List.range t.quads.length
  let s1 := ranks.foldl (fun (x : State) r =>
    let base := devScratch t.core (t.quads.getD r 0) 0
    { x with scratch := (x.scratch.clear base (2 ^ 20)).putBytes base (s.readArea v (gpa r + 0x11000) (2 ^ 20)),
             scratchPoison := x.scratchPoison.filter (fun w => !(decide (base ≤ 4 * w) && decide (4 * w < base + 2 ^ 20))) }) s
  let kept : State := { s with ctxs := sp.ctxs, hands := sp.hands, fars := sp.posts, stamp := sp.stamp }
  match sp.troupes.find? (fun o => decide (o.member = t.member)) with
  | none => s1.installBytes v t k gpa
  | some o =>
    if ranks.all (fun r => (kept.areaPieces o r).all (fun p => s.readArea v (gpa r + p.1) p.2.length = p.2)) then s1.installKept sp o t k
    else (s1.installBytes v t k gpa).installPosts sp o t

/-- The first page of the areas that stage 2 does not translate. -/
def State.unmappedPage (s : State) (v : Vdi) (gpas : List Nat) : Option SaveFault :=
  gpas.findSome? (fun g => areaPages.findSome? (fun k =>
    match s.stage2 v (g + 4096 * k) with
    | .ok l => if l.r && s.backed (l.apply (g + 4096 * k)) then none else some { gpa := g + 4096 * k, cause := .protFault }
    | .error e => some { gpa := g + 4096 * k, cause := e.cause }))

/-- TOFF rises so that the tenant's time does not fall (R298). -/
def State.raiseToff (s : State) (vi : Nat) (v : Vdi) (tsave : Nat) : State :=
  let t := (s.timeOf v).toNat
  if t < tsave then s.onVdi vi (fun x => { x with toff := x.toff + BitVec.ofNat 64 (tsave - t) }) else s

/-- A restore is abandoned (R365): the point is released again from its last scenes. -/
def State.abandonRestore (s : State) (slot : Nat) (sp : SavedPoint) : State :=
  s.onNest slot (fun n => { n with saved := n.saved.filter (fun x => x.point ≠ sp.point), flushed := n.flushed ++ [(sp.point, sp.resume)] })

/-- A restore meets an invalid stage-2 entry: it is suspended as a save is, while Proscenium repairs the entry or reports that it
cannot, and the tenant's points are held (R363, R365). -/
def State.suspendRestore (s : State) (v : Vdi) (slot : Nat) (sp : SavedPoint) (gpa : Nat) : State :=
  let s1 := (s.onNest slot (fun n => { n with saved := n.saved.map (fun x => if x.point = sp.point then { x with suspended := true } else x) }))
  let s2 : State := { s1 with fresh := s1.fresh + 1 }
  let s3 := match s2.nests.find slot with | some n => s2.onVdi n.vdi (fun x => { x with saveHold := true }) | none => s2
  if Config.repairs s.fresh then (s3.repair2 gpa levels (frameOf v.hptr.toNat)).later { kind := .restorePoint, a := slot, point := sp.point }
  else s3.later { kind := .stage2CannotRepair, a := slot, point := sp.point, c := gpa }

/-- The restore of a suspended point that cannot be repaired is a partition fault (R363, R365): the point is released again from its
last scenes. -/
def State.failRestore (s : State) (slot : Nat) (sp : SavedPoint) (gpa : Nat) : State :=
  match s.nests.find slot with
  | none => s
  | some n =>
    match s.vdis.find n.vdi with
    | none => s
    | some v =>
      let t := sp.troupes.headD (Troupe.create 0 [0] 0 0 0 [] 0)
      ((s.saveFaultRecord v n.vdi slot t.core (t.quads.headD 0) .stage2Fault gpa).abandonRestore slot sp).faultPartition n.vdi

/-- Proscenium cannot repair the entry behind a suspended save or restore (R363, R365). -/
def execStage2CannotRepair (s : State) : Result :=
  match s.evPoint with
  | some p => .next (if p.phase = .suspended then s.partitionFault p .stage2Fault s.ev.c else s)
  | none =>
    match (s.nests.find s.ev.a).bind (fun (n : Nest) => n.saved.find? (fun x => x.suspended && decide (x.point = s.ev.point))) with
    | none => .next s
    | some sp => .next (s.failRestore s.ev.a sp s.ev.c)

/-- Install a saved point at a position (R285, R294, R298). -/
def State.installPoint (s : State) (v : Vdi) (slot : Nat) (n : Nest) (sp : SavedPoint) (areas : List (Nat × Nat × Nat))
    (pos : Nat × List Nat × List Nat) : State :=
  let gpas := areas.map (fun (a : Nat × Nat × Nat) => a.2.2)
  let tsave := (gpas.map (fun g => leNat (s.readArea v (g + 0x28) 8))).foldl max 0
  let s1 := (s.onNest slot (fun m => { m with saved := m.saved.filter (fun x => x.point ≠ sp.point) })).startPoint v slot n sp.point sp.resume false pos
  let keys := ((s1.points.find? (fun p => decide (p.slot = slot ∧ p.point = sp.point))).map (fun (p : Point) => p.members)).getD []
  let s2 := keys.foldl (fun (x : State) k =>
    match x.troupes.find k with | some t => x.installMember v sp t k areas | none => x) s1
  (s2.raiseToff n.vdi v tsave).onPoint slot sp.point (fun p => { p with valid := gpas })

/-- The save areas of the quadrants of a position, by member and rank. -/
def positionAreas (v : Vdi) (pos : Nat × List Nat × List Nat) : List (Nat × Nat × Nat) :=
  (List.range pos.2.1.length).flatMap (fun j => (List.range pos.2.2.length).map (fun r =>
    (j, r, areaAt v (pos.2.1.getD j 0) (pos.2.2.getD r 0))))

/-- Write an image's areas to the areas of a position, with the new handle (R328). -/
def State.writeImage (s : State) (v : Vdi) (slot : Nat) (sp : SavedPoint) (areas : List (Nat × Nat × Nat)) : State × Option SaveFault :=
  let h := s.handleOf slot
  areas.foldl (fun (x : State × Option SaveFault) (a : Nat × Nat × Nat) =>
    match x.2 with
    | some _ => x
    | none =>
      let bs := ((sp.image.find? (fun (e : Nat × Nat × List Byte) => decide (e.1 = a.1 ∧ e.2.1 = a.2.1))).map (fun (e : Nat × Nat × List Byte) => e.2.2)).getD []
      let m := (Memory.putBytes [] 0 bs).putBytes 2 (leBytes 2 h.toNat)
      x.1.writeArea v a.2.2 m areaPages) (s, none)

/-- A saved point is restored as soon as a position is free (R294, R365). -/
def execRestorePoint (s : State) : Result :=
  let slot := s.ev.a
  let again := s.later s.ev
  match s.nests.find slot with
  | none => .next s
  | some n =>
    match n.saved.find? (fun x => decide (x.point = s.ev.point)), s.vdis.find n.vdi with
    | some sp, some v =>
      let held := ({ v with saveHold := v.saveHold && !sp.suspended } : Vdi).held
      if n.stopped then .next s
      else if held then .next again
      else
        match s.choosePosition v (nShape n.record) (nGang n.record) with
        | none => .next again
        | some pos =>
          let areas := if sp.image = [] then sp.areas else positionAreas v pos
          let gpas := areas.map (fun (a : Nat × Nat × Nat) => a.2.2)
          if sp.image ≠ [] ∧ gpas.any (s.areaHeld n.vdi) then .next again
          else
            match s.unmappedPage v gpas with
            | some f =>
              .next (if f.cause = .stage2Fault then s.suspendRestore v slot sp f.gpa else (s.abandonRestore slot sp).endHold n.vdi)
            | none =>
              match (if sp.image = [] then (s, none) else s.writeImage v slot sp areas) with
              | (s1, some _) => .next ((s1.abandonRestore slot sp).endHold n.vdi)
              | (s1, none) =>
                if gpas.any (fun g => s1.areaPoisoned v g || decide (leNat (s1.readArea v g 8) % 2 = 0)) then
                  .next ((s1.abandonRestore slot sp).endHold n.vdi)
                else .next ((s1.installPoint v slot n sp areas pos).endHold n.vdi)
    | _, _ => .next s

/-- The first issue of a restored point clears VALID in its save areas (R294). -/
def State.clearValid (s : State) (u : UnitId) : State :=
  match (s.troupeOf u).bind (fun (t : Nat × Troupe) => s.pointOf t.2) with
  | none => s
  | some p =>
    if p.valid = [] then s
    else
      match s.vdis.find p.vdi with
      | none => s
      | some v =>
        (p.valid.foldl (fun (x : State) g =>
          match x.readGuest v g 1 with
          | .error _ => x
          | .ok bs => match x.writeGuest v g [bs.headD 0 &&& 0xFE#8] with | .ok y => y | .error _ => x) s).onPoint p.slot p.point
          (fun q => { q with valid := [] })

/-! ### Budgets and the watchdog (R301, R302, R406) -/

/-- Placed quadrants of an interface. -/
def State.placedQuads (s : State) (vi : Nat) : Nat :=
  (s.troupes.map (fun (e : Nat × Troupe) => if e.2.vdi = vi then e.2.quads.length else 0)).sum

/-- A microsecond passes: each placed quadrant takes 1 from its tenant's time budget, and the energy counted in it comes off
the energy budget (R301). -/
def execBudgetTick (s : State) : Result :=
  .next { s with vdis := s.vdis.map (fun (e : Nat × Vdi) =>
    (e.1, { e.2 with timeBudget := e.2.timeBudget - (s.placedQuads e.1 : Int),
                     energyBudget := e.2.energyBudget - ((e.2.energy - e.2.charged : Nat) : Int), charged := e.2.energy })) }

/-- The watchdog of a point expires (R302, R350). -/
def execWatchdogExpire (s : State) : Result :=
  match s.evPoint with
  | none => .next s
  | some p =>
    let lim := 65536 * ((s.vdis.find p.vdi).map (fun (v : Vdi) => v.wdlim)).getD 0
    let t := (s.members p).headD (Troupe.create 0 [0] 0 0 0 [] 0)
    .next (if lim = 0 ∨ p.watch < lim then s
           else s.stopPoint p 4 .watchdog t.core (t.quads.headD 0) 15 0 (BitVec.ofNat 64 p.watch))

/-- A slice starts: its tenant's budgets are raised (R301), and the time-slicer gives the tenant the quadrants that it had reclaimed,
its own and those of other partitions that it may receive (R406). -/
def execSliceStart (s : State) : Result :=
  if s.ev.time < 0 ∨ s.ev.energy < 0 then .next s
  else
    match s.vdis.find s.ev.a with
    | none => .next s
    | some _ =>
      let keys := s.vdis.flatMap (fun (e : Nat × Vdi) => if e.1 = s.ev.a then [] else
        (e.2.withheld.filter (fun k => decide (k.2 = 0))).map (fun k => k.1))
      let s1 := s.onVdi s.ev.a (fun x =>
        { x with timeBudget := x.timeBudget + s.ev.time, energyBudget := x.energyBudget + s.ev.energy, withheld := x.withheld.filter (fun k => k.2 ≠ 0) })
      let give (x : State) (k : Nat) : State :=
        match x.vdis.find s.ev.a with
        | some y => if !y.quads.contains (k % 4) && x.mayGive s.ev.a y (k / 4) (k % 4) then x.giveQuad s.ev.a y (k / 4) (k % 4) else x
        | none => x
      .next (keys.foldl give s1)

end Sys2Proof.Machine
end

