-- ==== Sys2Proof/Machine/Secure.lean ====
section
/-! DEFINITION. The secure element: boot and measurement (R319, R320, R378, R379), identity (R321), SPDM (R322), sealing and
restoring images (R324 to R328, R336, R337, R376, R377). -/

namespace Sys2Proof.Machine

/-! ### Boot (R319, R320, R378, R379) -/

/-- A derived P-384 private scalar (R321). -/
def derivedScalar (salt : List Byte) (info : String) : Nat :=
  1 + beNat (hkdf salt Config.fusedSeed (ascii info) 72) % (p384Order - 1)

/-- The device identity key (R321). -/
def identityKey : Nat := derivedScalar (List.replicate 48 0#8) "GD8 identity key"

/-- The `n`-th ephemeral private scalar (R322, R325): any scalar of the group. -/
def ephemeralKey (n : Nat) : Nat := 1 + Config.ephemeral n % (p384Order - 1)

/-- A signature of the identity key (R321, R322). -/
def identitySign (m : List Byte) : List Byte := ecdsaSign identityKey (1 + Config.signNonce m % (p384Order - 1)) m

/-- SHA-384 of a public key in uncompressed form (R321). -/
def keyDigest (public_ : List Byte) : List Byte := sha384 (0x04#8 :: public_)

/-- Extend a measurement register (R320). -/
def extend (meas : List (List Byte)) (n : Nat) (d : List Byte) : List (List Byte) :=
  meas.set n (sha384 (meas.getD n [] ++ d))

/-- The measurement registers once the fused digest of the boot ROM has been measured (R320). -/
def measuredRom : List (List Byte) := extend (List.replicate 8 (List.replicate 48 0#8)) 0 (beBytes 48 Config.bootRomDigest.toNat)

/-- The firmware measurement (R320). -/
def Secure.fwm (x : Secure) : List Byte := sha384 ((x.meas.take 7).flatten)

/-- The length of the image's header, of up to 4 KiB (R319). -/
def Flash.headerLength (f : Flash) : Nat := min (Config.headerLength (f.mem.bytes 0 4096)) 4096

/-- The header of the firmware image (R319). -/
def Flash.header (f : Flash) : List Byte := f.mem.bytes 0 f.headerLength

/-- The certificate chain of the identity key, which stands in flash (R321). -/
def Flash.certificates (f : Flash) : List Byte := f.mem.bytes Config.certificatePlace.1 Config.certificatePlace.2

/-- The result of the image check (R319, R378): 0 valid, 1 bad signature, 2 bad component digest. The signature, r then s, follows
the header. -/
def Flash.check (f : Flash) : Nat :=
  let header := f.header
  if keyDigest Config.goruthKey ≠ beBytes 48 Config.goruthKeyDigest.toNat ∨ !ecdsaVerify Config.goruthKey header (f.mem.bytes f.headerLength 96) then 1
  else if (List.range (Config.componentCount header)).all (fun k =>
      let c := Config.componentEntry header k
      decide (sha384 (f.mem.bytes c.1 c.2.1) = beBytes 48 c.2.2.toNat)) then 0
  else 2

/-- The measurement registers after step 3 and Proscenium's configuration (R320): components are measured in the order of
their registers. -/
def measured (f : Flash) : List (List Byte) :=
  let comp (k : Nat) : List Byte := beBytes 48 (Config.componentEntry f.header k).2.2.toNat
  let m1 := extend measuredRom 1 (sha384 f.header)
  let m5 := (List.range 4).foldl (fun m k => extend m (2 + k) (comp k)) m1
  extend m5 6 (sha384 Config.bootConfiguration)

/-- The module as a reset leaves it before the boot ROM runs: what is not reset is the flash, the count of failed boots, the clocks
that the power managers stop and skip, for the heat stays, the memory attached to the module and the world outside; device time
starts again (R255, R332, R333, R378, R379). -/
def State.afterReset (s : State) : State :=
  { State.reset with
    cycle := s.cycle, fresh := s.fresh, stamp := s.stamp, inputs := s.inputs, hostMem := s.hostMem, stopped := s.stopped, skipping := s.skipping,
    expanders := s.expanders, refLost := s.refLost, scheduled := true,
    flash := { State.reset.flash with mem := s.flash.mem },
    secure := { State.reset.secure with failedBoots := s.secure.failedBoots, boots := s.secure.boots, ephemerals := s.secure.ephemerals,
                                        refusals := s.secure.refusals } }

/-- Recovery mode with measurement registers as they stand (R319). -/
def State.recover (s : State) (meas : List (List Byte)) : State :=
  { s with secure := { s.secure with meas := meas, recovery := true, booted := false } }

/-- The rail of a block and its rating in amperes: those of the compute dies, then the base die's (R331). A controller stands on the
rail of its house's die. -/
def railOf (block : Nat) : Nat :=
  if block < 1024 then dieOf (block / 4) else if block < 1056 then (block - 1024) / 4 else if block < 1072 then dieOfHouse (block - 1056) else 8
/-- The peak current of a rail (R331). -/
def railPeak (rail : Nat) : Nat := if rail < 8 then 1900 else 800

/-- The current limits that Proscenium writes at boot: what it wants for each block, within what is left of its rail (R331, R332). -/
def bootLimits : Map Nat Nat :=
  (List.range 1073).foldl (fun (m : Map Nat Nat) b =>
    let used := ((m.filter (fun (e : Nat × Nat) => decide (railOf e.1 = railOf b))).map (fun (e : Nat × Nat) => e.2)).sum
    (b, min (Config.currentLimit b) (railPeak (railOf b) - used)) :: m) []

/-- The boot sequence (R319, R378): a failed image check, or the third boot in a row that does not reach step 5, leaves the
module in recovery mode. -/
def State.boot (s : State) : State :=
  let x := s.secure
  let m0 := measuredRom
  let failed : State := { s with secure := { x with failedBoots := x.failedBoots + 1, boots := x.boots + 1 } }
  if 3 ≤ x.failedBoots then s.recover m0
  else if s.flash.check ≠ 0 then failed.recover m0
  else if !Config.bootReaches x.boots then
    (if 3 ≤ x.failedBoots + 1 then failed.recover (measured s.flash)
     else { failed with secure := { failed.secure with meas := measured s.flash } }.later { kind := .moduleReset })
  else
    let y : Secure := { x with meas := measured s.flash, booted := true, failedBoots := 0, boots := x.boots + 1 }
    let k := derivedScalar y.fwm "GD8 encore key"
    { s with
      limits := bootLimits,
      secure := { y with authority := { phase := .secured, secret := Config.authoritySecret x.boots }, identity := keyDigest (p384Public identityKey), encoreKey := k, encoreSig := identitySign (p384Public k ++ y.fwm) } }

/-- Reset of the module (R319). -/
def execModuleReset (s : State) : Result := .next s.afterReset.boot

/-- Proscenium has not answered the secure element for 1 s: the module is reset into a normal boot (R379). -/
def execProsceniumTimeout (s : State) : Result := .next (if s.secure.booted then s.afterReset.boot else s)

/-- Command 5, in normal mode: the module resets into recovery mode (R379). -/
def execEnterRecovery (s : State) : Result :=
  .next (if s.secure.recovery ∨ s.ev.a ≠ 0xA5 then s
         else s.afterReset.recover measuredRom)

/-! ### Flash (R378) -/

/-- A command of the recovery window starts; with a wrong key, outside recovery mode or while one runs it is ignored. -/
def State.flashCommand (s : State) (n : Nat) : State :=
  if !s.secure.recovery ∨ s.ev.a ≠ 0xA5 ∨ s.flash.busy then s
  else { s with flash := { s.flash with cmd := BitVec.ofNat 4 n, key := 0xA5, busy := true } }.later { kind := .flashCommandComplete }

/-- FRCMD 1. -/
def execFlashErase (s : State) : Result := .next (s.flashCommand 1)
/-- FRCMD 2. -/
def execFlashProgram (s : State) : Result := .next (s.flashCommand 2)
/-- FRCMD 3. -/
def execFlashVerify (s : State) : Result := .next (s.flashCommand 3)
/-- FRCMD 4. -/
def execFlashResetModule (s : State) : Result := .next (s.flashCommand 4)

/-- A command is done (R378): an offset that is not aligned to the command's size fails. -/
def execFlashCommandComplete (s : State) : Result :=
  let f := s.flash
  let o := f.off.toNat
  let done (g : Flash) (err : Bool) : State := { s with flash := { g with busy := false, err := err } }
  if !f.busy then .next s
  else
    match f.cmd.toNat with
    | 1 =>
      .next (if o % 0x10000 ≠ 0 then done f true
             else done { f with mem := f.mem.putBytes o (List.replicate 0x10000 Config.erasedByte), verified := false } false)
    | 2 =>
      .next (if o % 256 ≠ 0 then done f true
             else done { f with mem := f.mem.putBytes o (f.buffer.bytes 0 256), verified := false } false)
    | 3 => .next (done { f with res := BitVec.ofNat 8 f.check, verified := decide (f.check = 0) } (decide (f.check ≠ 0)))
    | _ =>
      let s1 : State := if f.verified then { s with secure := { s.secure with failedBoots := 0 } } else s
      .next s1.afterReset.boot

/-! ### SPDM (R321, R322) -/

/-- An answer to an SPDM message, the connection after it, and the ephemeral keys that it took. -/
structure Answer where
  reply : List Byte
  conn : Conn
  used : Nat := 0
  deriving DecidableEq, Repr

/-- The answer to a message that is not expected: an error, and the connection stays. -/
def Conn.refuse (c : Conn) : Answer := { reply := Config.spdmResponse 16 [], conn := c }

/-- Whether the connection has its algorithms. -/
def Spdm.ready : Spdm → Bool
  | .algorithms => true
  | .exchanged => true
  | .secured => true
  | _ => false

/-- An answer that the connection gives once it has its algorithms. -/
def Conn.whenReady (c : Conn) (bs : List Byte) : Answer := if c.phase.ready then { reply := bs, conn := c } else c.refuse

/-- The nonce or key that a message brings. -/
def Event.nonce (e : Event) : List Byte := e.bytes.headD []

/-- GET_VERSION: SPDM 1.3. The connection begins anew. -/
def spdmVersion : Answer := { reply := Config.spdmResponse 0 [], conn := { phase := .version } }
/-- GET_CAPABILITIES. -/
def spdmCapabilities (c : Conn) : Answer :=
  if c.phase = .version then { reply := Config.spdmResponse 1 [], conn := { c with phase := .capabilities } } else c.refuse
/-- NEGOTIATE_ALGORITHMS: ECDSA P-384, SHA-384, secp384r1 and AES-256-GCM, and nothing else. -/
def spdmAlgorithms (c : Conn) (offered : Nat) : Answer :=
  if c.phase = .capabilities ∧ offered % 16 = 15 then { reply := Config.spdmResponse 2 [], conn := { c with phase := .algorithms } } else c.refuse
/-- GET_DIGESTS: the digest of the certificate chain. -/
def State.spdmDigests (s : State) (c : Conn) : Answer := c.whenReady (sha384 s.flash.certificates)
/-- GET_CERTIFICATE: a part of the chain. -/
def State.spdmCertificate (s : State) (c : Conn) : Answer := c.whenReady ((s.flash.certificates.drop s.ev.a).take s.ev.b)
/-- What the identity key signs, with the signature. -/
def withSignature (m : List Byte) : List Byte := m ++ identitySign m
/-- CHALLENGE: a signature with the identity key over the nonce. -/
def State.spdmChallenge (s : State) (c : Conn) : Answer := c.whenReady (withSignature (sha384 s.flash.certificates ++ s.ev.nonce))

/-- A measurement block (R322). -/
def State.measurementBlock (s : State) (k : Nat) : Option (List Byte) :=
  if 1 ≤ k ∧ k ≤ 7 then some (s.secure.meas.getD (k - 1) [])
  else if k = 16 then some (p384Public s.secure.encoreKey)
  else if k = 17 then some s.secure.fwm
  else if 32 ≤ k then (s.vdis.find (k - 32)).map (fun (v : Vdi) => v.tmeas)
  else none

/-- GET_MEASUREMENTS: a block, signed with the identity key: the attestation report. The report of the encore key also holds the
identity key's signature of it (R321). -/
def State.spdmMeasurements (s : State) (c : Conn) : Answer :=
  match s.measurementBlock s.ev.a with
  | none => c.refuse
  | some b => c.whenReady (withSignature (BitVec.ofNat 8 s.ev.a :: b ++ (if s.ev.a = 16 then s.secure.encoreSig else []) ++ s.ev.nonce))

/-- KEY_EXCHANGE: an ephemeral secp384r1 key, with the identity key's signature; the shared secret is the x-coordinate of its ECDH
with the requester's key. -/
def State.spdmKeyExchange (s : State) (c : Conn) : Answer :=
  let k := ephemeralKey s.secure.ephemerals
  match ecdhX k s.ev.nonce with
  | none => c.refuse
  | some z =>
    if c.phase = .algorithms then
      { reply := withSignature (p384Public k ++ s.ev.nonce), conn := { phase := .exchanged, secret := z, peer := s.ev.nonce }, used := 1 }
    else c.refuse

/-- FINISH: the requester's MAC opens the session. -/
def spdmFinish (c : Conn) (mac : List Byte) : Answer :=
  if c.phase = .exchanged ∧ mac = Config.finishMac c.secret c.peer then { reply := Config.spdmResponse 8 [], conn := { c with phase := .secured } }
  else c.refuse

/-- END_SESSION. -/
def spdmEnd (c : Conn) : Answer := if c.phase = .secured then { reply := Config.spdmResponse 9 [], conn := { phase := .algorithms } } else c.refuse

/-- The answer to a message, by its place among the messages of R322. -/
def State.spdmAnswer (s : State) (k : Nat) (c : Conn) : Answer :=
  match k with
  | 0 => spdmVersion
  | 1 => spdmCapabilities c
  | 2 => spdmAlgorithms c s.ev.a
  | 3 => s.spdmDigests c
  | 4 => s.spdmCertificate c
  | 5 => s.spdmChallenge c
  | 6 => s.spdmMeasurements c
  | 7 => s.spdmKeyExchange c
  | 8 => spdmFinish c s.ev.nonce
  | 9 => spdmEnd c
  | _ => c.refuse

/-- The key and the nonce of a session's message (R322). -/
def Conn.key (c : Conn) (dir n : Nat) : List Byte × List Byte :=
  let x := beBytes 44 (Config.sessionKey c.secret dir n).toNat
  (x.take 32, x.drop 32)

/-- Whether a protected message of the session holds just this message: the ciphertext, with its tag at the end (R322). -/
def Conn.opens (c : Conn) (protected_ message : List Byte) : Bool :=
  let k := c.key 0 c.received
  decide (gcmOpen k.1 k.2 [] (protected_.take (protected_.length - 16)) (protected_.drop (protected_.length - 16)) = some message)

/-- A message in a session, as AES-256-GCM protects it. -/
def Conn.protect (c : Conn) (message : List Byte) : List Byte :=
  let k := c.key 1 c.sent
  let r := gcmSeal k.1 k.2 [] message
  r.1 ++ r.2

/-- The connection of a requester. -/
def Secure.conn (x : Secure) (who : Nat) : Conn := (x.conns.find who).getD {}

/-- An SPDM message of a requester is answered (R322). GET_VERSION stands outside every session; in an open session every other
message comes protected, and so does its answer. -/
def State.spdm (s : State) (k who : Nat) : State :=
  let c := s.secure.conn who
  let put (reply : List Byte) (d : Conn) (used : Nat) : State :=
    { s with secure := { s.secure with reply := reply, conns := s.secure.conns.put who d, ephemerals := s.secure.ephemerals + used } }
  if c.phase = .secured ∧ k ≠ 0 then
    if c.opens (s.ev.bytes.getD 1 []) s.ev.nonce then
      let a := s.spdmAnswer k { c with received := c.received + 1, sent := c.sent + 1 }
      put (c.protect a.reply) a.conn a.used
    else put c.refuse.reply c 0
  else
    let a := s.spdmAnswer k c
    put a.reply a.conn a.used

/-- GET_VERSION over the host's transport (R322). -/
def execGetVersion (s : State) : Result := .next (s.spdm 0 0)
/-- GET_CAPABILITIES (R322). -/
def execGetCapabilities (s : State) : Result := .next (s.spdm 1 0)
/-- NEGOTIATE_ALGORITHMS (R322). -/
def execNegotiateAlgorithms (s : State) : Result := .next (s.spdm 2 0)
/-- GET_DIGESTS (R322). -/
def execGetDigests (s : State) : Result := .next (s.spdm 3 0)
/-- GET_CERTIFICATE (R322). -/
def execGetCertificate (s : State) : Result := .next (s.spdm 4 0)
/-- CHALLENGE (R322). -/
def execChallenge (s : State) : Result := .next (s.spdm 5 0)
/-- GET_MEASUREMENTS (R322). -/
def execGetMeasurements (s : State) : Result := .next (s.spdm 6 0)
/-- KEY_EXCHANGE (R322). -/
def execKeyExchange (s : State) : Result := .next (s.spdm 7 0)
/-- FINISH (R322). -/
def execFinish (s : State) : Result := .next (s.spdm 8 0)
/-- END_SESSION (R322). -/
def execEndSession (s : State) : Result := .next (s.spdm 9 0)

/-- Send bytes as management flits of at most 240 bytes, with fuel for them. -/
def State.sendPieces (s : State) (dst src : Nat) : Nat → List Byte → State
  | 0, _ => s
  | n + 1, bs => if bs = [] then s else ((s.sendFlit dst src 7 (bs.take 240)).1).sendPieces dst src n (bs.drop 240)

/-- A request to the counter authority, protected in the secured session (R326). -/
def State.askAuthority (s : State) (message : List Byte) : State × Flit :=
  let c := s.secure.authority
  { s with secure := { s.secure with authority := { c with sent := c.sent + 1 } } }.sendControl Config.authorityEndpoint s.fabric.endpoint 6 (c.protect message)

/-- Whether a target's report shows an FWM of the tenant's policy, the identity of the target, and an encore key that the identity key
has signed with that FWM (R321, R326). -/
def Target.attests (t : Target) (policy : List (List Byte)) : Bool :=
  policy.contains t.fwm && decide (keyDigest t.key = t.dst) && ecdsaVerify t.key (t.ek ++ t.fwm) t.sig

/-- Step 1 of a seal is done with the session that it needs: step 2 sends the increment; a report that does not attest the target ends
the seal (R326, R376). -/
def State.attestSeal (s : State) (q : Seal) (t : Target) : State :=
  if t.attests (((s.vdis.find q.vdi).map (fun (v : Vdi) => v.img.policy)).getD []) then
    let r := s.askAuthority (leBytes 8 (((s.vdis.find q.vdi).map (fun (v : Vdi) => v.img.tenant)).getD 0).toNat)
    { r.1 with secure := { r.1.secure with sealing := some { q with ek := t.ek, sentAt := s.dt, seq := r.2.seq, attested := true } } }
  else { s with secure := { s.secure with sealing := none } }

/-- A target answers as responder: its session is open and its report has come, which a seal that waits for it takes (R326). -/
def State.openTarget (s : State) (src : Nat) : State :=
  let b (k : Nat) : List Byte := s.ev.bytes.getD k []
  let t : Target := { endpoint := src, dst := b 0, fwm := b 1, ek := b 2, key := b 3, sig := b 4 }
  let s1 : State := { s with secure := { s.secure with targets := t :: s.secure.targets.filter (fun x => x.endpoint ≠ src) } }
  match s.secure.sealing with
  | some q => if !q.attested ∧ q.dst = t.dst then s1.attestSeal q t else s1
  | none => s1

/-- A management flit carries an SPDM message, and its answer goes back over the fabric (R322, R317); or it is the answer of a target to
the secure element as requester, with its session open (operand 16) or ended (17) (R326). -/
def execManagementFlit (s : State) : Result :=
  match s.ev.flit with
  | none => .next s
  | some f =>
    if f.type ≠ 7#4 then .next s
    else
      match s.arrive s.ev.port f with
      | (s1, false) => .next s1
      | (s1, true) =>
        if s.ev.id = 16 then .next (s1.openTarget f.src.toNat)
        else if s.ev.id = 17 then .next { s1 with secure := { s1.secure with targets := s1.secure.targets.filter (fun x => x.endpoint ≠ f.src.toNat) } }
        else
        let s2 := s1.spdm s.ev.id (1 + f.src.toNat)
        .next (s2.sendPieces f.src.toNat f.dst.toNat (s2.secure.reply.length + 1) s2.secure.reply)

/-! ### Images (R324, R325, R336) -/

/-- The keys of an image, of the x-coordinate of its ECDH: key and nonce (R325). -/
def sealKeys (z tmeas tenant counter src dst : List Byte) : List Byte × List Byte :=
  let okm := hkdf tmeas z (ascii "GD8 encore" ++ tenant ++ counter ++ src ++ dst) 44
  (okm.take 32, (okm.drop 32).take 12)

/-- What fills in a header (R324). -/
structure Header where
  tenant : Nat
  counter : Nat
  length : Nat
  tmeas : List Byte
  src : List Byte
  dst : List Byte
  nonce : List Byte
  tag : List Byte
  epub : List Byte
  dstek : List Byte
  deriving DecidableEq, Repr

/-- The 512 bytes of a header. -/
def Header.bytes (h : Header) : List Byte :=
  leBytes 4 0x31454E45 ++ leBytes 2 1 ++ leBytes 2 0 ++ leBytes 8 h.tenant ++ leBytes 8 h.counter ++ leBytes 8 h.length ++ fit 48 h.tmeas ++
    fit 48 h.src ++ fit 48 h.dst ++ fit 12 h.nonce ++ leBytes 4 0 ++ fit 16 h.tag ++ fit 96 h.epub ++ fit 48 h.dstek ++ List.replicate 160 0#8

/-- Read a header back. -/
def headerOf (bs : List Byte) : Header :=
  let f (off n : Nat) : List Byte := (bs.drop off).take n
  { tenant := leNat (f 8 8), counter := leNat (f 0x10 8), length := leNat (f 0x18 8), tmeas := f 0x20 48, src := f 0x50 48, dst := f 0x80 48,
    nonce := f 0xB0 12, tag := f 0xC0 16, epub := f 0xD0 96, dstek := f 0x130 48 }

/-- Whether an image is well formed (R327, step 1). -/
def imageFormed (bs : List Byte) : Bool :=
  let h := headerOf bs
  decide (512 ≤ bs.length) && decide (leNat (bs.take 4) = 0x31454E45) && decide (leNat ((bs.drop 4).take 2) = 1) &&
    decide (leNat ((bs.drop 6).take 2) = 0) && decide (leNat ((bs.drop 0xBC).take 4) = 0) &&
    ((bs.drop 0x160).take 160).all (fun b => decide (b = 0#8)) && decide (16 ≤ h.length) && decide (h.length ≤ 2 ^ 36) &&
    decide (bs.length = 512 + h.length)

/-- A section of a plaintext (R324). -/
def section_ (kind index : Nat) (data : List Byte) : List Byte := leBytes 4 kind ++ leBytes 4 index ++ leBytes 8 data.length ++ data

/-- The sections of a plaintext, up to the end section, with fuel. -/
def sectionsOf : Nat → List Byte → List (Nat × Nat × List Byte)
  | 0, _ => []
  | n + 1, bs =>
    let kind := leNat (bs.take 4)
    let len := leNat ((bs.drop 8).take 8)
    if kind = 0 then [] else (kind, leNat ((bs.drop 4).take 4), (bs.drop 16).take len) :: sectionsOf n (bs.drop (16 + len))

/-- A frontier-table entry in the layout of R47. -/
def Row.bytes (r : Row) : List Byte :=
  let k (n : Nat) : Nat := (BitVec.ofInt 32 (r.key.getD n 0)).toNat
  leBytes 4 (k 0) ++ leBytes 4 (k 1) ++ leBytes 8 (r.state.toNat * 2 ^ 32 + k 2) ++ leBytes 4 (BitVec.ofInt 32 r.lo).toNat ++
    leBytes 4 (BitVec.ofInt 32 r.hi).toNat ++ leBytes 8 r.p ++ leBytes 8 r.win.toNat ++ List.replicate 24 0#8

/-- Read a frontier-table entry back, for a nest of `levels` levels. -/
def rowFrom (levels : Nat) (bs : List Byte) : Row :=
  let i (off : Nat) : Int := (BitVec.ofNat 32 (wordAt bs off)).toInt
  { key := ([i 0, i 4, i 8] : List Int).take (levels - 1), state := BitVec.ofNat 2 (wordAt bs 12), lo := i 16, hi := i 20, p := dwordAt bs 24,
    win := BitVec.ofNat 64 (dwordAt bs 32), released := [] }

/-- The data of the section of KIND 3 (R336): the record, D and the rows of the points. -/
def nestSection (n : Nest) (pts : List (List Int)) : List Byte :=
  n.record ++ leBytes 8 (n.dur.getD (2 ^ 32 - 1)) ++ (n.rows.filter (fun r => pts.any (fun pt => decide (r.key = pt.dropLast)))).flatMap Row.bytes

/-- INDEX of a save area (R292, R324). -/
def areaIndex (v : Vdi) (gpa : Nat) : Nat := (gpa - v.img.saveBase) / 0x200000

/-- The sections of the saved points of a nest (R324): the areas and the resume slot of each, then the nest's section. Of a point that an
image has brought and that has not been placed, the areas are those of the image, numbered in their order (log entry 39). -/
def State.nestSections (s : State) (v : Vdi) (n : Nest) (sps : List SavedPoint) : List Byte :=
  sps.flatMap (fun (sp : SavedPoint) =>
    (sp.image.zipIdx).flatMap (fun (a : (Nat × Nat × List Byte) × Nat) => section_ 1 a.2 a.1.2.2) ++
    sp.areas.flatMap (fun (a : Nat × Nat × Nat) => section_ 1 (areaIndex v a.2.2) (s.readArea v a.2.2 0x200000)) ++
      section_ 2 sp.resume (s.readArea v (v.img.resumeBase + 0x4000 * sp.resume) 0x4000)) ++
    section_ 3 0 (nestSection n (sps.map (fun (sp : SavedPoint) => sp.point)))

/-! ### Sealing (R326, R337, R376) -/

/-- Whether a saved point may be sealed (R291, R316). -/
def State.mayLeave (s : State) (slot : Nat) (sp : SavedPoint) : Bool :=
  sp.posts.all (fun f => f.done || sp.freed.contains f.id) &&
    !s.coll.posts.any (fun (e : Nat × Post) => e.2.held && (match e.2.key with | some k => decide (k.slot = slot) && decide (k.point = sp.point) | none => false))

/-- A saved point of a nest slot that may be sealed. -/
def State.sealable (s : State) (x : Nat × List Int) : Option (Nest × SavedPoint) :=
  (s.nests.find x.1).bind (fun (n : Nest) =>
    (n.saved.find? (fun y => decide (y.point = x.2) && s.mayLeave x.1 y)).map (fun (sp : SavedPoint) => (n, sp)))

/-- The interface of a seal's points, when it is one and each of them may be sealed. -/
def State.sealVdi (s : State) (xs : List (Nat × List Int)) : Option Nat :=
  match xs.mapM s.sealable with
  | some ((n, _) :: ys) => if ys.all (fun (y : Nest × SavedPoint) => decide (y.1.vdi = n.vdi)) then some n.vdi else none
  | _ => none

/-- A request to seal saved points for a target, whose identity digest it names (R326): with the session that the secure element holds, or
once it has one, steps 1 and 2 go on; it asks the target's endpoint for a session, which the request names too (log entry 39). A
seal that fails leaves the saves as they are (R376). -/
def execSealRequest (s : State) : Result :=
  match (s.sealVdi s.ev.points).bind (fun (k : Nat) => (s.vdis.find k).map (fun (v : Vdi) => (k, v))) with
  | none => .next s
  | some (k, v) =>
    let dst := s.ev.bytes.getD 0 []
    let q : Seal := { vdi := k, points := s.ev.points, dst := dst, ek := [], buf := s.ev.b, sentAt := s.dt, seq := 0, attested := false }
    if s.secure.sealing.isSome ∨ !s.secure.booted then .next s
    else match s.secure.targets.find? (fun t => decide (t.dst = dst)) with
      | some t => .next (if t.attests v.img.policy then s.attestSeal q t else s)
      | none =>
        let s1 := s.sendPieces s.ev.c s.fabric.endpoint ((Config.spdmRequest dst).length + 1) (Config.spdmRequest dst)
        .next { s1 with secure := { s1.secure with sealing := some q } }

/-- Zero guest memory page by page through stage 2. -/
def State.zeroGuest (s : State) (v : Vdi) (gpa pages : Nat) : State :=
  (List.range pages).foldl (fun (x : State) k =>
    match x.writeGuest v (gpa + 4096 * k) (List.replicate 4096 0#8) with | .ok y => y | .error _ => x) s

/-- A saved point leaves in an image (R326, R337): its areas and its resume slot are zero and invalid. -/
def State.leave (s : State) (vi : Nat) (v : Vdi) (slot : Nat) (sp : SavedPoint) : State :=
  let s1 := sp.areas.foldl (fun (x : State) (a : Nat × Nat × Nat) => x.zeroGuest v a.2.2 512) s
  let s2 := s1.zeroGuest v (v.img.resumeBase + 0x4000 * sp.resume) 4
  (s2.onVdi vi (fun x => { x with resumes := x.resumes.erase sp.resume })).onNest slot
    (fun m => { m with saved := m.saved.filter (fun x => x.point ≠ sp.point), gone := sp.point :: m.gone })

/-- Steps 3 and 4 of a seal, once the authority has returned the counter (R325, R326). -/
def State.finishSeal (s : State) (q : Seal) (counter : Nat) : State :=
  let s0 : State := { s with secure := { s.secure with sealing := none } }
  let eph := ephemeralKey s.secure.ephemerals
  match q.points.mapM s.sealable, s.vdis.find q.vdi, ecdhX eph q.ek with
  | some ys, some v, some z =>
    let slots := (q.points.map (fun x => x.1)).dedup
    let of_ (k : Nat) : List (Nest × SavedPoint) := ((q.points.zip ys).filter (fun e => decide (e.1.1 = k))).map (fun e => e.2)
    let pl := slots.flatMap (fun k => match of_ k with
        | [] => []
        | (n, sp) :: more => s.nestSections v n (sp :: more.map (fun e => e.2))) ++ section_ 0 0 []
    let ks := sealKeys z v.tmeas (leBytes 8 v.img.tenant.toNat) (leBytes 8 counter) s.secure.identity q.dst
    let h : Header := { tenant := v.img.tenant.toNat, counter := counter, length := pl.length, tmeas := v.tmeas, src := s.secure.identity,
                        dst := q.dst, nonce := ks.2, tag := List.replicate 16 0#8, epub := p384Public eph, dstek := keyDigest q.ek }
    let c := gcmSeal ks.1 ks.2 h.bytes pl
    let s1 := s0.writePhys q.buf (({ h with tag := c.2 } : Header).bytes ++ c.1)
    let s2 := (q.points.zip ys).foldl (fun (x : State) (e : (Nat × List Int) × Nest × SavedPoint) => x.leave q.vdi v e.1.1 e.2.2) s1
    let s3 : State := { s2 with secure := { s2.secure with ephemerals := s2.secure.ephemerals + 1, seals := s2.secure.seals ++ [q.points] } }
    slots.foldl State.settleNest s3
  | _, _, _ => s0

/-! ### Restoring (R327, R328, R377) -/

/-- The number of SealRefused for a reason: reasons 4 to 8 also write a record (R377). -/
def State.refuseRestore (s : State) (vdi : Option Nat) (counter reason : Nat) : State :=
  let s1 : State := { s with secure := { s.secure with restore := none, refusals := s.secure.refusals ++ [(reason, BitVec.ofNat 64 counter)] } }
  match vdi with
  | some v =>
    if 4 ≤ reason then
      s1.faultLog v { w0 := faultWord 10 Cause.sealRefused.code 0 0 0 15, pos := BitVec.ofNat 64 counter, info := BitVec.ofNat 64 reason, dt := s.dt }
    else s1
  | none => s1

/-- The tenant that an image belongs to: loaded here with its identifier and measurement (R327). -/
def State.tenantFor (s : State) (h : Header) : Option Nat :=
  (s.vdis.find? (fun (e : Nat × Vdi) => decide (e.2.img.tenant.toNat = h.tenant) && decide (e.2.tmeas = h.tmeas))).map (fun (e : Nat × Vdi) => e.1)

/-- An image is presented (R327): steps 1 to 3, then the request of step 4. -/
def execRestoreImage (s : State) : Result :=
  let bs := s.ev.bytes.headD []
  let h := headerOf bs
  if s.secure.restore.isSome ∨ !s.secure.booted then .next s
  else if !imageFormed bs then .next (s.refuseRestore none h.counter 1)
  else if h.dst ≠ s.secure.identity then .next (s.refuseRestore none h.counter 2)
  else
    match s.tenantFor h with
    | none => .next (s.refuseRestore none h.counter 3)
    | some v =>
      if h.dstek ≠ keyDigest (p384Public s.secure.encoreKey) then .next (s.refuseRestore (some v) h.counter 8)
      else
        let r := s.askAuthority (leBytes 8 h.tenant ++ leBytes 8 h.counter)
        .next { r.1 with secure := { r.1.secure with restore := some { vdi := v, image := bs, sentAt := s.dt, seq := r.2.seq } } }

/-- A request to the counter authority is not sent again. -/
def State.forget (s : State) (seq : BitVec 16) : State :=
  { s with fabric := { s.fabric with unacked := s.fabric.unacked.filter (fun (u : Unacked) =>
      !(decide (u.flit.type = 6#4) && decide (u.flit.dst = BitVec.ofNat 20 Config.authorityEndpoint) && decide (u.flit.seq = seq))) } }

/-- No answer within 1 s refuses a restore (R327); a seal whose increment has not been answered by then has failed (R376). -/
def execAuthorityTimeout (s : State) : Result :=
  let late (t : Dword) : Bool := decide (1000000000 ≤ (s.dt - t).toNat)
  let s1 : State := match s.secure.sealing with
    | some q => if late q.sentAt then ({ s with secure := { s.secure with sealing := none } }).forget q.seq else s
    | none => s
  match s.secure.restore with
  | none => .next s1
  | some r => .next (if late r.sentAt then (s1.refuseRestore (some r.vdi) (headerOf r.image).counter 7).forget r.seq else s1)

/-- The first sections up to one of KIND 3, and the others. -/
def nestSplit : List (Nat × Nat × List Byte) → List (Nat × Nat × List Byte) × List (Nat × Nat × List Byte)
  | [] => ([], [])
  | x :: xs => if x.1 = 3 then ([x], xs) else let r := nestSplit xs; (x :: r.1, r.2)

/-- The sections by nest, with fuel for them. -/
def nestGroups : Nat → List (Nat × Nat × List Byte) → List (List (Nat × Nat × List Byte))
  | 0, _ => []
  | n + 1, xs => if xs = [] then [] else let r := nestSplit xs; r.1 :: nestGroups n r.2

/-- The data of the sections of a kind. -/
def dataOf (kind : Nat) (ss : List (Nat × Nat × List Byte)) : List (List Byte) :=
  (ss.filter (fun (x : Nat × Nat × List Byte) => decide (x.1 = kind))).map (fun (x : Nat × Nat × List Byte) => x.2.2)

/-- The point that the header of an area names, in a nest of `levels` levels. -/
def pointOfArea (levels : Nat) (bs : List Byte) : List Int := (List.range levels).map (fun k => (BitVec.ofNat 64 (dwordAt bs (8 + 8 * k))).toInt)

/-- The nest of authenticated sections in a new slot, with its points, each with a resume slot (R328, R336). -/
def State.installImage (s : State) (vi : Nat) (v : Vdi) (slot : Nat) (resumes : List Nat) (ss : List (Nat × Nat × List Byte)) : State :=
  let areas := dataOf 1 ss
  let nest := (dataOf 3 ss).headD []
  let record := nest.take 256
  let levels := nLevels record
  let pts := (areas.map (pointOfArea levels)).dedup
  let mine (pt : List Int) : List (List Byte) := areas.filter (fun bs => decide (pointOfArea levels bs = pt))
  let rows := (List.range ((nest.length - 264) / 64)).map (fun k =>
    let r := rowFrom levels (nest.drop (264 + 64 * k))
    { r with released := (pts.filter (fun pt => decide (r.key = pt.dropLast))).map (fun pt => pt.getLastD 0) })
  let last := (rows.getLast?).map (fun (r : Row) => r.key)
  let d := dwordAt nest 256
  let hi := ((rows.getLast?).map (fun (r : Row) => r.hi)).getD 0
  let saved := (pts.zip resumes).map (fun (e : List Int × Nat) =>
    ({ point := e.1, resume := e.2, areas := [], troupes := [], ctxs := [], hands := [], posts := [],
       image := (mine e.1).map (fun bs => let w := dwordAt bs 0; (bits w 9 3, bits w 7 2, bs)) } : SavedPoint))
  let n : Nest :=
    { vdi := vi, record := record,
      bound := if nGrow record then
          (if levels = 1 then hi else match s.readVirtual vi 1 2 (nCell record) 4 with | (_, .ok bs) => (BitVec.ofNat 32 (leNat bs)).toInt | _ => hi)
        else 0
      cap := if nSpawn record then boundC (nUb record 0) else 0, closed := false, stopped := false,
      dur := if d = 2 ^ 32 - 1 then none else some d, rows := rows, last := last, seek := last, vals := [],
      top := if nGrow record then (pts.map (fun pt => pt.headD 0)).max? else none, flushed := [], saved := saved,
      olds := pts.map (fun pt => (pt, BitVec.ofNat 16 (bits (dwordAt ((mine pt).headD []) 0) 16 16))), gone := [] }
  let s1 : State := { s with nests := s.nests.put slot n, gens := s.gens.setIfInBounds slot (s.gens[slot]?.getD 0 + 1), fresh := s.fresh + 1 }
  let slots := dataOf 2 ss
  saved.zipIdx.foldl (fun (x : State) (e : SavedPoint × Nat) =>
    let y := (List.range 4).foldl (fun (y : State) k =>
      match y.writeGuest v (v.img.resumeBase + 0x4000 * e.1.resume + 4096 * k) (((slots.getD e.2 []).drop (4096 * k)).take 4096) with
      | .ok z => z | .error _ => y) x
    (y.onVdi vi (fun z => { z with resumes := e.1.resume :: z.resumes })).later { kind := .restorePoint, a := slot, point := e.1.point }) s1

/-- Install the oldest authenticated nest whose interface has a free nest slot and free resume slots for its points (R328). -/
def State.tryInstall (s : State) : State :=
  match s.secure.installs with
  | [] => s
  | (vi, ss) :: more =>
    match s.vdis.find vi with
    | none => { s with secure := { s.secure with installs := more } }
    | some v =>
      match s.freeSlots vi v with
      | [] => s
      | f :: fs =>
        if v.freeResumes.length < (dataOf 2 ss).length then s
        else ({ s with secure := { s.secure with installs := more } }).installImage vi v (s.pickSlot (f :: fs)) v.freeResumes ss

/-- Step 5 of a restore (R327): the image is opened with the encore private key. -/
def State.openImage (s : State) (r : Restore) : State :=
  let h := headerOf r.image
  let text := (ecdhX s.secure.encoreKey h.epub).bind (fun z =>
    let ks := sealKeys z h.tmeas (leBytes 8 h.tenant) (leBytes 8 h.counter) h.src h.dst
    gcmOpen ks.1 ks.2 ({ h with tag := List.replicate 16 0#8 } : Header).bytes (r.image.drop 512) h.tag)
  match text with
  | none => s.refuseRestore (some r.vdi) h.counter 6
  | some pl =>
    let ss := sectionsOf (pl.length + 1) pl
    ({ s with secure := { s.secure with restore := none, installs := s.secure.installs ++ (nestGroups (ss.length + 1) ss).map (fun g => (r.vdi, g)) } }).tryInstall

/-- A message of the authority has been opened in its session. -/
def State.heardAuthority (s : State) : State :=
  { s with secure := { s.secure with authority := { s.secure.authority with received := s.secure.authority.received + 1 } } }

/-- An answer of the counter authority (R326, R327), which comes protected in the secured session: to a seal, the tenant's new value; to
a restore, 0 current, 1 stale and 2 ahead. An answer that the session does not open, or to another request than the one that waits, is
ignored. -/
def execCounterAuthorityFlit (s : State) : Result :=
  match s.ev.flit with
  | none => .next s
  | some f =>
    if f.type ≠ 6#4 then .next s
    else
      match s.arrive s.ev.port f with
      | (s1, false) => .next s1
      | (s0, true) =>
        if !s0.secure.authority.opens f.payload s.ev.nonce then .next s0
        else
        let s1 := s0.heardAuthority
        if s.ev.flag then
          match s1.secure.sealing with
          | none => .next s1
          | some q => .next (if q.attested ∧ q.seq.toNat = s.ev.id then s1.finishSeal q s.ev.dword.toNat else s1)
        else
          match s1.secure.restore with
          | none => .next s1
          | some r =>
            let c := (headerOf r.image).counter
            .next (if r.seq.toNat ≠ s.ev.id then s1
                   else if s.ev.a = 0 then s1.openImage r
                   else if s.ev.a = 1 then s1.refuseRestore (some r.vdi) c 4
                   else s1.refuseRestore (some r.vdi) c 5)

end Sys2Proof.Machine
end

