-- ==== Sys2Proof/Machine/Module.lean ====
section
/-! DEFINITION. Power managers and sensors (R332, R333), memory expanders and clocks (R329, R330), soft errors (R360, R363). -/

namespace Sys2Proof.Machine

/-! ### Sensors (R333) -/

/-- The temperature band of a temperature in units of 1/16 °C. -/
def tband (temp : Int) : Nat := if 105 * 16 ≤ temp then 3 else if 95 * 16 ≤ temp then 2 else if 85 * 16 ≤ temp then 1 else 0

/-- A sensor register: the bands' lowest voltage and temperature as they were measured, TBAND from the temperature, the
reserved half zero. -/
def sensorValue (x : Dword) : Dword :=
  let t : Int := (BitVec.ofNat 16 x.toNat).toInt
  BitVec.ofNat 64 (tband t * 2 ^ 30 + bits x.toNat 0 30)

/-- The sensors from which a block takes its bands: cores by number, stacks from 512, the base die 528. An L2 slice uses the cores of its
ensemble, and a controller its stack (R333). -/
def sensorsOf (block : Nat) : List Nat :=
  if block < 1024 then [block / 4]
  else if block < 1056 then (List.range 256).filter (fun c => decide (ensembleOf c = block - 1024))
  else if block < 1072 then [512 + (block - 1056)]
  else [528]

/-- The blocks of a sensor: quadrants by key, then the L2 slices, the HBM4E controllers, the base die. -/
def blocksOf (sensor : Nat) : List Nat :=
  if sensor < 256 then (List.range 4).map (fun q => quadKey sensor q) ++ [1024 + ensembleOf sensor]
  else if sensor < 528 then [1056 + (sensor - 512)]
  else [1072]

/-- The droop band of a block: the largest of its sensors. -/
def State.droopBand (s : State) (block : Nat) : Nat := ((sensorsOf block).map (fun k => bits ((s.sensors.find k).getD 0).toNat 28 2)).foldl max 0
/-- The temperature band of a block. -/
def State.heatBand (s : State) (block : Nat) : Nat := ((sensorsOf block).map (fun k => bits ((s.sensors.find k).getD 0).toNat 30 2)).foldl max 0
/-- The highest temperature of a block, in units of 1/16 °C. -/
def State.heat (s : State) (block : Nat) : Int :=
  ((sensorsOf block).map (fun k => (BitVec.ofNat 16 ((s.sensors.find k).getD 0).toNat).toInt)).foldl max (-32768)

/-- Every sensor of the module (R333). -/
def allSensors : List Nat := List.range 256 ++ (List.range 17).map (fun k => 512 + k)

/-- The sensor registers are rewritten every 4096 cycles (R333), after the placer of that cycle, which uses the bands as they stood at
its start (R284). -/
def State.sense (s : State) : List Event :=
  if s.cycle % 4096 = 0 ∧ s.cycle ≠ 0 then allSensors.map (fun k => { kind := .sensorRefresh, a := k, dword := Config.sensed k s.cycle }) else []

/-- A sensor register is rewritten (R333), in a cycle in which they are, and the power managers of its blocks act on it (R332). -/
def execSensorRefresh (s : State) : Result :=
  let k := s.ev.a
  if !allSensors.contains k ∨ s.cycle % 4096 ≠ 0 then .next s
  else
    let s1 : State := { s with sensors := s.sensors.put k (sensorValue s.ev.dword) }
    .next ((blocksOf k).foldl (fun (x : State) b =>
      let x1 : State := if x.droopBand b = 3 then
          { x with skipping := x.skipping ++ [(b, x.cycle + 4096, true)] }.atCycle (x.cycle + 4096) { kind := .droopSkipEnd, a := b } else x
      let x2 : State := if 110 * 16 ≤ x1.heat b ∧ !x1.stopped.contains b then x1.soon { kind := .clockStopOvertemp, a := b } else x1
      if x2.heat b < 100 * 16 ∧ x2.stopped.contains b then x2.soon { kind := .clockRestart, a := b } else x2) s1)

/-- Skips of a block that have ended. -/
def State.endSkips (s : State) (block : Nat) : State :=
  { s with skipping := s.skipping.filter (fun e => !(decide (e.1 = block) && decide (e.2.1 ≤ s.cycle))) }

/-- The block's demand rises by more than its limit allows: its manager skips cycles until the rise is within it, after an open
number of cycles (R332). -/
def execPowerDidtSkip (s : State) : Result :=
  let s1 := s.endSkips s.ev.a
  .next (if s.ev.b ≤ (s.limits.find s.ev.a).getD 0 then s1
         else { s1 with skipping := s1.skipping ++ [(s.ev.a, s.cycle + 1 + Config.latency s.fresh, false)], fresh := s.fresh + 1 })

/-- The 4096 cycles of a droop skip are over (R332). -/
def execDroopSkipEnd (s : State) : Result := .next (s.endSkips s.ev.a)

/-- At 110 °C the block's clock stops (R332). -/
def execClockStopOvertemp (s : State) : Result :=
  .next (if s.heat s.ev.a < 110 * 16 ∨ s.stopped.contains s.ev.a then s else { s with stopped := s.ev.a :: s.stopped })

/-- Below 100 °C it starts again (R332). -/
def execClockRestart (s : State) : Result :=
  .next (if s.heat s.ev.a < 100 * 16 then { s with stopped := s.stopped.filter (fun b => b ≠ s.ev.a) } else s)

/-- Whether a power manager stops the clock of a block in this cycle, or skips the cycle (R332): one cycle in two while droop or di/dt
makes it, one in four at temperature band 3; in which of them is open, and di/dt may skip fewer. -/
def State.throttled (s : State) (block : Nat) : Bool :=
  let turn (n : Nat) : Bool := decide ((s.cycle + Config.skipPhase block) % n = 0)
  s.stopped.contains block ||
    (turn 2 && s.skipping.any (fun e => decide (e.1 = block) && decide (s.cycle < e.2.1) && (e.2.2 || Config.didtSkips block s.cycle))) ||
    (turn 4 && decide (s.heatBand block = 3))

/-! ### Stopped clocks (R332) -/

/-- Where an event takes place, for the clock that it needs (R332). -/
inductive Site where
  /-- In a quadrant, by key. -/
  | quadrant (k : Nat)
  /-- On the base die, and with a part in the L2 slices and their controllers. -/
  | base (memory : Bool)
  /-- At a power manager or a sensor, or outside the package. -/
  | outside
  deriving DecidableEq, Repr

/-- The site of an event. What the Usher, the feeders, the matrix units and the stagehands do is in a quadrant; what concerns the power
managers, resets and errors needs no clock of the model; everything else is on the base die. -/
def Event.site (e : Event) : Site :=
  match e.kind with
  | .usherWindowClose => .quadrant e.a
  | .coalesceEntryAgeDrain => .quadrant e.a
  | .translationWalkComplete => .quadrant e.unit.quadKey
  | .farLoadReturn => .quadrant e.unit.quadKey
  | .farStorePerform => .quadrant e.unit.quadKey
  | .farAccessFault => .quadrant e.unit.quadKey
  | .atomResultReturn => .quadrant e.unit.quadKey
  | .remoteAtomsReturn => .quadrant e.unit.quadKey
  | .tileCopyComplete => .quadrant e.unit.quadKey
  | .sceneCommitComplete => .quadrant e.unit.quadKey
  | .matrixWordComplete => .quadrant e.unit.quadKey
  | .handleFetchComplete => .quadrant e.unit.quadKey
  | .mappgComplete => .quadrant e.unit.quadKey
  | .mdefComplete => .quadrant e.unit.quadKey
  | .smsgDeliver => .quadrant e.unit.quadKey
  | .copyComplete => .base true
  | .collectiveComplete => .base true
  | .moduleReset => .outside
  | .prosceniumTimeout => .outside
  | .linkUp => .outside
  | .linkDown => .outside
  | .sensorRefresh => .outside
  | .powerDidtSkip => .outside
  | .clockStopOvertemp => .outside
  | .clockRestart => .outside
  | .droopSkipEnd => .outside
  | .correctableError => .outside
  | .uncorrectableError => .outside
  | .expanderAddedOrRemoved => .outside
  | .referenceClockLoss => .outside
  | _ => .base false

/-- Whether an event waits for a clock that is stopped (R332; log entry 77). -/
def State.waitsForClock (s : State) (e : Event) : Bool :=
  !s.stopped.isEmpty &&
    (match e.site with
     | .quadrant k => s.stopped.contains k
     | .base memory => s.stopped.contains 1072 || (memory && s.stopped.any (fun b => decide (1024 ≤ b)))
     | .outside => false)

/-! ### The module (R329, R330) -/

/-- An expander is added behind a root port, inside that port's window, or removed (R121, R329). What a removed expander held
is lost. -/
def execExpanderAddedOrRemoved (s : State) : Result :=
  let lo := s.ev.a
  let n := s.ev.b
  if s.ev.flag then
    let port := (lo - 0x10000000000) / 0x20000000000
    if lo < 0x10000000000 ∨ 0x90000000000 < lo + n ∨ n = 0 ∨ (lo + n - 1 - 0x10000000000) / 0x20000000000 ≠ port ∨
        s.expanders.any (fun e => decide (e.1 < lo + n) && decide (lo < e.1 + e.2)) then .next s
    else .next { s with expanders := s.expanders ++ [(lo, n)] }
  else if s.expanders.contains (lo, n) then
    .next { s with expanders := s.expanders.filter (fun e => e ≠ (lo, n)), mem := s.mem.clear lo n }
  else .next s

/-- The PCIe reference clock goes or comes back: the module takes its reference from its oscillator or from PCIe (R330). -/
def execReferenceClockLoss (s : State) : Result := .next { s with refLost := s.ev.flag }

/-! ### Reads of the registers (R273, R280, R334, R335, R349, R366, R374, R378) -/

/-- Who reads the management space: the host through the physical function, or a Camly core. No virtual function reaches it (R334). -/
inductive Reader where
  | physical | camly
  deriving DecidableEq, Repr

/-- A Fenpin port's status register (R374). -/
def Port.status (p : Port) (gen : BitVec 8) : Nat :=
  p.up.toNat * 2 ^ 63 + gen.toNat * 2 ^ 48 + p.dgen % 2 ^ 16 * 2 ^ 32 + p.dtype % 2 ^ 16 * 2 ^ 16 + p.ddst % 2 ^ 16

/-- A word of the flash recovery window, by its offset in the window; it stands in recovery mode only (R378). -/
def State.flashWord (s : State) (o : Nat) : Nat :=
  if !s.secure.recovery then 0
  else if o = 0 then s.flash.key.toNat * 2 ^ 24 + s.flash.cmd.toNat
  else if o = 8 then s.flash.off.toNat
  else if o = 0x10 then s.flash.busy.toNat * 2 ^ 63 + s.flash.err.toNat * 2 ^ 62 + s.flash.res.toNat
  else if 0x1000 ≤ o ∧ o < 0x1100 then leNat (s.flash.buffer.bytes (o - 0x1000) 8)
  else 0

/-- An aligned 8-byte word of the management space as a reader finds it (R334). A frontier-table entry is read as it stands in the cycle,
by its number; a free one reads as zero, of state free. -/
def State.managementWord (s : State) (who : Reader) (o : Nat) : Nat :=
  if o < 0x1000 then (Config.identityWord (o / 8) s.secure.recovery [s.secure.identity, s.secure.fwm] s.secure.failedBoots).toNat
  else if 0x10000 ≤ o ∧ o < 0x10800 then ((s.sensors.find ((o - 0x10000) / 8)).getD 0).toNat
  else if 0x11000 ≤ o ∧ o < 0x11080 then ((s.sensors.find (512 + (o - 0x11000) / 8)).getD 0).toNat
  else if o = 0x11080 then ((s.sensors.find 528).getD 0).toNat
  else if 0x12000 ≤ o ∧ o < 0x12480 then
    if o % 0x40 = 0 then ((s.fabric.ports.find ((o - 0x12000) / 0x40)).getD { up := false, dgen := 0, dtype := 0, ddst := 0 }).status s.fabric.gen else 0
  else if o = 0x12480 then s.fabric.state.toNat * 2 ^ 8 + s.fabric.oldGen.toNat
  else if 0x1000000 ≤ o ∧ o < 0x1200000 then
    match (s.nests.find ((o - 0x1000000) / 0x8000)).bind (fun (n : Nest) => n.rows.find? (fun r => decide (r.entry = (o - 0x1000000) % 0x8000 / 64))) with
    | some r => dwordAt r.bytes (o % 64)
    | none => 0
  else if 0x2000000 ≤ o ∧ o < 0x2000400 then
    let w := s.coll.window ((o - 0x2000000) / 16)
    if who = .physical then 0 else if o % 16 = 0 then w.cpost.toNat else w.cpres.toNat
  else if 0x3000000 ≤ o ∧ o < 0x4000000 then if who = .physical then s.flashWord (o - 0x3000000) else 0
  else 0

/-- QERR of a queue (R366). -/
def Queue.err (q : Queue) : Nat := q.rcause.toNat * 2 ^ 40 + q.stop.toNat * 2 ^ 32 + q.xseq.toNat

/-- An aligned 8-byte word of a virtual function's BAR 0 (R273, R280, R349, R366). -/
def State.functionWord (s : State) (v o : Nat) : Nat :=
  match s.vdis.find v with
  | none => 0
  | some x =>
    if o = 0x800 then x.fltail.toNat
    else if o = 0x808 then x.flack.toNat
    else if o = 0x810 then x.fllost.toNat
    else if 0x1000 ≤ o ∧ o < 0x1400 then
      match x.queues.find ((o - 0x1000) / 0x40) with
      | none => 0
      | some q =>
        match o % 0x40 / 8 with
        | 0 => q.qlog2.toNat * 16 + q.pri.toNat * 4 + q.kind.toNat * 2 + q.en.toNat
        | 1 => q.qbase.toNat
        | 2 => q.cbase.toNat
        | 3 => q.qtail.toNat
        | 4 => q.qacc.toNat
        | 5 => q.qdone.toNat
        | 6 => q.qcack.toNat
        | _ => q.err
    else if 0x10000 ≤ o ∧ o < 0x18000 then
      match s.semIndex v ((o - 0x10000) / 8) with | some n => ((s.sems.find n).getD 0).toNat | none => 0
    else if 0x18000 ≤ o ∧ o < 0x18800 then
      match x.log.find ((o - 0x18000) / 32) with
      | none => 0
      | some r => (match o % 32 / 8 with | 0 => r.w0 | 1 => r.pos | 2 => r.info | _ => r.dt).toNat
    else 0

/-! ### Soft errors (R360, R363) -/

/-- A correctable error is corrected and counted (R360). -/
def execCorrectableError (s : State) : Result := .next { s with corrected := s.corrected.put s.ev.a ((s.corrected.find s.ev.a).getD 0 + 1) }

/-- Add to a list what it does not hold. -/
def insertNew {α : Type} [BEq α] (k : α) (l : List α) : List α := if l.contains k then l else k :: l

/-- The granule of an uncorrectable error is poisoned (R360). -/
def State.poisonPlace (s : State) : State :=
  match s.ev.place with
  | .line pa => { s with poison := insertNew (pa / 64) s.poison }
  | .scratch a => { s with scratchPoison := insertNew (a / 4) s.scratchPoison }
  | .sreg u r => s.onCtx u (fun c => { c with poisonS := insertNew (r % 48) c.poisonS })
  | .vreg u r => s.onCtx u (fun c => { c with poisonV := insertNew (r % (56 * 32)) c.poisonV })
  | .tx u n => s.onCtx u (fun c => { c with poisonS := insertNew (64 + n % 8) c.poisonS })
  | .handle u h k =>
    match u with
    | .rigger _ _ => s.onHand u (fun y => { y with poison := insertNew (0x2000 + 8 * (h % 16) + k % 8) y.poison })
    | .striker _ _ => s.onHand u (fun y => { y with poison := insertNew (0x2000 + 8 * (h % 16) + k % 8) y.poison })
    | _ => s.onCtx u (fun c => { c with poisonS := insertNew (128 + 8 * (h % 16) + k % 8) c.poisonS })
  | .store u n => s.onHand u (fun y => { y with poison := insertNew (n % 0x1000) y.poison })
  | .instr u n => s.onHand u (fun y => { y with poison := insertNew (0x4000 + n % 0x2000) y.poison })
  | .xreg u n => s.onHand u (fun y => { y with poison := if n % 32 = 0 then y.poison else insertNew (0x3000 + n % 32) y.poison })
  | .buffer q l => s.setQuad q { s.quad q with entries := (s.quad q).entries.map (fun (e : Entry) => if e.line = l then { e with bad := true } else e) }
  | .fill q l => { s with fars := s.fars.map (fun (f : FarOp) =>
      if f.unit.quadKey = q ∧ !f.performed ∧ !inScratch f.instr then { f with spoiled := insertNew l f.spoiled } else f) }
  | .ring k n => s.onTroupe k (fun t => { t with badSync := insertNew (n % 16) t.badSync })
  | .staging e => { s with coll := { s.coll with posts := s.coll.posts.map (fun (x : Nat × Post) =>
      if x.1 = e ∧ x.2.state = .running ∧ dRsv x.2.desc ≠ 0 then (e, { x.2 with bad := true }) else x) } }
  | .barrier k => s.onTroupe k (fun t => { t with badSync := insertNew 16 t.badSync })
  | .matrix k n i => s.onTroupe k (fun t => { t with mx := { t.mx with bad := insertNew (n, i) t.mx.bad } })
  | .code v p => s.onVdi v (fun x => { x with badCode := insertNew p x.badCode })
  | .control q m w => s.setQuad q { s.quad q with badMacros := insertNew (m, w) (s.quad q).badMacros }

/-- The quadrant that an error of a troupe's state lies in, and the place in its save area that receives the poison (R364): the one
that a save would mark, were this the only error; the state of rings and barriers stands in the reserved part. -/
def State.errorPlace (s : State) : Option (Nat × Nat × Nat) :=
  let clean : State :=
    { s with scratchPoison := [], ctxs := s.ctxs.map (fun e => (e.1, { e.2 with poisonS := [], poisonV := [] })),
             hands := s.hands.map (fun e => (e.1, { e.2 with poison := [] })),
             troupes := s.troupes.map (fun e => (e.1, { e.2 with badSync := [], mx := { e.2.mx with bad := [] } })) }
  let x := clean.poisonPlace
  x.troupes.findSome? (fun (e : Nat × Troupe) => (List.range e.2.quads.length).findSome? (fun r =>
    (x.areaPoison e.2 r).head?.map (fun off => (e.2.core, e.2.quads.getD r 0, off))))

/-- An uncorrectable error (R360): its granule is poisoned, and one met while a save reads the state of a troupe aborts the save
(R363). -/
def execUncorrectableError (s : State) : Result :=
  let s1 := s.poisonPlace
  match s.errorPlace with
  | none => .next s1
  | some (core, q, off) =>
    match (s1.troupeAt core q).bind (fun (t : Nat × Troupe) => s1.pointOf t.2) with
    | none => .next s1
    | some p =>
      match p.phase with
      | .saving _ _ => .next (if s1.saveReady p then s1.abortSave p core q off else s1)
      | .suspended => .next (s1.abortSave p core q off)
      | _ => .next s1

end Sys2Proof.Machine
end

