-- ==== Sys2Proof/Machine/Cycle.lean ====
section
/-! DEFINITION. The cycle: turns of units (R69, R79), what each cycle counts (R256, R299, R302), what comes to hold or runs out
in it (R48, R50, R56, R259, R277, R290, R291, R301, R327, R370, R373, R375), and the events that it brings. -/

namespace Sys2Proof.Machine

/-! ### Turns -/

/-- Transcendental vector words (R299). -/
def isTranscendental : Instr → Bool
  | .vfrcp .. => true
  | .vfrsq .. => true
  | .vfexp2 .. => true
  | .vflog2 .. => true
  | .vftanh .. => true
  | .vfsig .. => true
  | .vfsqrt .. => true
  | _ => false

/-- Count the vector lane operations of a group that has issued (R299). -/
def State.countLanes (s : State) (v : Nat) (em : Word) (ws : List (Gw × Instr)) : State :=
  let lanes := (lanesOf em).length
  let vec := (ws.filter (fun x => decide (pipeOf x.1.word = .vector))).length
  let tr := (ws.filter (fun x => isTranscendental x.2)).length
  if vec = 0 then s else (s.count v 38 (lanes * vec)).count v 39 (lanes * tr)

/-- Bytes of the own scratchpad that a word reads and writes in each active lane (R299). -/
def ownBytes : Instr → Nat
  | .lds _ _ _ z => ldsSize z
  | .sts _ _ _ z => ldsSize z
  | .atoms _ _ _ _ _ x => if x = 1#1 then 0 else 8
  | _ => 0

/-- A group that has issued: its path is demoted, when a word of it asks for that (R79), and its lanes are counted. -/
def State.afterGroup (s : State) (t : Turn) (pid v : Nat) (em : Word) (ws : List (Gw × Instr)) : State :=
  let s1 := if s.cur.demote then { s with cur := { s.cur with demote := false } }.demotePid t.unit pid else s
  let n := (ws.map (fun x => ownBytes x.2)).sum * (lanesOf em).length
  if s1.cur.trap = none then (if n = 0 then s1 else s1.count v 32 n).countLanes v em ws else s1

/-- Bytes of scratchpad that a stagehand's instruction reads or writes (R299). -/
def Hand.scratchBytes (h : Hand) (x : Instr) : Nat :=
  let inside (a : Word) (n : Nat) : Nat := if 0x400000 ≤ a.toNat ∧ a.toNat < 0x800000 then n else 0
  match x with
  | .stagehandInstruction (.ld o _ a off) _ => inside (h.reg a + off) (ldBytes o)
  | .stagehandInstruction (.st o a _ off) _ => inside (h.reg a + off) (stBytes o)
  | _ => 0

/-- A stagehand's next instruction issues. -/
def State.runHand (run : Run) (s : State) (t : Turn) (h : Hand) : Host.Outcome State Fault Refusal :=
  let n := if h.held.isSome then 0 else h.scratchBytes (decodeHand (h.instrs.word h.pc.toNat))
  match (s.clearValid t.unit).issueHand run t h with
  | .next s1 => .next (if n = 0 then s1 else s1.count (s.vdiOf t.unit) 32 n)
  | o => o

/-- The translation of the packet that a path fetches from, when the tenant's code has a virtual address (R123, check 7 of R352):
the state after the walks, and the address and the failure of the first byte that fails. -/
def State.fetchCheck (s : State) (t : Turn) (c : Ctx) : State × Option (Nat × Xerr) :=
  let p := c.path t.slotB
  match (s.vdis.find (s.vdiOf t.unit)).bind (fun (v : Vdi) => v.img.codeVa), p.mstep with
  | some base, none =>
    if codePackets (s.code t.unit) ≤ groupPos p / 4 then (s, none)
    else
      let need := needX (match t.unit with | .cast _ _ _ => p.plvl | _ => 0)
      [0, 11].foldl (fun (x : State × Option (Nat × Xerr)) k =>
        let va := base + 12 * (groupPos p / 4) + k
        match x.2 with
        | some _ => x
        | none =>
          match addressCheck (va : Int) 1 with
          | some e => (x.1, some (va, { cause := e, gpa := 0 }))
          | none =>
            match x.1.access (s.vdiOf t.unit) need va with
            | (s1, .error e) => (s1, some (va, e))
            | (s1, .ok _) => (s1, none)) (s, none)
  | _, _ => (s, none)

/-- A fetch fails its checks: the path faults as a whole at the word that it would begin with, before the word is read; a cue stream's
point stops and a sheet ends (log entry 17). -/
def State.fetchTrap (s : State) (t : Turn) (c : Ctx) (va : Nat) (e : Xerr) : State :=
  let p := c.path t.slotB
  let pos := groupPos p
  let s1 : State := { s with stamp := s.stamp + 1,
                             cur := { Cur.idle with turn := t, pos := pos, nextPos := pos, after := pos, em := p.em, fm := p.fm, win := p.win,
                                                    group := s.stamp + 1, stamp := s.stamp + 1, tag := s.stamp + 1 } }
  match t.unit with
  | .board v q => s1.sheetFault v q e.cause 0
  | .cue _ _ => s1.stopUnit t.unit 2 e.cause (posDword pos none) 0
  | _ => if s.mayFault t.unit p then s.deferGroup t else s1.faultHere s1.issue c .nop va e

/-- Whether the group of a path waits for the word that leads it. -/
def State.led (s : State) (t : Turn) : Bool := (s.holdersAt t).any (fun h => h.leads)

/-- A unit's next group issues; `ans` is the word that has led it. -/
def State.runGroup (run : Run) (s : State) (t : Turn) (c : Ctx) (ans : Option Held) : Host.Outcome State Fault Refusal :=
  match (s.clearValid t.unit).fetchCheck t c with
  | (s0, some (va, e)) => .next (s0.fetchTrap t c va e)
  | (s0, none) =>
  match s0.issueGroup run t c ans with
  | .next s1 => .next (if s1.led t then s1 else s1.afterGroup t (c.path t.slotB).pid (s.vdiOf t.unit) (c.path t.slotB).em (s.nextWords t.unit t.slotB c))
  | o => o

/-- The group of a path goes on with the word that leads it: the word is tried again, and once its check has passed the group
issues, when nothing else holds it back (R70, R80). -/
def State.runLed (run : Run) (s : State) (t : Turn) (c : Ctx) (h : Held) : Host.Outcome State Fault Refusal :=
  match s.tryLead run t c h with
  | some o => o
  | none =>
    let p : Path := { c.path t.slotB with held := none, also := [] }
    let c1 := c.setPath t.slotB p
    let s1 := s.setCtx t.unit c1
    if s1.groupHeld t.unit c1 (s1.pathIssue t.unit t.slotB p) p (s1.nextWords t.unit t.slotB c1) then .next s
    else
      match s1.runGroup run t c1 (some h) with
      | .next s2 => .next (if s2.cur.trap.isSome ∧ s1.mayFault t.unit p then s else s2)
      | o => o

/-- One turn of a unit; a unit that is no longer there, or whose state has changed since it was chosen, does
nothing. -/
def State.turn (run : Run) (s : State) (t : Turn) : Host.Outcome State Fault Refusal :=
  match s.ctxs.find t.unit with
  | some c =>
    if t.resume then
      if s.unitRuns t.unit && s.resumes t.unit t.slotB c then
        match (c.path t.slotB).held with
        | some h => if h.leads then s.runLed run t c h else s.resumePath run t c
        | none => s.resumePath run t c
      else .next s
    else if s.eligible t.unit t.slotB then s.runGroup run t c none else .next s
  | none =>
    match s.hands.find t.unit with
    | some h => if h.started && !h.exited then s.runHand run t h else .next s
    | none => .next s

/-! ### The end of a cycle -/

/-- Whether a troupe has an access that is not performed (R56, R114). -/
def State.troupeAccessing (s : State) (t : Troupe) : Bool :=
  s.fars.any (fun f => t.units.contains f.unit && !f.performed && !decide (f.cls = .x))

/-- The conditions of R56 for a point, and the writes of its coalescing buffers: the retirement is recorded in the next
cycle. -/
def State.checkRetire (s : State) (p : Point) : State :=
  let ends := match p.phase with | .running => true | .draining _ _ => true | _ => false
  if ends && p.retireAt.isNone && !p.members.isEmpty && (s.members p).all s.troupeEnded then
    let s1 := (s.members p).foldl (fun (x : State) t => x.drainWhere t (fun _ => true)) s
    if (s1.members p).any s1.troupeAccessing then s1
    else (s1.onPoint p.slot p.point (fun q => { q with retireAt := some (s.cycle + 1) }))
  else s

/-- A point that HALT has stopped, once its accesses are performed: Proscenium flushes it to its last scene or ends it
(R259, R297, R346). -/
def State.checkHalt (s : State) (p : Point) : State :=
  let stops (kind : Nat) (u : UnitId) (cause : Cause) (pos info : Dword) : State :=
    if (s.members p).any s.troupeAccessing then s
    else
      let s1 : State := { s with fresh := s.fresh + 1 }
      match Config.pick s.fresh % 3 with
      | 0 => s1.flushPoint p
      | 1 => s1.stopPoint p kind cause u.place.1 u.place.2 u.code pos info
      | _ => s1.endTenant p.vdi
  match p.phase with
  | .halted u pos word => stops 7 u .none (BitVec.ofNat 64 pos) (word.setWidth 64)
  | .trapped u cause pos info => stops 1 u cause pos info
  | _ => s

/-- The watchdog count of a point rises in this cycle (R302). -/
def State.watches (s : State) (p : Point) : Bool :=
  (match p.phase with | .saving _ _ => false | .suspended => false | _ => true) &&
    !((s.vdis.find p.vdi).map (fun (v : Vdi) => decide (v.timeBudget ≤ 0) || decide (v.energyBudget ≤ 0))).getD false &&
    !(s.members p).any (fun t => t.quads.any (fun q => s.throttled (quadKey t.core q))) &&
    !((s.members p).any s.troupeAccessing && Config.limited (p.members.headD 0) s.cycle)

/-- Watchdog counts at the end of a cycle, and those that reach their limit. -/
def State.watchPoints (s : State) : State :=
  let ps := s.points.map (fun (p : Point) => if s.watches p then { p with watch := p.watch + 1 } else p)
  let due := ps.filter (fun p =>
    let lim := 65536 * ((s.vdis.find p.vdi).map (fun (v : Vdi) => v.wdlim)).getD 0
    decide (0 < lim) && decide (lim ≤ p.watch))
  due.foldl (fun (x : State) p => x.soon { kind := .watchdogExpire, a := p.slot, point := p.point }) { s with points := ps }

/-- Saves whose second step is done are written, and drains that have lasted too long end (R290, R291). -/
def State.checkPreempt (s : State) (p : Point) : State :=
  match p.phase with
  | .draining l at_ => if at_ + 2 * l ≤ s.cycle + 1 then s.soon { kind := .drainTimeout, a := p.slot, point := p.point } else s
  | .saving _ _ =>
    let e : Event := { kind := .saveComplete, a := p.slot, point := p.point }
    if s.saveReady p && !s.due.any (fun d => decide (d.2 = e)) then s.later e else s
  | _ => s

/-- Bytes of scratchpad that the matrix words that complete in this cycle have read and written (R299). -/
def State.matrixBytes (s : State) (vdi : Nat) : Nat :=
  (s.troupes.map (fun (t : Nat × Troupe) =>
    if t.2.vdi = vdi then
      ((t.2.mx.ops.filter (fun (o : MatOp) => decide (o.due = some s.cycle))).map (fun (o : MatOp) =>
        ((o.reads ++ o.writes).map (fun (r : Res) => match r with | .area lo hi => hi - lo | _ => 0)).sum)).sum
    else 0)).sum

/-- Bytes of the flits that a tenant's endpoint has sent and received since they were last counted, 256 each (R299, R317). -/
def State.fenpinBytes (s : State) (v : Vdi) : Nat :=
  256 * (((s.fabric.sent.drop s.fabric.counted).filter (fun (f : Option Nat × Flit) => decide (f.2.src.toNat = v.img.endpoint))).length +
    (s.fabric.arrived.filter (fun d => decide (d = v.img.endpoint))).length)

/-- Counters of a cycle (R256, R299): placed points, quadrant-cycles, matrix operands and flits. -/
def State.countCycle (s : State) : State :=
  let vdis := s.vdis.map (fun (e : Nat × Vdi) =>
    let n := s.placedQuads e.1
    let add (m : Map Nat Dword) (k n : Nat) : Map Nat Dword := m.put k ((m.find k).getD 0 + BitVec.ofNat 64 n)
    let p1 := if n = 0 then e.2.perf else add (add e.2.perf 0 1) 40 n
    let p3 := if s.matrixBytes e.1 = 0 then p1 else add p1 32 (s.matrixBytes e.1)
    let p4 := if s.fenpinBytes e.2 = 0 then p3 else add p3 37 (s.fenpinBytes e.2)
    (e.1, { e.2 with perf := p4 }))
  { s with vdis := vdis, fabric := { s.fabric with counted := s.fabric.sent.length, arrived := [] },
           hands := s.hands.map (fun (e : UnitId × Hand) => (e.1, if e.2.started && !e.2.exited then { e.2 with mcycle := e.2.mcycle + 1 } else e.2)) }

/-- Microseconds that end between two device times (R301). -/
def microseconds (before after : Nat) : Nat := after / 1000 - before / 1000

/-- Timers that run out by the device time `dt` and the next cycle: budgets, ageing, the fabric, the authority. -/
def State.timers (s : State) (dt : Dword) : List Event :=
  let ticks := List.replicate (microseconds s.dt.toNat dt.toNat) ({ kind := .budgetTick } : Event)
  let aged := s.vdis.flatMap (fun (v : Nat × Vdi) => v.2.queues.filterMap (fun (q : Nat × Queue) =>
    match q.2.readySince with
    | some c => if c + 65536 * (q.2.aged + 1) ≤ s.cycle + 1 then some ({ kind := .contextPriorityAging, a := v.1, b := q.1 } : Event) else none
    | none => none))
  let t : State := { s with dt := dt }
  let resend := (s.fabric.unacked.filter (fun u => decide (100000 ≤ (dt - u.last).toNat))).map (fun u =>
    ({ kind := .flitResend, a := u.flit.seq.toNat, b := u.flit.dst.toNat } : Event))
  let late := (s.fabric.waiting.filter (fun w => decide (collToNs ≤ (dt - w.1).toNat))).map (fun (w : Dword × Event) => w.2)
  let silent := (s.coll.posts.filter (fun (e : Nat × Post) => t.silent e.2 && e.2.failed.isNone)).map (fun (e : Nat × Post) =>
    ({ kind := .collectiveTimeout, a := e.1, b := 5 } : Event))
  let homes := ((s.coll.posts.filter (fun (e : Nat × Post) => decide (e.2.state = .posted) && t.homeSilent e.2.group)).map (fun (e : Nat × Post) => e.2.group)).dedup
  let remap := if s.fabric.state = 1#2 ∧ 1000000000 ≤ (dt - s.fabric.remapAt).toNat then [({ kind := .remapTimeout } : Event)] else []
  let sent := s.secure.restore.toList.map (fun (r : Restore) => r.sentAt) ++ s.secure.sealing.toList.map (fun (q : Seal) => q.sentAt)
  let auth := if sent.any (fun x => decide (1000000000 ≤ (dt - x).toNat)) then [({ kind := .authorityTimeout } : Event)] else []
  ticks ++ aged ++ resend ++ late ++ silent ++ homes.map (fun g => ({ kind := .homeSwitchTimeout, a := g } : Event)) ++ remap ++ auth

/-- Insert a point among points in ascending lexicographic order. -/
def insertPoint (p : Point) : List Point → List Point
  | [] => [p]
  | q :: qs => if keyLess q.point p.point then q :: insertPoint p qs else p :: q :: qs

/-- The retirements that are recorded in this cycle, in ascending lexicographic order of their points (R51, R56). -/
def State.retirements (s : State) : List Event :=
  let due := s.points.filter (fun p => match p.retireAt with | some c => decide (c ≤ s.cycle) | none => false)
  (due.foldr insertPoint []).map (fun (p : Point) => { kind := .pointRetire, a := p.slot, point := p.point })

/-- The Nest Release Unit's work of a cycle: a release and one key for each nest (R46, R50), on the table as the cycle found it
and as a NEST.BOUND of the cycle has moved it (R53); then the retirements (R50, R51). -/
def State.nestWork (s : State) : List Event :=
  if s.nests.isEmpty || s.stopped.contains 1072 then []
  else ({ kind := .pointRelease } : Event) :: (s.nests.filter (fun (n : Nat × Nest) => !n.2.stopped)).map (fun (n : Nat × Nest) => ({ kind := .rowActivate, a := n.1 } : Event)) ++
    s.retirements

/-- The Nest Release Unit works once the units of the cycle have issued, and then the sensors are read. -/
def State.beginNests (s : State) : State := { s with nestTurn := true, agenda := s.nestWork ++ s.sense }

/-- What comes to hold by the end of a cycle. -/
def State.endCycle (s : State) : State :=
  let s1 := s.points.foldl State.checkRetire s
  let s2 := s1.points.foldl State.checkHalt s1
  let s3 := s2.points.foldl State.checkPreempt s2.watchPoints
  (s3.transmit.countCycle).tryInstall

/-- The next cycle: device time moves on, rows that were pending open, and the events of the cycle are at hand. -/
def State.tick (s : State) : State :=
  let s1 := s.endCycle
  let now := s1.cycle + 1
  let dt := s1.dt + BitVec.ofNat 64 (Config.tickNs now)
  let at_ (l : List (Nat × Event)) : List Event := (l.filter (fun e => decide (e.1 ≤ now))).map (fun e => e.2)
  let after (l : List (Nat × Event)) : List (Nat × Event) := l.filter (fun e => decide (now < e.1))
  let s2 := if s1.stopped.contains 1072 then s1 else s1.openRows
  { s2 with cycle := now, dt := dt, scheduled := false, nestTurn := false,
            agenda := s1.agenda ++ at_ s1.due ++ at_ s1.inputs ++ s1.timers dt, due := after s1.due, inputs := after s1.inputs }

/-- One step: the next event of the agenda, or in the next cycle when it waits for a stopped clock (R332), else the next unit that issues in this cycle, else the choice of the
units, else the work of the Nest Release Unit, else the next cycle. -/
def State.stepWith (run : Run) (s : State) : Host.Outcome State Fault Refusal :=
  match s.agenda with
  | e :: es => if s.waitsForClock e then .next ({ s with agenda := es }.atCycle (s.cycle + 1) e) else run e.kind { s with agenda := es, ev := e }
  | [] =>
    match s.issueQ with
    | t :: ts => { s with issueQ := ts }.turn run t
    | [] => .next (if !s.scheduled then s.schedule else if !s.nestTurn then s.beginNests else s.tick)

end Sys2Proof.Machine
end

