-- ==== Sys2Proof/Machine/Dispatch.lean ====
section
/-! DEFINITION. The one dispatch of the machine: every step of spec/opcode_table.json to its meaning. -/

namespace Sys2Proof.Machine

/-- One instruction or event. -/
def exec (i : Instr) (s : State) : Host.Outcome State Fault Refusal :=
  match i with
  | .stall n => Sys2Proof.Machine.execStall n s
  | .movi d imm => Sys2Proof.Machine.execMovi d imm s
  | .movhi d imm => Sys2Proof.Machine.execMovhi d imm s
  | .limmI32 d imm => Sys2Proof.Machine.execLimmI32 d imm s
  | .limmN32 d imm => Sys2Proof.Machine.execLimmN32 d imm s
  | .add d a b => Sys2Proof.Machine.execAdd d a b s
  | .sub d a b => Sys2Proof.Machine.execSub d a b s
  | .and d a b => Sys2Proof.Machine.execAnd d a b s
  | .or d a b => Sys2Proof.Machine.execOr d a b s
  | .xor d a b => Sys2Proof.Machine.execXor d a b s
  | .andn d a b => Sys2Proof.Machine.execAndn d a b s
  | .shl d a b => Sys2Proof.Machine.execShl d a b s
  | .shr d a b => Sys2Proof.Machine.execShr d a b s
  | .sra d a b => Sys2Proof.Machine.execSra d a b s
  | .rotl d a b => Sys2Proof.Machine.execRotl d a b s
  | .min d a b => Sys2Proof.Machine.execMin d a b s
  | .max d a b => Sys2Proof.Machine.execMax d a b s
  | .minu d a b => Sys2Proof.Machine.execMinu d a b s
  | .maxu d a b => Sys2Proof.Machine.execMaxu d a b s
  | .addc d a b => Sys2Proof.Machine.execAddc d a b s
  | .subc d a b => Sys2Proof.Machine.execSubc d a b s
  | .addImm d a imm => Sys2Proof.Machine.execAddImm d a imm s
  | .subImm d a imm => Sys2Proof.Machine.execSubImm d a imm s
  | .andImm d a imm => Sys2Proof.Machine.execAndImm d a imm s
  | .orImm d a imm => Sys2Proof.Machine.execOrImm d a imm s
  | .xorImm d a imm => Sys2Proof.Machine.execXorImm d a imm s
  | .andnImm d a imm => Sys2Proof.Machine.execAndnImm d a imm s
  | .shlImm d a imm => Sys2Proof.Machine.execShlImm d a imm s
  | .shrImm d a imm => Sys2Proof.Machine.execShrImm d a imm s
  | .sraImm d a imm => Sys2Proof.Machine.execSraImm d a imm s
  | .rotlImm d a imm => Sys2Proof.Machine.execRotlImm d a imm s
  | .minImm d a imm => Sys2Proof.Machine.execMinImm d a imm s
  | .maxImm d a imm => Sys2Proof.Machine.execMaxImm d a imm s
  | .minuImm d a imm => Sys2Proof.Machine.execMinuImm d a imm s
  | .maxuImm d a imm => Sys2Proof.Machine.execMaxuImm d a imm s
  | .mul d a b => Sys2Proof.Machine.execMul d a b s
  | .mulh d a b => Sys2Proof.Machine.execMulh d a b s
  | .mulhu d a b => Sys2Proof.Machine.execMulhu d a b s
  | .div d a b => Sys2Proof.Machine.execDiv d a b s
  | .divu d a b => Sys2Proof.Machine.execDivu d a b s
  | .rem d a b => Sys2Proof.Machine.execRem d a b s
  | .remu d a b => Sys2Proof.Machine.execRemu d a b s
  | .clz d a => Sys2Proof.Machine.execClz d a s
  | .popc d a => Sys2Proof.Machine.execPopc d a s
  | .brev d a => Sys2Proof.Machine.execBrev d a s
  | .sext d a n => Sys2Proof.Machine.execSext d a n s
  | .zext d a n => Sys2Proof.Machine.execZext d a n s
  | .cmp d a b f => Sys2Proof.Machine.execCmp d a b f s
  | .sel d a b x => Sys2Proof.Machine.execSel d a b x s
  | .bra o => Sys2Proof.Machine.execBra o s
  | .call o => Sys2Proof.Machine.execCall o s
  | .brcNz a o => Sys2Proof.Machine.execBrcNz a o s
  | .brcZ a o => Sys2Proof.Machine.execBrcZ a o s
  | .brmNone o => Sys2Proof.Machine.execBrmNone o s
  | .brmAny o => Sys2Proof.Machine.execBrmAny o s
  | .brmAll o => Sys2Proof.Machine.execBrmAll o s
  | .ret a => Sys2Proof.Machine.execRet a s
  | .fork a o => Sys2Proof.Machine.execFork a o s
  | .mcall m x y z => Sys2Proof.Machine.execMcall m x y z s
  | .setem a => Sys2Proof.Machine.execSetem a s
  | .getem d => Sys2Proof.Machine.execGetem d s
  | .setfmt a => Sys2Proof.Machine.execSetfmt a s
  | .getfmt d => Sys2Proof.Machine.execGetfmt d s
  | .scene a n => Sys2Proof.Machine.execScene a n s
  | .vadd d a b => Sys2Proof.Machine.execVadd d a b s
  | .vsub d a b => Sys2Proof.Machine.execVsub d a b s
  | .vmul d a b => Sys2Proof.Machine.execVmul d a b s
  | .vmulh d a b => Sys2Proof.Machine.execVmulh d a b s
  | .vand d a b => Sys2Proof.Machine.execVand d a b s
  | .vor d a b => Sys2Proof.Machine.execVor d a b s
  | .vxor d a b => Sys2Proof.Machine.execVxor d a b s
  | .vshl d a b => Sys2Proof.Machine.execVshl d a b s
  | .vshr d a b => Sys2Proof.Machine.execVshr d a b s
  | .vsra d a b => Sys2Proof.Machine.execVsra d a b s
  | .vmin d a b => Sys2Proof.Machine.execVmin d a b s
  | .vmax d a b => Sys2Proof.Machine.execVmax d a b s
  | .vminu d a b => Sys2Proof.Machine.execVminu d a b s
  | .vmaxu d a b => Sys2Proof.Machine.execVmaxu d a b s
  | .vaddsat d a b => Sys2Proof.Machine.execVaddsat d a b s
  | .vsubsat d a b => Sys2Proof.Machine.execVsubsat d a b s
  | .vaddImm d a imm => Sys2Proof.Machine.execVaddImm d a imm s
  | .vsubImm d a imm => Sys2Proof.Machine.execVsubImm d a imm s
  | .vmulImm d a imm => Sys2Proof.Machine.execVmulImm d a imm s
  | .vandImm d a imm => Sys2Proof.Machine.execVandImm d a imm s
  | .vorImm d a imm => Sys2Proof.Machine.execVorImm d a imm s
  | .vshlImm d a imm => Sys2Proof.Machine.execVshlImm d a imm s
  | .vshrImm d a imm => Sys2Proof.Machine.execVshrImm d a imm s
  | .vsraImm d a imm => Sys2Proof.Machine.execVsraImm d a imm s
  | .vmad d a b => Sys2Proof.Machine.execVmad d a b s
  | .vabs d a => Sys2Proof.Machine.execVabs d a s
  | .vneg d a => Sys2Proof.Machine.execVneg d a s
  | .vclz d a => Sys2Proof.Machine.execVclz d a s
  | .vpopc d a => Sys2Proof.Machine.execVpopc d a s
  | .vdot4I8 d a b => Sys2Proof.Machine.execVdot4I8 d a b s
  | .vdot4N8 d a b => Sys2Proof.Machine.execVdot4N8 d a b s
  | .vcmp d a b f => Sys2Proof.Machine.execVcmp d a b f s
  | .vfadd d a b => Sys2Proof.Machine.execVfadd d a b s
  | .vfsub d a b => Sys2Proof.Machine.execVfsub d a b s
  | .vfmul d a b => Sys2Proof.Machine.execVfmul d a b s
  | .vfmin d a b => Sys2Proof.Machine.execVfmin d a b s
  | .vfmax d a b => Sys2Proof.Machine.execVfmax d a b s
  | .vfcopysign d a b => Sys2Proof.Machine.execVfcopysign d a b s
  | .vfma d a b => Sys2Proof.Machine.execVfma d a b s
  | .vfms d a b => Sys2Proof.Machine.execVfms d a b s
  | .vfnma d a b => Sys2Proof.Machine.execVfnma d a b s
  | .vfcmp d a b f => Sys2Proof.Machine.execVfcmp d a b f s
  | .vfrcp d a => Sys2Proof.Machine.execVfrcp d a s
  | .vfrsq d a => Sys2Proof.Machine.execVfrsq d a s
  | .vfsqrt d a => Sys2Proof.Machine.execVfsqrt d a s
  | .vfexp2 d a => Sys2Proof.Machine.execVfexp2 d a s
  | .vflog2 d a => Sys2Proof.Machine.execVflog2 d a s
  | .vftanh d a => Sys2Proof.Machine.execVftanh d a s
  | .vfsig d a => Sys2Proof.Machine.execVfsig d a s
  | .vfabs d a => Sys2Proof.Machine.execVfabs d a s
  | .vfneg d a => Sys2Proof.Machine.execVfneg d a s
  | .vcvt d a x y r => Sys2Proof.Machine.execVcvt d a x y r s
  | .vpack d a b w => Sys2Proof.Machine.execVpack d a b w s
  | .vunpack d a k w => Sys2Proof.Machine.execVunpack d a k w s
  | .vsel d a b x => Sys2Proof.Machine.execVsel d a b x s
  | .vshuf d a b => Sys2Proof.Machine.execVshuf d a b s
  | .vbcast d a k => Sys2Proof.Machine.execVbcast d a k s
  | .vlaneid d => Sys2Proof.Machine.execVlaneid d s
  | .vaff d a b => Sys2Proof.Machine.execVaff d a b s
  | .vaffImm d imm j => Sys2Proof.Machine.execVaffImm d imm j s
  | .vreduce d a p => Sys2Proof.Machine.execVreduce d a p s
  | .vscanInclusive d a p => Sys2Proof.Machine.execVscanInclusive d a p s
  | .vscanExclusive d a p => Sys2Proof.Machine.execVscanExclusive d a p s
  | .ballot d a => Sys2Proof.Machine.execBallot d a s
  | .vrng d a b => Sys2Proof.Machine.execVrng d a b s
  | .vmovs d a => Sys2Proof.Machine.execVmovs d a s
  | .smovv d a k => Sys2Proof.Machine.execSmovv d a k s
  | .lds d a b z => Sys2Proof.Machine.execLds d a b z s
  | .sts d a b z => Sys2Proof.Machine.execSts d a b z s
  | .ldsx d a x y o => Sys2Proof.Machine.execLdsx d a x y o s
  | .stsx d a x y o => Sys2Proof.Machine.execStsx d a x y o s
  | .atoms d a p o e x => Sys2Proof.Machine.execAtoms d a p o e x s
  | .ldg d a t o e => Sys2Proof.Machine.execLdg d a t o e s
  | .ldgN16 d a t o e => Sys2Proof.Machine.execLdgN16 d a t o e s
  | .ldgN8 d a t o e => Sys2Proof.Machine.execLdgN8 d a t o e s
  | .stg d a t o e => Sys2Proof.Machine.execStg d a t o e s
  | .stg16 d a t o e => Sys2Proof.Machine.execStg16 d a t o e s
  | .stg8 d a t o e => Sys2Proof.Machine.execStg8 d a t o e s
  | .poll d a t o e => Sys2Proof.Machine.execPoll d a t o e s
  | .atom d a t o e p => Sys2Proof.Machine.execAtom d a t o e p s
  | .fence e => Sys2Proof.Machine.execFence e s
  | .waitc n l => Sys2Proof.Machine.execWaitc n l s
  | .txl t a => Sys2Proof.Machine.execTxl t a s
  | .ringTicket d n => Sys2Proof.Machine.execRingTicket d n s
  | .ringFill a n => Sys2Proof.Machine.execRingFill a n s
  | .ringTake d n => Sys2Proof.Machine.execRingTake d n s
  | .ringFree n => Sys2Proof.Machine.execRingFree n s
  | .thset r n q h => Sys2Proof.Machine.execThset r n q h s
  | .thget d n q h => Sys2Proof.Machine.execThget d n q h s
  | .tld a b h => Sys2Proof.Machine.execTld a b h s
  | .tst a b h => Sys2Proof.Machine.execTst a b h s
  | .barArv n => Sys2Proof.Machine.execBarArv n s
  | .barWait n => Sys2Proof.Machine.execBarWait n s
  | .cueBar n => Sys2Proof.Machine.execCueBar n s
  | .semadd a k => Sys2Proof.Machine.execSemadd a k s
  | .semwait a k => Sys2Proof.Machine.execSemwait a k s
  | .nestLaunch a => Sys2Proof.Machine.execNestLaunch a s
  | .nestBound a b => Sys2Proof.Machine.execNestBound a b s
  | .spawn d a b => Sys2Proof.Machine.execSpawn d a b s
  | .bin a b => Sys2Proof.Machine.execBin a b s
  | .collPost d a => Sys2Proof.Machine.execCollPost d a s
  | .collTest d a => Sys2Proof.Machine.execCollTest d a s
  | .collLeave a => Sys2Proof.Machine.execCollLeave a s
  | .mldw d => Sys2Proof.Machine.execMldw d s
  | .mldwH d => Sys2Proof.Machine.execMldwH d s
  | .mmao d a b => Sys2Proof.Machine.execMmao d a b s
  | .mmaoH d a b => Sys2Proof.Machine.execMmaoH d a b s
  | .mmaw d a b => Sys2Proof.Machine.execMmaw d a b s
  | .mmawH d a b => Sys2Proof.Machine.execMmawH d a b s
  | .msho d => Sys2Proof.Machine.execMsho d s
  | .macq d a => Sys2Proof.Machine.execMacq d a s
  | .mrel d => Sys2Proof.Machine.execMrel d s
  | .mfuse d => Sys2Proof.Machine.execMfuse d s
  | .gcfg d => Sys2Proof.Machine.execGcfg d s
  | .lscan d a b => Sys2Proof.Machine.execLscan d a b s
  | .mstatSt d => Sys2Proof.Machine.execMstatSt d s
  | .mstatClr d => Sys2Proof.Machine.execMstatClr d s
  | .mstatSetfmt d => Sys2Proof.Machine.execMstatSetfmt d s
  | .mstatGetfmt d => Sys2Proof.Machine.execMstatGetfmt d s
  | .mstatState d => Sys2Proof.Machine.execMstatState d s
  | .cbSubmit a b => Sys2Proof.Machine.execCbSubmit a b s
  | .cbSemwait a k => Sys2Proof.Machine.execCbSemwait a k s
  | .cbSemadd a k => Sys2Proof.Machine.execCbSemadd a k s
  | .cbIrq v => Sys2Proof.Machine.execCbIrq v s
  | .trap k => Sys2Proof.Machine.execTrap k s
  | .csrr d n => Sys2Proof.Machine.execCsrr d n s
  | .csrw a n => Sys2Proof.Machine.execCsrw a n s
  | .hmsgRead d => Sys2Proof.Machine.execHmsgRead d s
  | .tlbinv a => Sys2Proof.Machine.execTlbinv a s
  | .tlbinvS2 a => Sys2Proof.Machine.execTlbinvS2 a s
  | .mappg d a b => Sys2Proof.Machine.execMappg d a b s
  | .mdef a b => Sys2Proof.Machine.execMdef a b s
  | .time d => Sys2Proof.Machine.execTime d s
  | .perfr d a => Sys2Proof.Machine.execPerfr d a s
  | .frec d a b => Sys2Proof.Machine.execFrec d a b s
  | .unpark a => Sys2Proof.Machine.execUnpark a s
  | .smsg a b => Sys2Proof.Machine.execSmsg a b s
  | .pool n => Sys2Proof.Machine.execPool n s
  | .tcopyIn h b a => Sys2Proof.Machine.execTcopyIn h b a s
  | .tcopyOut h b a => Sys2Proof.Machine.execTcopyOut h b a s
  | .xhSet k h b a => Sys2Proof.Machine.execXhSet k h b a s
  | .xwait a => Sys2Proof.Machine.execXwait a s
  | .xfence e => Sys2Proof.Machine.execXfence e s
  | .xbin b a => Sys2Proof.Machine.execXbin b a s
  | .xsemAdd b a => Sys2Proof.Machine.execXsemAdd b a s
  | .xsemWait b a => Sys2Proof.Machine.execXsemWait b a s
  | .rngTkt n d => Sys2Proof.Machine.execRngTkt n d s
  | .rngPut n a => Sys2Proof.Machine.execRngPut n a s
  | .rngGet n d => Sys2Proof.Machine.execRngGet n d s
  | .rngRel n => Sys2Proof.Machine.execRngRel n s
  | .stagehandInstruction imm compressed => Sys2Proof.Machine.execStagehandInstruction imm compressed s
  | .reservedEncodingWord w => Sys2Proof.Machine.execReservedEncodingWord w s
  | .nop => Sys2Proof.Machine.execNop s
  | .exit => Sys2Proof.Machine.execExit s
  | .join => Sys2Proof.Machine.execJoin s
  | .yield => Sys2Proof.Machine.execYield s
  | .sceneCommitComplete => Sys2Proof.Machine.execSceneCommitComplete s
  | .mflip => Sys2Proof.Machine.execMflip s
  | .mzero => Sys2Proof.Machine.execMzero s
  | .matrixWordComplete => Sys2Proof.Machine.execMatrixWordComplete s
  | .handleFetchComplete => Sys2Proof.Machine.execHandleFetchComplete s
  | .eret => Sys2Proof.Machine.execEret s
  | .tlbinvAll => Sys2Proof.Machine.execTlbinvAll s
  | .tlbinvS2All => Sys2Proof.Machine.execTlbinvS2All s
  | .smsgDeliver => Sys2Proof.Machine.execSmsgDeliver s
  | .halt => Sys2Proof.Machine.execHalt s
  | .xexit => Sys2Proof.Machine.execXexit s
  | .stagehandTranslationFault => Sys2Proof.Machine.execStagehandTranslationFault s
  | .usherWindowClose => Sys2Proof.Machine.execUsherWindowClose s
  | .coalesceEntryAgeDrain => Sys2Proof.Machine.execCoalesceEntryAgeDrain s
  | .farLoadReturn => Sys2Proof.Machine.execFarLoadReturn s
  | .farStorePerform => Sys2Proof.Machine.execFarStorePerform s
  | .atomResultReturn => Sys2Proof.Machine.execAtomResultReturn s
  | .remoteAtomsReturn => Sys2Proof.Machine.execRemoteAtomsReturn s
  | .tileCopyComplete => Sys2Proof.Machine.execTileCopyComplete s
  | .translationWalkComplete => Sys2Proof.Machine.execTranslationWalkComplete s
  | .farAccessFault => Sys2Proof.Machine.execFarAccessFault s
  | .heldWriteRetranslate => Sys2Proof.Machine.execHeldWriteRetranslate s
  | .queueEnable => Sys2Proof.Machine.execQueueEnable s
  | .queueDisable => Sys2Proof.Machine.execQueueDisable s
  | .qcfgConfigure => Sys2Proof.Machine.execQcfgConfigure s
  | .qtailWrite => Sys2Proof.Machine.execQtailWrite s
  | .entryAccept => Sys2Proof.Machine.execEntryAccept s
  | .qcackWrite => Sys2Proof.Machine.execQcackWrite s
  | .completionWrite => Sys2Proof.Machine.execCompletionWrite s
  | .contextDispatch => Sys2Proof.Machine.execContextDispatch s
  | .contextPriorityAging => Sys2Proof.Machine.execContextPriorityAging s
  | .semaphoreHostWrite => Sys2Proof.Machine.execSemaphoreHostWrite s
  | .registerWrite => Sys2Proof.Machine.execRegisterWrite s
  | .fllostClear => Sys2Proof.Machine.execFllostClear s
  | .fpstatClearDrops => Sys2Proof.Machine.execFpstatClearDrops s
  | .cpostWrite => Sys2Proof.Machine.execCpostWrite s
  | .flashErase => Sys2Proof.Machine.execFlashErase s
  | .flashProgram => Sys2Proof.Machine.execFlashProgram s
  | .flashVerify => Sys2Proof.Machine.execFlashVerify s
  | .flashResetModule => Sys2Proof.Machine.execFlashResetModule s
  | .enterRecovery => Sys2Proof.Machine.execEnterRecovery s
  | .flashCommandComplete => Sys2Proof.Machine.execFlashCommandComplete s
  | .functionLevelReset => Sys2Proof.Machine.execFunctionLevelReset s
  | .busMasterEnable => Sys2Proof.Machine.execBusMasterEnable s
  | .moduleReset => Sys2Proof.Machine.execModuleReset s
  | .prosceniumTimeout => Sys2Proof.Machine.execProsceniumTimeout s
  | .getVersion => Sys2Proof.Machine.execGetVersion s
  | .getCapabilities => Sys2Proof.Machine.execGetCapabilities s
  | .negotiateAlgorithms => Sys2Proof.Machine.execNegotiateAlgorithms s
  | .getDigests => Sys2Proof.Machine.execGetDigests s
  | .getCertificate => Sys2Proof.Machine.execGetCertificate s
  | .challenge => Sys2Proof.Machine.execChallenge s
  | .getMeasurements => Sys2Proof.Machine.execGetMeasurements s
  | .keyExchange => Sys2Proof.Machine.execKeyExchange s
  | .finish => Sys2Proof.Machine.execFinish s
  | .endSession => Sys2Proof.Machine.execEndSession s
  | .tenantLoad => Sys2Proof.Machine.execTenantLoad s
  | .partitionAddQuadrant => Sys2Proof.Machine.execPartitionAddQuadrant s
  | .sealRequest => Sys2Proof.Machine.execSealRequest s
  | .restoreImage => Sys2Proof.Machine.execRestoreImage s
  | .authorityTimeout => Sys2Proof.Machine.execAuthorityTimeout s
  | .flitResend => Sys2Proof.Machine.execFlitResend s
  | .dataFlit => Sys2Proof.Machine.execDataFlit s
  | .ticketFlit => Sys2Proof.Machine.execTicketFlit s
  | .horizonFlit => Sys2Proof.Machine.execHorizonFlit s
  | .ackFlit => Sys2Proof.Machine.execAckFlit s
  | .counterAuthorityFlit => Sys2Proof.Machine.execCounterAuthorityFlit s
  | .managementFlit => Sys2Proof.Machine.execManagementFlit s
  | .reservedTypeFlit => Sys2Proof.Machine.execReservedTypeFlit s
  | .linkUp => Sys2Proof.Machine.execLinkUp s
  | .linkDown => Sys2Proof.Machine.execLinkDown s
  | .routeSwitchover => Sys2Proof.Machine.execRouteSwitchover s
  | .routeRetire => Sys2Proof.Machine.execRouteRetire s
  | .remapTimeout => Sys2Proof.Machine.execRemapTimeout s
  | .forceRouteRetire => Sys2Proof.Machine.execForceRouteRetire s
  | .collectiveStart => Sys2Proof.Machine.execCollectiveStart s
  | .collectiveComplete => Sys2Proof.Machine.execCollectiveComplete s
  | .collectiveAbort => Sys2Proof.Machine.execCollectiveAbort s
  | .collectiveTimeout => Sys2Proof.Machine.execCollectiveTimeout s
  | .homeSwitchTimeout => Sys2Proof.Machine.execHomeSwitchTimeout s
  | .nestSlotEntry => Sys2Proof.Machine.execNestSlotEntry s
  | .rowActivate => Sys2Proof.Machine.execRowActivate s
  | .pointRelease => Sys2Proof.Machine.execPointRelease s
  | .stagehandStart => Sys2Proof.Machine.execStagehandStart s
  | .pointRetire => Sys2Proof.Machine.execPointRetire s
  | .nestStopSlotFree => Sys2Proof.Machine.execNestStopSlotFree s
  | .preemptRequest => Sys2Proof.Machine.execPreemptRequest s
  | .saveComplete => Sys2Proof.Machine.execSaveComplete s
  | .saveWriteFault => Sys2Proof.Machine.execSaveWriteFault s
  | .saveRetry => Sys2Proof.Machine.execSaveRetry s
  | .drainTimeout => Sys2Proof.Machine.execDrainTimeout s
  | .restorePoint => Sys2Proof.Machine.execRestorePoint s
  | .budgetTick => Sys2Proof.Machine.execBudgetTick s
  | .watchdogExpire => Sys2Proof.Machine.execWatchdogExpire s
  | .sensorRefresh => Sys2Proof.Machine.execSensorRefresh s
  | .powerDidtSkip => Sys2Proof.Machine.execPowerDidtSkip s
  | .clockStopOvertemp => Sys2Proof.Machine.execClockStopOvertemp s
  | .clockRestart => Sys2Proof.Machine.execClockRestart s
  | .droopSkipEnd => Sys2Proof.Machine.execDroopSkipEnd s
  | .copyStart => Sys2Proof.Machine.execCopyStart s
  | .copyComplete => Sys2Proof.Machine.execCopyComplete s
  | .copyFault => Sys2Proof.Machine.execCopyFault s
  | .correctableError => Sys2Proof.Machine.execCorrectableError s
  | .uncorrectableError => Sys2Proof.Machine.execUncorrectableError s
  | .binAdditionPerformed => Sys2Proof.Machine.execBinAdditionPerformed s
  | .semaphoreAddAcknowledge => Sys2Proof.Machine.execSemaphoreAddAcknowledge s
  | .recordPresented => Sys2Proof.Machine.execRecordPresented s
  | .mappgComplete => Sys2Proof.Machine.execMappgComplete s
  | .mdefComplete => Sys2Proof.Machine.execMdefComplete s
  | .pageMoveStart => Sys2Proof.Machine.execPageMoveStart s
  | .partitionFaultClear => Sys2Proof.Machine.execPartitionFaultClear s
  | .stage2CannotRepair => Sys2Proof.Machine.execStage2CannotRepair s
  | .sliceStart => Sys2Proof.Machine.execSliceStart s
  | .expanderAddedOrRemoved => Sys2Proof.Machine.execExpanderAddedOrRemoved s
  | .referenceClockLoss => Sys2Proof.Machine.execReferenceClockLoss s

end Sys2Proof.Machine
end

