-- ==== Sys2Proof/Machine/Step.lean ====
section
/-! DEFINITION. The step of the machine, and a state that fetches a given instruction next. -/

namespace Sys2Proof.Machine

/-- One step: the next event of the agenda, or the next unit's group, or the choice of the units, or the next cycle. -/
def step (s : State) : Host.Outcome State Fault Refusal := s.stepWith exec

/-- `s` with an instruction stored where the next step fetches: a tenant whose code, or whose stagehand's instruction
store, begins with the words, on a placed point whose unit issues next (log entry 2). -/
def State.withFetchWord (s : State) (nbits w : Nat) : State := placeWord s nbits w

end Sys2Proof.Machine
end

