-- ==== Sys2Proof/Safety.lean ====
section
/-! DEFINITION. What a safe run is, and the terms that the claims use: the registers of the unit at issue, what a word
that writes one result changes, and what a word leaves alone. -/

namespace Sys2Proof

/-- A state in which the machine goes on: its step answers a next state. -/
def Machine.State.goesOn (s : Machine.State) : Prop := ∃ t, Machine.step s = .next t

/-- A run of `n` steps from `s` that meets no fault and no refusal. -/
def Machine.State.safeFor (s : Machine.State) (n : Nat) : Prop := ∃ t, core.run n s = .next t

/-- The Xstage instructions, which the stagehands' decoder reads (R263). -/
def Instr.isXstage : Instr → Bool
  | .tcopyIn _ _ _ => true
  | .tcopyOut _ _ _ => true
  | .xhSet _ _ _ _ => true
  | .xwait _ => true
  | .xfence _ => true
  | .xbin _ _ => true
  | .xsemAdd _ _ => true
  | .xsemWait _ _ => true
  | .xexit => true
  | .rngTkt _ _ => true
  | .rngPut _ _ => true
  | .rngGet _ _ => true
  | .rngRel _ => true
  | _ => false

/-- Global memory, the scratchpads, host memory, the flash and its buffer are in their canonical form. The stagehands' private stores are not
meant. -/
def Machine.State.canonical (s : Machine.State) : Prop :=
  s.mem.wf = true ∧ s.scratch.wf = true ∧ s.hostMem.wf = true ∧ s.flash.mem.wf = true ∧ s.flash.buffer.wf = true

end Sys2Proof

namespace Sys2Proof.Machine

/-- The unit of the word at issue. -/
abbrev State.unit (s : State) : UnitId := s.cur.turn.unit

/-- A word is at issue on a unit whose registers are `c`. -/
def State.issuing (s : State) (c : Ctx) : Prop := s.ctxs.find s.unit = some c

/-- The path of the word at issue. -/
def State.here (s : State) (c : Ctx) : Path := c.path s.cur.turn.slotB

/-- The window after a result (R11): the cue stream has none (R85). -/
def pushed (i : Issue) (lat : Nat) (x : WVal) (win : List WEnt) : List WEnt :=
  if i.kind = .cue then win else ({ val := x, ready := i.cycle + lat, before := i.win.map WEnt.val } :: win).take 8

/-- `c'` is `c` with the scalar result `x` of destination `d` and with `cf`: register `d`, when `d` names one, the path's
window and cf, and nothing else but the bookkeeping of latencies, of the undo log and of poison. -/
structure Ctx.ScalarResult (c c' : Ctx) (i : Issue) (lat : Nat) (d : Reg) (x : Dword) (cf : Bool) : Prop where
  result : d.toNat < 48 → c'.sreg d.toNat = x
  others : ∀ n, n ≠ d.toNat → c'.sreg n = c.sreg n
  path : c'.path i.slotB = { c.path i.slotB with cf := cf, win := pushed i lat (.scalar x) (c.path i.slotB).win }
  sibling : c'.path (!i.slotB) = c.path (!i.slotB)
  frame : c' = { c with s := c'.s, pend := c'.pend, undo := c'.undo, poisonS := c'.poisonS, a := c'.a, b := c'.b }

/-- `c'` is `c` with the vector result `x` of destination `d`, under the mask `em` of the issue: each active lane of
register `d`, when `d` names one, holds `x`, the inactive lanes are as they were; the window takes a value that agrees with
`x` in the active lanes; st is `st`. -/
structure Ctx.VectorResult (c c' : Ctx) (i : Issue) (lat : Nat) (d : Reg) (x : VVal) (st : BitVec 7) : Prop where
  active_ : d.toNat < 56 → ∀ l, l < 32 → active i.em l = true → (c'.vreg d.toNat).lane l = x.lane l
  inactive : ∀ l, l < 32 → active i.em l = false → (c'.vreg d.toNat).lane l = (c.vreg d.toNat).lane l
  others : ∀ n, n ≠ d.toNat → c'.vreg n = c.vreg n
  window : i.kind ≠ .cue → ∃ y, (c'.path i.slotB).win = pushed i lat (.vec y) (c.path i.slotB).win ∧
    ∀ l, l < 32 → active i.em l = true → y.lane l = x.lane l
  path : c'.path i.slotB = { c.path i.slotB with win := (c'.path i.slotB).win }
  sibling : c'.path (!i.slotB) = c.path (!i.slotB)
  frame : c' = { c with v := c'.v, pend := c'.pend, undo := c'.undo, poisonV := c'.poisonV, a := c'.a, b := c'.b, st := st }

/-- `i` completes at a unit whose registers are `c`, with a scalar result: the next state differs from `s` in the registers
of the unit at issue alone. -/
def State.givesScalar (s : State) (c : Ctx) (i : Instr) (lat : Nat) (d : Reg) (x : Dword) (cf : Bool) : Prop :=
  ∃ c', exec i s = .next (s.setCtx s.unit c') ∧ c.ScalarResult c' s.issue lat d x cf

/-- `i` completes with a vector result, whose lanes are those of `x`, and sets the bits `st` of the sticky status. -/
def State.givesVector (s : State) (c : Ctx) (i : Instr) (lat : Nat) (d : Reg) (x : Nat → Word) (st : BitVec 7) : Prop :=
  ∃ c', exec i s = .next (s.setCtx s.unit c') ∧ c.VectorResult c' s.issue lat d (.ofFn x) (c.st ||| st)

/-- `i` completes with a new path in the slot at issue, in place of the one whose registers are `c`, and changes nothing
else but the undo log. -/
def State.givesPath (s : State) (c : Ctx) (i : Instr) (p : Path) : Prop :=
  ∃ u, exec i s = .next (s.setCtx s.unit ({ c with undo := u }.setPath s.cur.turn.slotB p))

/-- What is kept of a word `i` that holds its path, with the scalar sources `vals` that it has read; `asleep` says that an
engine wakes it, and that it is not tried again before. -/
def State.heldAs (s : State) (i : Instr) (vals : List Dword) (asleep : Bool) : Held :=
  { instr := i, pos := s.cur.pos, mstep := s.cur.mstep, word := s.cur.word, nextPos := s.cur.nextPos, after := s.cur.after,
    afterStep := s.cur.afterStep, em := s.cur.em, fm := s.cur.fm, since := s.cycle, vals := vals, asleep := asleep, tag := s.cur.tag,
    leads := false }

/-- `i` holds its path (R70), in the machine `t` that its engines leave; no other register changes. -/
def State.holds (s : State) (c : Ctx) (i : Instr) (t : State) (vals : List Dword) (asleep : Bool) : Prop :=
  exec i s = .next (t.setCtx s.unit (c.setPath s.cur.turn.slotB { s.here c with held := some (s.heldAs i vals asleep) }))

/-- The registers of level 1 or level 2. -/
def Ctx.levelRegs (c : Ctx) (l : Nat) : Level := if l = 1 then c.sup else c.hyp

/-- `c'` is `c` with the path of a slot inside the handler of level `l` for a cause (R244, R245): the level's registers hold
where and why, with the previous level in bits 9:8 of its cause, and the path runs at that level from the handler's packet,
with its window empty; a record of an earlier whole-path fault at the level is gone. -/
structure Ctx.Entered (c c' : Ctx) (slotB : Bool) (cycle l cause : Nat) (tval : Dword) (epc : Nat) (mstep : Option Nat) : Prop where
  saved : c'.levelRegs l =
    { c.levelRegs l with epc := BitVec.ofNat 32 epc, cause := BitVec.ofNat 32 ((c.path slotB).plvl.toNat * 256 + cause),
                         em := (c.path slotB).em, park := 0, tval := tval, mstep := mstep, busy := some (c.path slotB).pid }
  path : c'.path slotB =
    { c.path slotB with plvl := BitVec.ofNat 2 l, win := [], pc := (c.levelRegs l).tvec.toNat % 2 ^ 30 * 4, mstep := none,
                        readyAt := max (c.path slotB).readyAt (cycle + 1), held := none, also := [], delayed := false, entry := none }
  sibling : c'.path (!slotB) = c.path (!slotB)
  frame : c' = { c with sup := if l = 1 then c'.sup else c.sup, hyp := if l = 1 then c.hyp else c'.hyp, a := c'.a, b := c'.b,
                        whole := c.whole.filter (fun w => w.1 ≠ l) }

/-- `i` takes an exception: its path enters the handler of level `l`, the trap counter of the tenant counts it (R256), the
word is marked as one that has trapped, with or without the effects of the words before it in its group, and nothing else
changes. -/
def State.traps (s : State) (c : Ctx) (i : Instr) (l cause : Nat) (tval : Dword) (epc : Nat) (keeps : Bool) : Prop :=
  ∃ c', exec i s = .next { (s.setCtx s.unit c').count (s.vdiOf s.unit) 6 1 with cur := { s.cur with trap := some keeps } } ∧
    c.Entered c' s.cur.turn.slotB s.cycle l cause tval epc (if epc = s.cur.pos then s.cur.mstep else none)

/-- `i` takes an exception once its record has been read, in the machine `t` that the read leaves, with no word of its group having had an
effect (R339): the path enters its handler as for any other exception. -/
def State.trapsLate (s t : State) (c : Ctx) (i : Instr) (l cause : Nat) : Prop :=
  ∃ c', exec i s = .next { (t.setCtx s.unit c').count (s.vdiOf s.unit) 6 1 with cur := { s.cur with trap := some false } } ∧
    c.Entered c' s.cur.turn.slotB s.cycle l cause (s.cur.word.setWidth 64) s.cur.pos s.cur.mstep

/-- The word at issue belongs to a cast, and an exception of its path is handled at level `l`: the level above its own, free
or held by the path itself (R244, R342). -/
def State.handledAt (s : State) (c : Ctx) (l : Nat) : Prop :=
  s.unit.kind = .cast ∧ ((s.here c).plvl = 0#2 ∧ l = 1 ∨ (s.here c).plvl = 1#2 ∧ l = 2) ∧
    ((c.levelRegs l).busy = none ∨ (c.levelRegs l).busy = some (s.here c).pid)

/-- The word `i` at issue hands an operation of class `k` to an engine (R114): it is the youngest, its unit, lanes and
instruction are those of the word, `P` says what else it holds, and the counter of the class rises. The registers, the
scratchpads and the interfaces' nests stay; of the path, an acquire alone is noted; global memory stays unless a release
drains the store buffers. -/
def State.issuesFar (s : State) (c : Ctx) (i : Instr) (k : Cls) (P : State → FarOp → Prop) : Prop :=
  ∃ t f, exec i s = .next t ∧ t.fars = s.fars ++ [f] ∧ f.unit = s.unit ∧ f.instr = i ∧ f.cls = k ∧ f.id = s.cur.stamp ∧
    f.lanes = s.cur.em ∧ f.todo = s.cur.em ∧ f.done = false ∧ P t f ∧ t.counter s.unit k = s.counter s.unit k + 1 ∧
    t.ctxs.find s.unit =
      some (c.setPath s.cur.turn.slotB { s.here c with acq := if f.acq then some f.id else (s.here c).acq }) ∧
    t.scratch = s.scratch ∧ t.nests = s.nests ∧ ((f.rel = false ∨ f.scope.toNat ≤ 1) → t.mem = s.mem)

/-! ### Matrix values -/

/-- The K positions of a step (R107), by the width class of the operands and whether one of them is structured. -/
def groupPositions (width : Nat) (structured : Bool) : Nat :=
  if 16 ≤ width then (if structured then 4 else 1) else if 6 ≤ width then (if structured then 4 else 2) else if structured then 8 else 4

/-- A cell that held `w`, after groups of `P` positions in order (R107, R108): each adds the exact sum of its products, and is rounded
once. `x` and `y` give the operands' exact values by their K position, and nothing at a position that a 2:4 group does not keep. -/
def cellAfter (acc : BitVec 2) (P : Nat) (groups : List Nat) (x y : Nat → Option Num) (w : Word) : Word :=
  groups.foldl (fun w g =>
    let products := (List.range P).filterMap (fun j => (x (g * P + j)).bind (fun a => (y (g * P + j)).map (fun b => a.mul b)))
    let old := if acc = 0#2 then fp32.decode w.toNat else if acc = 1#2 then .fin (decide (w.toInt < 0)) w.toInt.natAbs 0 else fp16.decode (w.toNat % 2 ^ 16)
    let sum := products.foldl (Num.add false) old
    if acc = 0#2 then BitVec.ofNat 32 (fp32.encode .rne false sum).1
    else if acc = 1#2 then (match sum.asInt with | some v => BitVec.ofInt 32 v | none => w)
    else BitVec.ofNat 32 (fp16.encode .rne false sum).1) w

/-- The groups of a product of K positions that are not skipped: with SKZ, those of a chunk of eight in which A has a value that is
not zero (R230). `x` gives the values of A by row and position. -/
def keptGroups (skz : Bool) (P K rows : Nat) (x : Nat → Nat → Option Num) : List Nat :=
  (List.range (K / P)).filter (fun g => !(skz && (List.range rows).all (fun i => (List.range 8).all (fun j =>
    match x i (8 * (g * P / 8) + j) with | some (.fin _ m _) => decide (m = 0) | some _ => false | none => true))))

/-- The exact value of element `k` of row `r` of an area in scratchpad (R89 to R91, R223). -/
def State.areaNum (s : State) (t : Troupe) (X : Area) (fmt r k : Nat) : Option Num :=
  some ((fmtOf fmt).decode (leNat (s.scratch.bytes (t.scratchAddr (X.addr + r * X.stride)) X.rowBytes) / 2 ^ (elemWidth fmt * k) % 2 ^ elemWidth fmt))

/-- `R` activation rows, whose values `x` gives by row and position, have streamed through the active plane into the slots `ns` (R234): row
r stands in row r mod RA of slot r div RA, added to what stood there unless AUTO has taken the slots. -/
def Matrix.streamed (m m' : Matrix) (acc : BitVec 2) (ns : List Nat) (R : Nat) (auto : Bool) (x : Nat → Nat → Option Num) : Prop :=
  let ra := arrayRows m.shape
  ∀ r, r < R → ∃ z, m'.slots.find (ns.getD (r / ra) 0) = some z ∧ z.fmt = acc ∧ ∀ j, j < arrayCols m.shape →
    (z.rows.getD (r % ra) []).getD j 0 =
      cellAfter acc m.active.p (List.range ra) (x r) (fun k => ((m.active.rows.getD j [])[k]?).join)
        (if auto then 0 else ((((m.slots.find (ns.getD (r / ra) 0)).map (fun (y : Slot) => y.rows)).getD []).getD (r % ra) []).getD j 0)

/-- An operation of the gate program on a value (R238), with the words of its scratchpad operands. -/
def gateResult (sat : Bool) (g : Dword) (bias factor x : Word) : Word :=
  let fp := fun (v : Num) => BitVec.ofNat 32 (fp32.encode .rne sat v).1
  let wide := fun (k : Nat) => BitVec.ofNat 32 (g.toNat / 2 ^ k % 2 ^ 16 * 2 ^ 16)
  match g.toNat / 2 ^ 60 with
  | 1 => fp ((f32 x).add false (f32 bias))
  | 2 => fp ((f32 x).mul (f32 factor))
  | 3 => (fsig x).1
  | 4 => (ftanh x).1
  | 5 => (fexp2 x).1
  | 6 => (fsplus x).1
  | 7 => if isNan (wide 0) || isNan (wide 16) || isNan x then nan32 else (fminmax false (fminmax true x (wide 0)).1 (wide 16)).1
  | _ => (ieee .rne ((fmtOf (g.toNat % 16)).decode (encodeIn (g.toNat % 16) (modeOf (g.toNat / 16 % 4)) sat (f32 x)).1)).1

/-- The code that MSHO drains for the word `w` of an accumulate format in row `q` and column `j` (R231). -/
def State.drainCode (s : State) (t : Troupe) (fm : Word) (acc : BitVec 2) (q j : Nat) (w : Word) : Nat :=
  let sat := fmSat fm
  let old := if acc = 0#2 then fp32.decode w.toNat else if acc = 1#2 then .fin (decide (w.toInt < 0)) w.toInt.natAbs 0 else fp16.decode (w.toNat % 2 ^ 16)
  let out := fun (x : Num) => (encodeIn (fmO fm) (fmMode fm) sat x).1
  if t.mx.gate = [] then out old
  else out (f32 (t.mx.gate.foldl (fun x g =>
    let pitch := g.toNat / 2 ^ 32 % 2 ^ 16
    let at_ := fun (o : Nat) => s.scratch.word (t.scratchAddr (g.toNat % 2 ^ 22 + o + 4 * j))
    gateResult sat g (at_ 0) (at_ (q * (if pitch = 0 then 4 * arrayCols t.mx.shape else pitch))) x) (BitVec.ofNat 32 (fp32.encode .rne sat old).1)))

/-- The scan of a channel of `n` steps (R109): its levels of distance 1, 2, 4 and so on, below `n`. -/
def scanned (n : Nat) (a b : Nat → Word) : (Nat → Word) × (Nat → Word) :=
  (List.range 10).foldl (fun (x : (Nat → Word) × (Nat → Word)) l =>
    let d := 2 ^ l
    if n ≤ d then x
    else (fun t => if d ≤ t then (fmul .rne (x.1 t) (x.1 (t - d))).1 else x.1 t,
          fun t => if d ≤ t then (ffma .rne false false (x.1 t) (x.2 (t - d)) (x.2 t)).1 else x.2 t)) (a, b)

end Sys2Proof.Machine
end

