-- ==== Sys2Proof/Certificates/Slice0/Obligations.lean ====
section
/-! DEFINITION. The statements for the provers. -/

open Sys2Proof Sys2Proof.Machine

/-! ### The scalar words (R161 to R170) -/

/-- R166, the register forms of major 0x04: each writes its d, ADD, SUB, ADDC and SUBC write cf too, and nothing else
changes.

R166, the immediate forms of major 0x05: the immediate is sign-extended for functions 0 to 5, A and B, and
zero-extended for 6 to 9, C and D. -/
def Obligations.ScalarArithmetic : Prop :=
  (∀ (s : State) (c : Ctx) (d a b : Reg), s.issuing c →
       let x := c.rdS s.issue a
       let y := c.rdS s.issue b
       let k := (s.here c).cf
       let n := y.toNat % 64
       s.givesScalar c (.add d a b) 1 d (x + y) (decide (2 ^ 64 ≤ x.toNat + y.toNat)) ∧
       s.givesScalar c (.sub d a b) 1 d (x - y) (decide (x.toNat < y.toNat)) ∧
       s.givesScalar c (.and d a b) 1 d (x &&& y) k ∧
       s.givesScalar c (.or d a b) 1 d (x ||| y) k ∧
       s.givesScalar c (.xor d a b) 1 d (x ^^^ y) k ∧
       s.givesScalar c (.andn d a b) 1 d (x &&& ~~~ y) k ∧
       s.givesScalar c (.shl d a b) 1 d (BitVec.ofNat 64 (x.toNat * 2 ^ n)) k ∧
       s.givesScalar c (.shr d a b) 1 d (BitVec.ofNat 64 (x.toNat / 2 ^ n)) k ∧
       s.givesScalar c (.sra d a b) 1 d (BitVec.ofInt 64 (x.toInt / 2 ^ n)) k ∧
       s.givesScalar c (.rotl d a b) 1 d (BitVec.ofNat 64 (x.toNat * 2 ^ n) ||| BitVec.ofNat 64 (x.toNat / 2 ^ (64 - n))) k ∧
       s.givesScalar c (.min d a b) 1 d (if x.toInt ≤ y.toInt then x else y) k ∧
       s.givesScalar c (.max d a b) 1 d (if x.toInt ≤ y.toInt then y else x) k ∧
       s.givesScalar c (.minu d a b) 1 d (if x.toNat ≤ y.toNat then x else y) k ∧
       s.givesScalar c (.maxu d a b) 1 d (if x.toNat ≤ y.toNat then y else x) k ∧
       s.givesScalar c (.addc d a b) 1 d (BitVec.ofNat 64 (x.toNat + y.toNat + k.toNat)) (decide (2 ^ 64 ≤ x.toNat + y.toNat + k.toNat)) ∧
       s.givesScalar c (.subc d a b) 1 d (BitVec.ofInt 64 ((x.toNat : Int) - y.toNat - k.toNat)) (decide (x.toNat < y.toNat + k.toNat))) ∧
  (∀ (s : State) (c : Ctx) (d a : Reg) (i : BitVec 6), s.issuing c →
       let x := c.rdS s.issue a
       let y : Dword := i.signExtend 64
       let k := (s.here c).cf
       s.givesScalar c (.addImm d a i) 1 d (x + y) (decide (2 ^ 64 ≤ x.toNat + y.toNat)) ∧
       s.givesScalar c (.subImm d a i) 1 d (x - y) (decide (x.toNat < y.toNat)) ∧
       s.givesScalar c (.andImm d a i) 1 d (x &&& y) k ∧
       s.givesScalar c (.orImm d a i) 1 d (x ||| y) k ∧
       s.givesScalar c (.xorImm d a i) 1 d (x ^^^ y) k ∧
       s.givesScalar c (.andnImm d a i) 1 d (x &&& ~~~ y) k ∧
       s.givesScalar c (.minImm d a i) 1 d (if x.toInt ≤ y.toInt then x else y) k ∧
       s.givesScalar c (.maxImm d a i) 1 d (if x.toInt ≤ y.toInt then y else x) k ∧
       s.givesScalar c (.shlImm d a i) 1 d (BitVec.ofNat 64 (x.toNat * 2 ^ i.toNat)) k ∧
       s.givesScalar c (.shrImm d a i) 1 d (BitVec.ofNat 64 (x.toNat / 2 ^ i.toNat)) k ∧
       s.givesScalar c (.sraImm d a i) 1 d (BitVec.ofInt 64 (x.toInt / 2 ^ i.toNat)) k ∧
       s.givesScalar c (.rotlImm d a i) 1 d (BitVec.ofNat 64 (x.toNat * 2 ^ i.toNat) ||| BitVec.ofNat 64 (x.toNat / 2 ^ (64 - i.toNat))) k ∧
       s.givesScalar c (.minuImm d a i) 1 d (if x.toNat ≤ i.toNat then x else i.setWidth 64) k ∧
       s.givesScalar c (.maxuImm d a i) 1 d (if x.toNat ≤ i.toNat then i.setWidth 64 else x) k)

/-- R167: products, quotients and remainders, with the results for a divisor of 0 and for −2^63 / −1. None traps. The three
register fields are in S space, and function codes 7 to F are reserved. -/
def Obligations.ScalarMultiplyDivide : Prop :=
  (∀ (s : State) (c : Ctx) (d a b : Reg), s.issuing c →
     let x := c.rdS s.issue a
     let y := c.rdS s.issue b
     let k := (s.here c).cf
     s.givesScalar c (.mul d a b) 1 d (BitVec.ofNat 64 (x.toNat * y.toNat)) k ∧
     s.givesScalar c (.mulh d a b) 1 d (BitVec.ofInt 64 (x.toInt * y.toInt / 2 ^ 64)) k ∧
     s.givesScalar c (.mulhu d a b) 1 d (BitVec.ofNat 64 (x.toNat * y.toNat / 2 ^ 64)) k ∧
     (y = 0#64 →
       s.givesScalar c (.div d a b) 1 d 0xFFFFFFFFFFFFFFFF#64 k ∧ s.givesScalar c (.divu d a b) 1 d 0xFFFFFFFFFFFFFFFF#64 k ∧
       s.givesScalar c (.rem d a b) 1 d x k ∧ s.givesScalar c (.remu d a b) 1 d x k) ∧
     (x.toInt = -2 ^ 63 → y.toInt = -1 →
       s.givesScalar c (.div d a b) 1 d 0x8000000000000000#64 k ∧ s.givesScalar c (.rem d a b) 1 d 0#64 k) ∧
     (y ≠ 0#64 →
       s.givesScalar c (.div d a b) 1 d (BitVec.ofInt 64 (x.toInt.tdiv y.toInt)) k ∧
       s.givesScalar c (.divu d a b) 1 d (BitVec.ofNat 64 (x.toNat / y.toNat)) k ∧
       s.givesScalar c (.rem d a b) 1 d (BitVec.ofInt 64 (x.toInt - y.toInt * x.toInt.tdiv y.toInt)) k ∧
       s.givesScalar c (.remu d a b) 1 d (BitVec.ofNat 64 (x.toNat % y.toNat)) k)) ∧
  ∀ (w nxt : Word), fMaj w = 6 →
    (7 ≤ (fld w 0 4).toNat → decode .cast w nxt = .error .reserved) ∧
    ∀ i, decode .cast w nxt = .ok i → i.uses.sw = [fld w 16 6] ∧ i.uses.sr = [fld w 10 6, fld w 4 6] ∧ sDest .cast (fld w 16 6) = true ∧
      sSource .cast (fld w 10 6) = true ∧ sSource .cast (fld w 4 6) = true

/-- R168: CLZ, POPC, BREV, SEXT and ZEXT; `f` holds n − 1.

R169: CMP.cc writes 1 or 0 by the ten conditions. -/
def Obligations.ScalarBitsCompare : Prop :=
  (∀ (s : State) (c : Ctx) (d a : Reg) (f : BitVec 6), s.issuing c →
       let x := c.rdS s.issue a
       let k := (s.here c).cf
       (x = 0#64 → s.givesScalar c (.clz d a) 1 d 64 k) ∧
       (∀ h, h < 64 → x.getLsbD h = true → (∀ j, h < j → x.getLsbD j = false) → s.givesScalar c (.clz d a) 1 d (BitVec.ofNat 64 (63 - h)) k) ∧
       s.givesScalar c (.popc d a) 1 d (BitVec.ofNat 64 (((List.range 64).map (fun j => (x.getLsbD j).toNat)).sum)) k ∧
       (∃ y : Dword, (∀ j, j < 64 → y.getLsbD (63 - j) = x.getLsbD j) ∧ s.givesScalar c (.brev d a) 1 d y k) ∧
       (∃ y : Dword, (∀ j, j ≤ f.toNat → y.getLsbD j = x.getLsbD j) ∧ (∀ j, f.toNat < j → j < 64 → y.getLsbD j = x.getLsbD f.toNat) ∧
         s.givesScalar c (.sext d a f) 1 d y k) ∧
       s.givesScalar c (.zext d a f) 1 d (BitVec.ofNat 64 (x.toNat % 2 ^ (f.toNat + 1))) k) ∧
  (∀ (s : State) (c : Ctx) (d a b : Reg), s.issuing c →
       let x := c.rdS s.issue a
       let y := c.rdS s.issue b
       let k := (s.here c).cf
       let cmp := fun (f : BitVec 4) (p : Bool) => s.givesScalar c (.cmp d a b f) 1 d (if p then 1 else 0) k
       cmp 0 (decide (x = y)) ∧ cmp 1 (decide (x ≠ y)) ∧
       cmp 2 (decide (x.toInt < y.toInt)) ∧ cmp 3 (decide (y.toInt ≤ x.toInt)) ∧
       cmp 4 (decide (x.toInt ≤ y.toInt)) ∧ cmp 5 (decide (y.toInt < x.toInt)) ∧
       cmp 6 (decide (x.toNat < y.toNat)) ∧ cmp 7 (decide (y.toNat ≤ x.toNat)) ∧
       cmp 8 (decide (x.toNat ≤ y.toNat)) ∧ cmp 9 (decide (y.toNat < x.toNat)))

/-- R170: SEL writes a when all 64 bits of c do not give zero, and b otherwise. The field c names s0 to s15 and is read as a and b
are, in the same cycle. -/
def Obligations.SelectRule : Prop :=
  ∀ (s : State) (c : Ctx) (d a b : Reg) (q : BitVec 4), s.issuing c →
    let x := c.rdS s.issue (BitVec.ofNat 6 q.toNat)
    (x ≠ 0#64 → s.givesScalar c (.sel d a b q) 1 d (c.rdS s.issue a) (s.here c).cf) ∧
    (x = 0#64 → s.givesScalar c (.sel d a b q) 1 d (c.rdS s.issue b) (s.here c).cf)

/-- R164 and R165: the constants. MOVHI reads its destination.

R163: NOP has no effect, and STALL n holds its path for n further cycles and does nothing else. -/
def Obligations.ScalarConstants : Prop :=
  (∀ (s : State) (c : Ctx) (d : Reg) (i : BitVec 16) (m : Word), s.issuing c →
       let k := (s.here c).cf
       s.givesScalar c (.movi d i) 1 d (i.signExtend 64) k ∧
       s.givesScalar c (.movhi d i) 1 d
         ((BitVec.ofNat 32 (i.toNat * 2 ^ 16 + (c.rdS s.issue d).toNat % 2 ^ 16)).signExtend 64) k ∧
       s.givesScalar c (.limmI32 d m) 1 d (m.signExtend 64) k ∧
       s.givesScalar c (.limmN32 d m) 1 d (m.setWidth 64) k) ∧
  (∀ (s : State) (c : Ctx) (n : BitVec 12), s.issuing c →
       s.givesPath c .nop (s.here c) ∧
       s.givesPath c (.stall n) { s.here c with readyAt := (s.here c).readyAt + n.toNat })

/-! ### The vector words (R184 to R203) -/

/-- R187 and R184: the lane results of major 0x18 that set no bit of st, in the active lanes of d; other lanes, other
registers and everything else stay.

R188: the immediate forms of major 0x19, with i7 zero-extended. -/
def Obligations.VectorArithmetic : Prop :=
  (∀ (s : State) (c : Ctx) (d a b : Reg), s.issuing c →
       let x := (c.rdV s.issue a).lane
       let y := (c.rdV s.issue b).lane
       let k := fun (l : Nat) => (y l).toNat % 32
       s.givesVector c (.vadd d a b) 2 d (fun l => x l + y l) 0 ∧
       s.givesVector c (.vsub d a b) 2 d (fun l => x l - y l) 0 ∧
       s.givesVector c (.vmul d a b) 2 d (fun l => BitVec.ofNat 32 ((x l).toNat * (y l).toNat)) 0 ∧
       s.givesVector c (.vmulh d a b) 2 d (fun l => BitVec.ofInt 32 ((x l).toInt * (y l).toInt / 2 ^ 32)) 0 ∧
       s.givesVector c (.vand d a b) 2 d (fun l => x l &&& y l) 0 ∧
       s.givesVector c (.vor d a b) 2 d (fun l => x l ||| y l) 0 ∧
       s.givesVector c (.vxor d a b) 2 d (fun l => x l ^^^ y l) 0 ∧
       s.givesVector c (.vshl d a b) 2 d (fun l => BitVec.ofNat 32 ((x l).toNat * 2 ^ k l)) 0 ∧
       s.givesVector c (.vshr d a b) 2 d (fun l => BitVec.ofNat 32 ((x l).toNat / 2 ^ k l)) 0 ∧
       s.givesVector c (.vsra d a b) 2 d (fun l => BitVec.ofInt 32 ((x l).toInt / 2 ^ k l)) 0 ∧
       s.givesVector c (.vmin d a b) 2 d (fun l => if (x l).toInt ≤ (y l).toInt then x l else y l) 0 ∧
       s.givesVector c (.vmax d a b) 2 d (fun l => if (x l).toInt ≤ (y l).toInt then y l else x l) 0 ∧
       s.givesVector c (.vminu d a b) 2 d (fun l => if (x l).toNat ≤ (y l).toNat then x l else y l) 0 ∧
       s.givesVector c (.vmaxu d a b) 2 d (fun l => if (x l).toNat ≤ (y l).toNat then y l else x l) 0) ∧
  (∀ (s : State) (c : Ctx) (d a : Reg) (i : BitVec 7), s.issuing c →
       let x := (c.rdV s.issue a).lane
       let y : Word := i.setWidth 32
       s.givesVector c (.vaddImm d a i) 2 d (fun l => x l + y) 0 ∧
       s.givesVector c (.vsubImm d a i) 2 d (fun l => x l - y) 0 ∧
       s.givesVector c (.vmulImm d a i) 2 d (fun l => x l * y) 0 ∧
       s.givesVector c (.vandImm d a i) 2 d (fun l => x l &&& y) 0 ∧
       s.givesVector c (.vorImm d a i) 2 d (fun l => x l ||| y) 0 ∧
       (i.toNat ≤ 31 →
         s.givesVector c (.vshlImm d a i) 2 d (fun l => BitVec.ofNat 32 ((x l).toNat * 2 ^ i.toNat)) 0 ∧
         s.givesVector c (.vshrImm d a i) 2 d (fun l => BitVec.ofNat 32 ((x l).toNat / 2 ^ i.toNat)) 0 ∧
         s.givesVector c (.vsraImm d a i) 2 d (fun l => BitVec.ofInt 32 ((x l).toInt / 2 ^ i.toNat)) 0))

/-- R187: VADDSAT and VSUBSAT clamp to the signed range, and set SAT when an active lane is clamped.

R189: VMAD, VABS, VNEG, VCLZ, VPOPC and the byte dot products; the first and the last read d. -/
def Obligations.VectorSaturateAccumulate : Prop :=
  (∀ (s : State) (c : Ctx) (d a b : Reg), s.issuing c →
       let x := (c.rdV s.issue a).lane
       let y := (c.rdV s.issue b).lane
       let clamp := fun (v : Int) => BitVec.ofInt 32 (max (-2 ^ 31) (min v (2 ^ 31 - 1)))
       let sat := fun (v : Nat → Int) => decide (∃ l, l < 32 ∧ s.cur.em.getLsbD l = true ∧ (v l < -2 ^ 31 ∨ 2 ^ 31 - 1 < v l))
       let sum := fun l => (x l).toInt + (y l).toInt
       let dif := fun l => (x l).toInt - (y l).toInt
       s.givesVector c (.vaddsat d a b) 2 d (fun l => clamp (sum l)) (if sat sum then 0x40 else 0) ∧
       s.givesVector c (.vsubsat d a b) 2 d (fun l => clamp (dif l)) (if sat dif then 0x40 else 0)) ∧
  (∀ (s : State) (c : Ctx) (d a b : Reg), s.issuing c →
       let z := (c.rdV s.issue d).lane
       let x := (c.rdV s.issue a).lane
       let y := (c.rdV s.issue b).lane
       let byte := fun (w : Word) (j : Nat) => BitVec.ofNat 8 (w.toNat / 2 ^ (8 * j))
       s.givesVector c (.vmad d a b) 2 d (fun l => x l * y l + z l) 0 ∧
       s.givesVector c (.vabs d a) 2 d (fun l => BitVec.ofNat 32 (x l).toInt.natAbs) 0 ∧
       s.givesVector c (.vneg d a) 2 d (fun l => BitVec.ofInt 32 (-(x l).toInt)) 0 ∧
       (∃ n : Nat → Nat, s.givesVector c (.vclz d a) 2 d (fun l => BitVec.ofNat 32 (n l)) 0 ∧
         ∀ l, n l ≤ 32 ∧ (n l < 32 → (x l).getLsbD (31 - n l) = true) ∧ ∀ j, 32 - n l ≤ j → (x l).getLsbD j = false) ∧
       s.givesVector c (.vpopc d a) 2 d (fun l => BitVec.ofNat 32 (((List.range 32).map (fun j => ((x l).getLsbD j).toNat)).sum)) 0 ∧
       s.givesVector c (.vdot4I8 d a b) 2 d
         (fun l => BitVec.ofInt 32 ((z l).toInt + ((List.range 4).map (fun j => (byte (x l) j).toInt * (byte (y l) j).toInt)).sum)) 0 ∧
       s.givesVector c (.vdot4N8 d a b) 2 d
         (fun l => BitVec.ofNat 32 ((z l).toNat + ((List.range 4).map (fun j => (byte (x l) j).toNat * (byte (y l) j).toNat)).sum)) 0)

/-- R190, R193 and R201: VCMP, VFCMP and BALLOT write the mask of the active lanes whose condition holds to a scalar
register, with bits 63:32 zero, and set no bit of st.

R65: the tag of a result. An integer sum of uniform operands is uniform, of an affine and a uniform operand affine,
and under a partial mask a register becomes general unless the mask is empty. -/
def Obligations.VectorMasksTags : Prop :=
  (∀ (s : State) (c : Ctx) (d a b : Reg), s.issuing c →
       let x := (c.rdV s.issue a).lane
       let y := (c.rdV s.issue b).lane
       let mask := fun (j : Instr) (lat : Nat) (p : Nat → Bool) => ∃ m : Dword, s.givesScalar c j lat d m (s.here c).cf ∧
         ∀ l, m.getLsbD l = (decide (l < 32) && s.cur.em.getLsbD l && p l)
       let cmp := fun (f : BitVec 4) (p : Nat → Bool) => mask (.vcmp d a b f) 2 p
       let fcmp := fun (f : BitVec 4) (p : Nat → Bool) => mask (.vfcmp d a b f) 4 p
       let nan := fun (w : Word) => decide (0x7F800000 < w.toNat % 2 ^ 31)
       let ord := fun l => !nan (x l) && !nan (y l)
       -- a rank that orders FP32 values that are not NaN, with one rank for both zeros
       let rank := fun (w : Word) => if 2 ^ 31 ≤ w.toNat then -((w.toNat % 2 ^ 31 : Nat) : Int) else (w.toNat : Int)
       mask (.ballot d a) 2 (fun l => decide (x l ≠ 0#32)) ∧
       cmp 0 (fun l => decide (x l = y l)) ∧ cmp 1 (fun l => decide (x l ≠ y l)) ∧
       cmp 2 (fun l => decide ((x l).toInt < (y l).toInt)) ∧ cmp 3 (fun l => decide ((y l).toInt ≤ (x l).toInt)) ∧
       cmp 4 (fun l => decide ((x l).toInt ≤ (y l).toInt)) ∧ cmp 5 (fun l => decide ((y l).toInt < (x l).toInt)) ∧
       cmp 6 (fun l => decide ((x l).toNat < (y l).toNat)) ∧ cmp 7 (fun l => decide ((y l).toNat ≤ (x l).toNat)) ∧
       cmp 8 (fun l => decide ((x l).toNat ≤ (y l).toNat)) ∧ cmp 9 (fun l => decide ((y l).toNat < (x l).toNat)) ∧
       fcmp 0 (fun l => ord l && decide (rank (x l) = rank (y l))) ∧ fcmp 1 (fun l => !ord l || decide (rank (x l) ≠ rank (y l))) ∧
       fcmp 2 (fun l => ord l && decide (rank (x l) < rank (y l))) ∧ fcmp 3 (fun l => ord l && decide (rank (y l) ≤ rank (x l))) ∧
       fcmp 4 (fun l => ord l && decide (rank (x l) ≤ rank (y l))) ∧ fcmp 5 (fun l => ord l && decide (rank (y l) < rank (x l))) ∧
       fcmp 6 (fun l => !ord l) ∧ fcmp 7 ord) ∧
  ((∀ u w : Word, vAddVal (.uni u) (.uni w) = .uni (u + w)) ∧
     (∀ b t u : Word, vAddVal (.aff b t) (.uni u) = .aff (b + u) t ∧ vAddVal (.uni u) (.aff b t) = .aff (b + u) t ∧
       vSubVal (.aff b t) (.uni u) = .aff (b - u) t) ∧
     ∀ (em : Word) (old new : VVal),
       merge (BitVec.allOnes 32) old new = new ∧ merge 0#32 old new = old ∧
       (em ≠ 0#32 → em ≠ BitVec.allOnes 32 → ∃ ls, merge em old new = .gen ls))

/-- R191 and R192: sums, differences and products, with d as the addend of the fused words, are the exact values rounded
once to FP32 under fm.RM with fm.SAT ignored, and the flags of the active lanes are gathered in st. `ieee` is the model's
rounding of an exact value.

R191, R194 and R97: minimum and maximum, which order -0 below +0, give the other operand where one is a NaN, and the canonical NaN with NV
where both are; and the three words that act on the sign bit alone and set no flag. -/
def Obligations.VectorFloat : Prop :=
  (∀ (s : State) (c : Ctx) (d a b : Reg), s.issuing c →
       let z := fun l => f32 ((c.rdV s.issue d).lane l)
       let x := fun l => f32 ((c.rdV s.issue a).lane l)
       let y := fun l => f32 ((c.rdV s.issue b).lane l)
       let m := fmMode s.cur.fm
       let down := decide (m = .rdn)
       let gives := fun (j : Instr) (v : Nat → Machine.Num) =>
         s.givesVector c j 4 d (fun l => (ieee m (v l)).1)
           (((List.range 32).filter (fun l => s.cur.em.getLsbD l)).foldl (fun z l => z ||| (ieee m (v l)).2) 0)
       gives (.vfadd d a b) (fun l => (x l).add down (y l)) ∧
       gives (.vfsub d a b) (fun l => (x l).add down (y l).neg) ∧
       gives (.vfmul d a b) (fun l => (x l).mul (y l)) ∧
       gives (.vfma d a b) (fun l => ((x l).mul (y l)).add down (z l)) ∧
       gives (.vfms d a b) (fun l => ((x l).mul (y l)).add down (z l).neg) ∧
       gives (.vfnma d a b) (fun l => ((x l).mul (y l)).neg.add down (z l))) ∧
  (∀ (s : State) (c : Ctx) (d a b : Reg), s.issuing c →
       let x := (c.rdV s.issue a).lane
       let y := (c.rdV s.issue b).lane
       let flags := fun (f : Nat → BitVec 7) => ((List.range 32).filter (fun l => s.cur.em.getLsbD l)).foldl (fun z l => z ||| f l) 0
       s.givesVector c (.vfmin d a b) 4 d (fun l => (fminmax false (x l) (y l)).1) (flags (fun l => (fminmax false (x l) (y l)).2)) ∧
       s.givesVector c (.vfmax d a b) 4 d (fun l => (fminmax true (x l) (y l)).1) (flags (fun l => (fminmax true (x l) (y l)).2)) ∧
       s.givesVector c (.vfcopysign d a b) 4 d (fun l => BitVec.ofNat 32 ((x l).toNat % 2 ^ 31 + (y l).toNat / 2 ^ 31 * 2 ^ 31)) 0 ∧
       s.givesVector c (.vfabs d a) 4 d (fun l => BitVec.ofNat 32 ((x l).toNat % 2 ^ 31)) 0 ∧
       s.givesVector c (.vfneg d a) 4 d (fun l => x l + 0x80000000#32) 0) ∧
  (∀ x y : Word,
       let nan := fun (w : Word) => 0x7F800000 < w.toNat % 2 ^ 31
       -- -0 lies below +0
       let key : Word → Int := fun w => if w.toNat < 2 ^ 31 then (w.toNat : Int) else -((w.toNat % 2 ^ 31 : Nat) : Int) - 1
       (nan x → nan y → fminmax false x y = (0x7FC00000#32, 0x01#7) ∧ fminmax true x y = (0x7FC00000#32, 0x01#7)) ∧
       (nan x → ¬ nan y → fminmax false x y = (y, 0) ∧ fminmax true x y = (y, 0)) ∧
       (¬ nan x → nan y → fminmax false x y = (x, 0) ∧ fminmax true x y = (x, 0)) ∧
       (¬ nan x → ¬ nan y → fminmax false x y = (if key x ≤ key y then x else y, 0) ∧ fminmax true x y = (if key x ≤ key y then y else x, 0)))

/-- R194: the seven transcendental words give one value and one set of flags for each operand word, whatever fm holds. The
functions are the model's.

R101: the special values of the transcendental functions. A NaN, and for VFRSQ, VFSQRT and VFLOG2 every operand below
zero, gives the canonical NaN with NV; zeros and infinities give the values of the table. -/
def Obligations.VectorTranscendental : Prop :=
  (∀ (s : State) (c : Ctx) (d a : Reg), s.issuing c →
       let x := (c.rdV s.issue a).lane
       let gives := fun (j : Instr) (f : Word → Word × BitVec 7) =>
         s.givesVector c j 8 d (fun l => (f (x l)).1)
           (((List.range 32).filter (fun l => s.cur.em.getLsbD l)).foldl (fun z l => z ||| (f (x l)).2) 0)
       gives (.vfrcp d a) frcp ∧ gives (.vfrsq d a) frsq ∧ gives (.vfsqrt d a) fsqrt ∧ gives (.vfexp2 d a) fexp2 ∧
       gives (.vflog2 d a) flog2 ∧ gives (.vftanh d a) ftanh ∧ gives (.vfsig d a) fsig) ∧
  ((∀ x : Word, 0x7F800000 < x.toNat % 2 ^ 31 →
       ∀ f ∈ [frcp, frsq, fsqrt, fexp2, flog2, ftanh, fsig], f x = (0x7FC00000#32, 0x01#7)) ∧
     (∀ x : Word, 0x80000000 < x.toNat → x.toNat ≤ 0xFF800000 → ∀ f ∈ [frsq, fsqrt, flog2], f x = (0x7FC00000#32, 0x01#7)) ∧
     (∀ g : BitVec 1,
       let zero : Word := g ++ 0#31
       let inf : Word := g ++ 0x7F800000#31
       let one : Word := g ++ 0x3F800000#31
       (frcp zero).1 = inf ∧ (frcp inf).1 = zero ∧ (frsq zero).1 = inf ∧ (fsqrt zero).1 = zero ∧ (flog2 zero).1 = 0xFF800000#32 ∧
       (ftanh zero).1 = zero ∧ (ftanh inf).1 = one ∧ (fsig zero).1 = 0x3F000000#32 ∧
       (fexp2 inf).1 = (if g = 1 then 0#32 else 0x7F800000#32) ∧ (fsig inf).1 = (if g = 1 then 0#32 else 0x3F800000#32) ∧
       (g = 0 → (frsq inf).1 = 0#32 ∧ (fsqrt inf).1 = 0x7F800000#32 ∧ (flog2 inf).1 = 0x7F800000#32)))

/-- R196 and R197: conversion lane by lane under the rm field, and the packing of sub-word elements of width 16, 8 or 4.

R98 and R99: what a NaN and an infinity convert to, and a number that converts to an integer format, which is rounded under the mode and
clamped, with its flags. Of a number that converts to a floating format, obligation RoundingRule states the value. -/
def Obligations.VectorConvertPack : Prop :=
  -- the integer to which a mode rounds a number
  let roundsTo := fun (mode : Mode) (r : Rat) (n : Int) => match mode with
    | .rne => |r - n| ≤ 1 / 2 ∧ (|r - n| = 1 / 2 → n % 2 = 0)
    | .rz => |(n : Rat)| ≤ |r| ∧ |r - n| < 1
    | .rdn => (n : Rat) ≤ r ∧ r < n + 1
    | .rup => r ≤ (n : Rat) ∧ n < r + 1
  (∀ (s : State) (c : Ctx) (d a b : Reg), s.issuing c →
    let x := (c.rdV s.issue a).lane
    let y := (c.rdV s.issue b).lane
    (∀ (src dst : BitVec 4) (rm : BitVec 2),
      let f := fun l => convert (fmtOf src.toNat) (fmtOf dst.toNat) (modeOf rm.toNat) (s.cur.fm.getLsbD 15) (x l)
      s.givesVector c (.vcvt d a src dst rm) 4 d (fun l => (f l).1)
        (((List.range 32).filter (fun l => s.cur.em.getLsbD l)).foldl (fun z l => z ||| (f l).2) 0)) ∧
    ∀ (g : BitVec 3) (w : Nat), (g, w) ∈ [(0#3, 16), (1#3, 8), (2#3, 4)] →
      s.givesVector c (.vpack d a b g) 2 d (fun l => BitVec.ofNat 32 ((x l).toNat * 2 ^ w) ||| BitVec.ofNat 32 ((y l).toNat % 2 ^ w)) 0 ∧
      ∀ k : BitVec 6, k.toNat < 32 / w →
        s.givesVector c (.vunpack d a k g) 2 d (fun l => BitVec.ofNat 32 ((x l).toNat / 2 ^ (w * k.toNat) % 2 ^ w)) 0) ∧
  (∀ (src dst : Nat) (mode : Mode) (sat : Bool) (x : Word), src < 14 →
    let v := (fmtOf src).decode x.toNat
    let to_ := convert (fmtOf src) (fmtOf dst) mode sat x
    -- the floating formats: the canonical NaN, or +0, and the infinity of those that have one, with the weight of its sign
    (∀ q ∈ [(0, 0x7FC00000), (1, 0x7FC0), (2, 0x7E00), (3, 0x7F), (4, 0x7E), (5, 0), (6, 0), (7, 0)], v = .nan → dst = q.1 →
      to_ = (BitVec.ofNat 32 q.2, 0x01#7)) ∧
    (∀ q ∈ [(0, 0x7F800000, 31), (1, 0x7F80, 15), (2, 0x7C00, 15), (4, 0x7C, 7)], ∀ neg, v = .inf neg → dst = q.1 →
      to_ = (BitVec.ofNat 32 (q.2.1 + neg.toNat * 2 ^ q.2.2), 0)) ∧
    (∀ q ∈ [(3, 0x7E, 7), (5, 0x1F, 5), (6, 0x1F, 5), (7, 0x7, 3)], ∀ neg, v = .inf neg → dst = q.1 →
      to_ = if dst = 3 ∧ sat = false then (0x7F#32, 0x01#7) else (BitVec.ofNat 32 (q.2.1 + neg.toNat * 2 ^ q.2.2), 0x40#7)) ∧
    -- the integer formats: the least and the greatest value
    (∀ q ∈ [(8, -128, 127, 8), (9, 0, 255, 8), (0xA, -8, 7, 4), (0xB, 0, 15, 4), (0xC, -2 ^ 31, 2 ^ 31 - 1, 32), (0xD, 0, 2 ^ 32 - 1, 32)],
      dst = q.1 →
      let lo : Int := q.2.1
      let hi : Int := q.2.2.1
      let code := fun (n : Int) => BitVec.ofInt 32 (n % 2 ^ q.2.2.2)
      (v = .nan → to_ = (0, 0x01#7)) ∧ (∀ neg, v = .inf neg → to_ = (code (if neg then lo else hi), 0x40#7)) ∧
      ∀ neg m e, v = .fin neg m e →
        let r : Rat := (if neg then -(m : Rat) else m) * (2 : Rat) ^ e
        ∃ n : Int, roundsTo mode r n ∧
          to_ = (code (max lo (min hi n)), (if (n : Rat) = r then 0 else 0x08#7) ||| (if lo ≤ n ∧ n ≤ hi then 0 else 0x40#7))))

/-- R198, R199 and R203: selection by a scalar mask, the lane operations, and the moves between the files. -/
def Obligations.VectorLanes : Prop :=
  ∀ (s : State) (c : Ctx) (d a b : Reg), s.issuing c →
    let x := (c.rdV s.issue a).lane
    let y := (c.rdV s.issue b).lane
    (∀ q : BitVec 4, s.givesVector c (.vsel d a b q) 2 d
      (fun l => if (c.rdS s.issue (q.setWidth 6)).getLsbD l then x l else y l) 0) ∧
    s.givesVector c (.vshuf d a b) 2 d (fun l => x ((y l).toNat % 32)) 0 ∧
    (∀ k : BitVec 6, s.givesVector c (.vbcast d a k) 2 d (fun _ => x k.toNat) 0) ∧
    s.givesVector c (.vlaneid d) 2 d (fun l => BitVec.ofNat 32 l) 0 ∧
    s.givesVector c (.vaff d a b) 2 d (fun l => x 0 + BitVec.ofNat 32 l * y 0) 0 ∧
    (∀ i j : BitVec 6, s.givesVector c (.vaffImm d i j) 2 d (fun l => BitVec.ofInt 32 (i.toInt + l * j.toInt)) 0) ∧
    s.givesVector c (.vmovs d a) 2 d (fun _ => (c.rdS s.issue a).setWidth 32) 0 ∧
    (∀ k : BitVec 6, s.givesScalar c (.smovv d a k) 2 d ((x k.toNat).setWidth 64) (s.here c).cf)

/-- R200 and R202: reductions and scans in the fixed order of combination, and the counter generator with its base and
key from b, b + 1 and b + 2.

R200: an integer sum over the active lanes is their sum modulo 2^32, and an inclusive scan gives each active lane the
sum of the active lanes up to it. -/
def Obligations.VectorReduceScan : Prop :=
  (∀ (s : State) (c : Ctx) (d a : Reg) (p : BitVec 6), s.issuing c →
       let v := c.rdV s.issue a
       let m := fmMode s.cur.fm
       let lat := if 8 ≤ p.toNat then 4 else 2
       let act := (List.range 32).filter (fun l => s.cur.em.getLsbD l)
       s.givesVector c (.vreduce d a p) lat d (fun _ => (reduce m p.toNat s.cur.em v).1.getD 0) (reduce m p.toNat s.cur.em v).2 ∧
       s.givesVector c (.vscanInclusive d a p) lat d (fun l => ((scan m p.toNat true v act (none, 0)).1.lookup l).getD 0)
         (scan m p.toNat true v act (none, 0)).2 ∧
       s.givesVector c (.vscanExclusive d a p) lat d (fun l => ((scan m p.toNat false v act (none, 0)).1.lookup l).getD 0)
         (scan m p.toNat false v act (none, 0)).2 ∧
       ∀ b : Reg, s.givesVector c (.vrng d a b) 8 d
         (fun l => grx (c.rdS s.issue (b + 1) ++ c.rdS s.issue b) (v.lane l) (c.rdS s.issue (b + 2))) 0) ∧
  (∀ (m : Mode) (em : Word) (v : VVal),
       let act := (List.range 32).filter (fun l => em.getLsbD l)
       let sum := fun (ls : List Nat) => (ls.map v.lane).foldl (fun x y => x + y) 0#32
       ((reduce m 0 em v).1.getD 0 = sum act) ∧
       ∀ l ∈ act, ((scan m 0 true v act (none, 0)).1.lookup l).getD 0 = sum (act.filter (fun k => k ≤ l)))

/-! ### The control words (R171 to R183) and exceptions (R244 to R249) -/

/-- R173 and R174: BRC tests all 64 bits of its register and BRM tests em as the previous group left it: each branches just when
its condition holds, to word 0 of its target packet in the code, and otherwise changes nothing. Cond 0b11 is reserved, and a
write of em does not reach the em that its group tests. -/
def Obligations.ConditionalBranches : Prop :=
  (∀ (s : State) (c : Ctx), s.issuing c →
    let here : Int := (s.cur.pos / 4 : Nat)
    let tests := fun (j : Instr) (p : Prop) (t : Int) =>
      (p → 0 ≤ t → t < codePackets (s.code s.unit) → s.givesPath c j { s.here c with pc := 4 * t.toNat, mstep := none }) ∧
      (¬ p → exec j s = .next s)
    (∀ a (o : BitVec 15), tests (.brcNz a o) (c.rdS s.issue a ≠ 0#64) (here + o.toInt) ∧ tests (.brcZ a o) (c.rdS s.issue a = 0#64) (here + o.toInt)) ∧
    (∀ o : BitVec 20, tests (.brmNone o) (s.cur.em = 0#32) (here + o.toInt) ∧ tests (.brmAny o) (s.cur.em ≠ 0#32) (here + o.toInt) ∧
      tests (.brmAll o) (s.cur.em = 0xFFFFFFFF#32) (here + o.toInt)) ∧
    (∀ a u, exec (.setem a) s = .next u → u.cur.em = s.cur.em)) ∧
  ∀ (w nxt : Word), fMaj w = 0x12 → fld w 20 2 = 3#2 → decode .cast w nxt = .error .reserved

/-- R171, R172, R175 and R178: BRA and RET, and a FORK whose every lane leaves, go on at word 0 of their target packet, when that
lies in the code, and change nothing else; a FORK from which no lane leaves changes nothing.

R171: a branch whose target lies outside the code faults at the branch word with ProtFault, and the words before it in
its group keep their effect: where one of them still holds the path, the path enters its handler once it does not.

R172 and R162: CALL writes the packet after its own to s47, in the cue stream to q15, as a scalar result, and goes on at
its target.

R179: MCALL enters a macro that its quadrant holds, at its first operation; an undefined macro is an illegal
instruction. -/
def Obligations.BranchesAndCalls : Prop :=
  (∀ (s : State) (c : Ctx), s.issuing c →
       let packets : Int := codePackets (s.code s.unit)
       let here : Int := (s.cur.pos / 4 : Nat)
       let goes := fun (j : Instr) (t : Int) => 0 ≤ t → t < packets → s.givesPath c j { s.here c with pc := 4 * t.toNat, mstep := none }
       (∀ o, goes (.bra o) (here + o.toInt)) ∧
       (∀ a, goes (.ret a) ((c.rdS s.issue a).toNat % 2 ^ 30 : Nat)) ∧
       (∀ a o, s.cur.em &&& (c.rdS s.issue a).setWidth 32 = 0#32 → goes (.fork a o) (here + o.toInt)) ∧
       (∀ a o, s.cur.em &&& ~~~ (c.rdS s.issue a).setWidth 32 = 0#32 → s.cur.em ≠ 0#32 → exec (.fork a o) s = .next s)) ∧
  (∀ (s : State) (c : Ctx) (l : Nat), s.issuing c → s.handledAt c l →
       let packets : Int := codePackets (s.code s.unit)
       let here : Int := (s.cur.pos / 4 : Nat)
       let awaits : Trap := { level := l, cause := 0x0A, tval := s.cur.word.setWidth 64, epc := s.cur.pos, mstep := s.cur.mstep,
                              em := (s.here c).em, park := 0, record := [] }
       let faults := fun (j : Instr) (t : Int) => t < 0 ∨ packets ≤ t →
         ((s.here c).held = none → s.traps c j l 0x0A (s.cur.word.setWidth 64) s.cur.pos true) ∧
         ((s.here c).held ≠ none → exec j s =
           .next { s.setCtx s.unit (c.setPath s.cur.turn.slotB { s.here c with entry := some awaits }) with cur := { s.cur with trap := some true } })
       (∀ o, faults (.bra o) (here + o.toInt)) ∧ (∀ o, faults (.call o) (here + o.toInt)) ∧
       (∀ a o, c.rdS s.issue a ≠ 0#64 → faults (.brcNz a o) (here + o.toInt)) ∧
       (∀ a o, c.rdS s.issue a = 0#64 → faults (.brcZ a o) (here + o.toInt)) ∧
       (∀ o, s.cur.em = 0#32 → faults (.brmNone o) (here + o.toInt)) ∧
       (∀ o, s.cur.em ≠ 0#32 → faults (.brmAny o) (here + o.toInt)) ∧
       (∀ o, s.cur.em = 0xFFFFFFFF#32 → faults (.brmAll o) (here + o.toInt)) ∧
       (∀ a o, s.cur.em &&& (c.rdS s.issue a).setWidth 32 = 0#32 → faults (.fork a o) (here + o.toInt)) ∧
       (∀ a, faults (.ret a) ((c.rdS s.issue a).toNat % 2 ^ 30 : Nat))) ∧
  (∀ (s : State) (c : Ctx) (o : BitVec 21), s.issuing c →
       let t : Int := (s.cur.pos / 4 : Nat) + o.toInt
       let link : Reg := if s.unit.kind = .cue then 15 else 47
       0 ≤ t → t < codePackets (s.code s.unit) →
       ∃ c', c.ScalarResult c' s.issue 1 link (BitVec.ofNat 64 (s.cur.pos / 4 + 1)) (s.here c).cf ∧
         exec (.call o) s = .next (s.setCtx s.unit
           (c'.setPath s.cur.turn.slotB { c'.path s.cur.turn.slotB with pc := 4 * t.toNat, mstep := none }))) ∧
  (∀ (s : State) (c : Ctx) (m : BitVec 7) (x y z : BitVec 5), s.issuing c →
       let held := (s.quad s.unit.quadKey).macros.find m.toNat
       (held ≠ none → s.givesPath c (.mcall m x y z) { s.here c with pc := s.cur.pos, mstep := some 0 }) ∧
       ∀ l, s.handledAt c l → held = none → s.traps c (.mcall m x y z) l 0x01 (s.cur.word.setWidth 64) s.cur.pos false)

/-- R13, R74, R78 and R178: a FORK that splits its path writes a join record into the lowest free entry of the stack, which both
children have as their parent. The continuing path has em AND s; the new path, with em AND NOT s, starts at the target, in the free
slot of the cast, or spilled into the next free entry when there is no free slot. With too few free entries it traps with
DivStackOverflow.

R75, R76, R177 and R162: at JOIN the first child leaves its record and its slot, which the oldest spilled path takes; the second
merges both masks and goes on after the JOIN, with fm and cf of the record. JOIN of a path with no record is no event. YIELD puts
the path behind its sibling, or behind the spilled paths, the oldest of which takes its slot. JOIN and YIELD are NOPs in the cue
stream.

R77 and R356: EXIT waits for the far accesses of its path. Of a path with no record it then leaves the slot, which the oldest spilled
path takes; the first child of a record leaves word of its end there; where the other child waits, the path goes on as that one; where
both have exited, the merged path executes EXIT in its turn. EXIT ends the cue stream (R162), and a sheet with status 0 (R276). -/
def Obligations.PathSplitsEnds : Prop :=
  (∀ (s : State) (c : Ctx) (a : Reg) (o : BitVec 16), s.issuing c →
       let m : Word := (c.rdS s.issue a).setWidth 32
       let t : Int := (s.cur.pos / 4 : Nat) + o.toInt
       let b := s.cur.turn.slotB
       let p := s.here c
       let join : Stk := { em := 0, pc := 0, fm := p.fm, seq := 0, parent := p.parent, cf := p.cf, arrived := false, plvl := 0, kind := 1 }
       let stays := fun (x : Ctx) (r : Nat) => x.path b = { p with em := p.em &&& m, parent := some r } ∧
         ({ x with a := c.a, b := c.b, dsmap := c.dsmap, nextPid := c.nextPid, spilled := c.spilled, undo := c.undo, nspill := c.nspill, next := c.next } : Ctx) = c
       s.cur.em &&& m ≠ 0#32 → s.cur.em &&& ~~~ m ≠ 0#32 → 0 ≤ t → t < codePackets (s.code s.unit) →
       (∀ r more, c.freeEntries = r :: more → (c.path (!b)).live = false →
         ∃ c', exec (.fork a o) s = .next ((s.setStack s.unit r join).setCtx s.unit c') ∧ stays c' r ∧
           c'.path (!b) = { p with pid := c.nextPid, pc := 4 * t.toNat, mstep := none, em := p.em &&& ~~~ m, parent := some r, held := none,
                                   also := [], demoted := true, acq := none, entry := none } ∧
           c'.dsmap = c.dsmap ||| (1#64 <<< r) ∧ c'.nspill = c.nspill) ∧
       (∀ r k more, c.freeEntries = r :: k :: more → (c.path (!b)).live = true →
         let new : Stk := { em := p.em &&& ~~~ m, pc := 4 * t.toNat, fm := p.fm, seq := c.next.toNat, parent := some r, cf := p.cf,
                            arrived := false, plvl := p.plvl, kind := 2 }
         ∃ c', exec (.fork a o) s = .next (((s.setStack s.unit r join).setStack s.unit k new).setCtx s.unit c') ∧ stays c' r ∧
           c'.path (!b) = c.path (!b) ∧ c'.dsmap = c.dsmap ||| (1#64 <<< r) ||| (1#64 <<< k) ∧ c'.nspill = c.nspill + 1 ∧ c'.next = c.next + 1) ∧
       ∀ l, s.handledAt c l → c.freeEntries.length < (if (c.path (!b)).live then 2 else 1) →
         s.traps c (.fork a o) l 0x13 (s.cur.word.setWidth 64) s.cur.pos false) ∧
  (∀ (s : State) (c : Ctx) (r : Nat), s.issuing c → s.unit.kind = .cast → (s.here c).parent = some r →
       let b := s.cur.turn.slotB
       let p := s.here c
       let e := s.stack s.unit r
       let left := s.setStack s.unit r { e with em := p.em, arrived := true, pc := p.pc }
       let freed := s.setStack s.unit r { e with kind := 0 }
       let merged := fun (c' : Ctx) (em : Word) (pc : Nat) =>
         let slot := b && c.a.live
         (∃ n rs, c'.path slot = { p with pid := n, pc := pc, mstep := none, em := em, fm := e.fm, cf := e.cf, parent := e.parent, win := [],
                                          runs := rs, held := none, also := [], demoted := false }) ∧
         (slot = b → c'.path (!b) = c.path (!b)) ∧ (slot ≠ b → c'.path b = Path.none) ∧ c'.dsmap = c.dsmap &&& ~~~ (1#64 <<< r) ∧
         c'.s = c.s ∧ c'.v = c.v ∧ c'.st = c.st ∧ c'.tx = c.tx ∧ c'.h = c.h ∧ c'.sup = c.sup ∧ c'.hyp = c.hyp ∧ c'.cctl = c.cctl
       (e.arrived = false → left.oldestSpilled s.unit c = none → exec .join s = .next (left.setCtx s.unit (c.setPath b Path.none))) ∧
       (∀ k, e.arrived = false → left.oldestSpilled s.unit c = some k → (c.path (!b)).live = true →
         let x := left.stack s.unit k
         ∃ u c', exec .join s = .next u ∧ u.ctxs.find s.unit = some c' ∧ (c'.path b).live = true ∧ (c'.path b).em = x.em ∧ (c'.path b).pc = x.pc ∧
           (c'.path b).fm = x.fm ∧ (c'.path b).cf = x.cf ∧ (c'.path b).parent = x.parent ∧ (c'.path b).plvl = x.plvl ∧ (c'.path b).win = [] ∧
           (c'.path b).readyAt = s.cycle + 8 ∧ c'.dsmap = c.dsmap &&& ~~~ (1#64 <<< k) ∧ c'.nspill = c.nspill - 1) ∧
       (e.arrived = true → ((c.path (!b)).live = true ∧ p.live = true) ∨ (∀ k ∈ c.usedEntries, k ≠ r → (freed.stack s.unit k).kind ≠ 2) →
         ∃ c', exec .join s = .next (freed.setCtx s.unit c') ∧ merged c' (e.em ||| p.em) p.pc)) ∧
  (∀ (s : State) (c : Ctx), s.issuing c → s.unit.kind = .cast →
       let b := s.cur.turn.slotB
       let p := s.here c
       (p.parent = none → exec .join s = .next s) ∧
       (p.live = true → s.oldestSpilled s.unit c = none → s.givesPath c .yield { p with demoted := true }) ∧
       (∀ k, p.live = true → s.oldestSpilled s.unit c = some k →
         let x := s.stack s.unit k
         let mine : Stk := { em := p.em, pc := p.pc, fm := p.fm, seq := c.next.toNat, parent := p.parent, cf := p.cf, arrived := false,
                             plvl := p.plvl, kind := 2 }
         ∃ c', exec .yield s = .next (((s.setStack s.unit k { x with kind := 0 }).setStack s.unit k mine).setCtx s.unit c') ∧
           (c'.path b).live = true ∧ (c'.path b).em = x.em ∧ (c'.path b).pc = x.pc ∧ (c'.path b).fm = x.fm ∧ (c'.path b).cf = x.cf ∧
           (c'.path b).parent = x.parent ∧ (c'.path b).plvl = x.plvl ∧ (c'.path b).win = [] ∧ (c'.path b).readyAt = s.cycle + 8 ∧
           c'.path (!b) = c.path (!b) ∧ c'.next = c.next + 1 ∧ c'.s = c.s ∧ c'.v = c.v ∧ c'.st = c.st) ∧
       (s.pathFar s.unit p = true → p.held = none → s.holds c .exit s [] false) ∧
       (s.pathFar s.unit p = false → p.parent = none → s.oldestSpilled s.unit c = none →
         ∃ t c', exec .exit s = .next t ∧ t.ctxs.find s.unit = some c' ∧ (c'.path b).live = false) ∧
       (∀ k, s.pathFar s.unit p = false → p.parent = none → s.oldestSpilled s.unit c = some k → (c.path (!b)).live = true →
         let x := s.stack s.unit k
         ∃ t c', exec .exit s = .next t ∧ t.ctxs.find s.unit = some c' ∧ (c'.path b).live = true ∧ (c'.path b).em = x.em ∧ (c'.path b).pc = x.pc ∧
           (c'.path b).fm = x.fm ∧ (c'.path b).cf = x.cf ∧ (c'.path b).parent = x.parent ∧ (c'.path b).plvl = x.plvl ∧ (c'.path b).win = [] ∧
           (c'.path b).readyAt = s.cycle + 8 ∧ c'.dsmap = c.dsmap &&& ~~~ (1#64 <<< k) ∧ c'.nspill = c.nspill - 1) ∧
       ∀ r, s.pathFar s.unit p = false → p.parent = some r →
         let e := s.stack s.unit r
         let gone := s.setStack s.unit r { e with arrived := true, pc := exitedPc }
         (e.arrived = false → gone.oldestSpilled s.unit c = none →
           ∃ t c', exec .exit s = .next t ∧ t.ctxs.find s.unit = some c' ∧ (c'.path b).live = false ∧ t.scratch = gone.scratch) ∧
         let freed := s.setStack s.unit r { e with kind := 0 }
         let none' := ∀ k ∈ c.usedEntries, k ≠ r → (freed.stack s.unit k).kind ≠ 2
         (e.arrived = true → e.pc ≠ exitedPc → ((c.path (!b)).live = true ∧ p.live = true) ∨ none' →
           ∃ t c', exec .exit s = .next t ∧ t.ctxs.find s.unit = some c' ∧ (c'.path (b && c.a.live)).live = p.live ∧
             (c'.path (b && c.a.live)).em = e.em ∧ (c'.path (b && c.a.live)).pc = e.pc ∧ (c'.path (b && c.a.live)).parent = e.parent) ∧
         (e.arrived = true → e.pc = exitedPc → none' →
           (e.parent = none → ∃ t c', exec .exit s = .next t ∧ t.ctxs.find s.unit = some c' ∧ (c'.path b).live = false ∧
             c'.dsmap = c.dsmap &&& ~~~ (1#64 <<< r) ∧ t.scratch = freed.scratch) ∧
           ∀ q, e.parent = some q → (freed.stack s.unit q).arrived = false →
             ∃ t c', exec .exit s = .next t ∧ t.ctxs.find s.unit = some c' ∧ (c'.path b).live = false ∧ c'.dsmap = c.dsmap &&& ~~~ (1#64 <<< r) ∧
               t.scratch = (freed.setStack s.unit q { freed.stack s.unit q with arrived := true, pc := exitedPc }).scratch)) ∧
  (∀ (s : State) (c : Ctx), s.issuing c → s.unit.kind ≠ .cast → exec .join s = .next s ∧ exec .yield s = .next s) ∧
  (∀ (s : State) (c : Ctx), s.issuing c →
       (∀ k q, s.unit = .cue k q → ∃ t c', exec .exit s = .next t ∧ t.ctxs.find s.unit = some c' ∧ c'.ended = true ∧ c'.a.live = false ∧
         c'.s = c.s ∧ t.scratch = s.scratch ∧ t.mem = s.mem) ∧
       ∀ v q, s.unit = .board v q → ∃ t, exec .exit s = .next t ∧ t.ctxs.find s.unit = none ∧ t.mem = s.mem ∧
         ∀ y seq at_, s.queue v q = some y → y.running = some (seq, at_) →
           ∃ y', t.queue v q = some y' ∧ y'.running = none ∧ y'.finished = y.finished ++ [(seq, 0)])

/-- R180: the words that read and write em and fm of the path. SETFMT refuses a value that breaks R93, with no change. -/
def Obligations.MaskAndFormat : Prop :=
  ∀ (s : State) (c : Ctx) (r : Reg), s.issuing c →
    let x : Word := (c.rdS s.issue r).setWidth 32
    s.givesPath c (.setem r) { s.here c with em := x } ∧
    s.givesScalar c (.getem r) 1 r (s.cur.em.setWidth 64) (s.here c).cf ∧
    (fmLegal x = true → s.givesPath c (.setfmt r) { s.here c with fm := x }) ∧
    (∀ l, s.handledAt c l → fmLegal x = false → s.traps c (.setfmt r) l 0x01 (s.cur.word.setWidth 64) s.cur.pos false) ∧
    s.givesScalar c (.getfmt r) 1 r (s.cur.fm.setWidth 64) (s.here c).cf

/-- R244 and R245: the words whose effect is an exception. At a level whose handler is free, a pool marker takes ExecData, a
word that decodes as ReservedEncoding takes ReservedEncoding, and TRAP takes Breakpoint with its number as the value and the
next word as the place to resume.

R249: ERET puts back em, the level and the position that the level's registers hold, frees the level, and empties the
window; with no parked lane of the path nothing else changes but the undo log. The far accesses of its unparked lanes are issued again, an
LDS of theirs reads at once, the lanes that stay parked are finished, and the records of both go. A saved level of 3 is an illegal instruction. -/
def Obligations.ExceptionEntryReturn : Prop :=
  (∀ (s : State) (c : Ctx) (l : Nat), s.issuing c → s.handledAt c l →
       (∀ n, s.traps c (.pool n) l 0x03 (s.cur.word.setWidth 64) s.cur.pos false) ∧
       (∀ w, s.traps c (.reservedEncodingWord w) l 0x02 (s.cur.word.setWidth 64) s.cur.pos false) ∧
       (∀ k, (s.here c).held = none → s.traps c (.trap k) l 0x14 (k.setWidth 64) s.cur.after true) ∧
       ∀ k, (s.here c).held ≠ none →
         let awaits : Trap := { level := l, cause := 0x14, tval := k.setWidth 64, epc := s.cur.after,
                                mstep := if s.cur.after = s.cur.pos then s.cur.mstep else none, em := (s.here c).em, park := 0, record := [] }
         exec (.trap k) s = .next { s.setCtx s.unit (c.setPath s.cur.turn.slotB { s.here c with entry := some awaits }) with
                                    cur := { s.cur with trap := some true } }) ∧
  (∀ (s : State) (c : Ctx), s.issuing c →
       let p := s.here c
       let l := c.level p.plvl
       let back := (l.cause.toNat / 2 ^ 8) % 4
       let r : Path := { p with em := l.em &&& ~~~ l.park, plvl := BitVec.ofNat 2 back, win := [], pc := l.epc.toNat, mstep := l.mstep, held := none,
                                also := [], delayed := false, entry := none }
       let ended := fun (k : Park) => k.level = p.plvl.toNat ∧ active l.em k.lane = true
       let again := fun (k : Park) => ended k ∧ active l.park k.lane = false
       (back ≠ 3 → c.parked = [] →
         ∃ u, exec .eret s = .next (s.setCtx s.unit
           (({ c.setLevel p.plvl { l with busy := none, mstep := none } with
               whole := c.whole.filter (fun w => w.1 ≠ p.plvl.toNat), undo := u }).setPath s.cur.turn.slotB r))) ∧
       let own := fun (k : Park) => again k ∧ k.op.cls = .fetch
       (back ≠ 3 → s.replayFull s.unit c p = false → (∀ k ∈ c.parked, ¬ own k) →
         ∃ t c' fs, exec .eret s = .next t ∧ t.ctxs.find s.unit = some c' ∧ t.fars = s.fars ++ fs ∧
           c'.path s.cur.turn.slotB = { r with acq := (c'.path s.cur.turn.slotB).acq } ∧ c'.s = c.s ∧ c'.v = c.v ∧ c'.st = c.st ∧
           (∀ k, k ∈ c'.parked ↔ k ∈ c.parked ∧ ¬ ended k) ∧
           (∀ f ∈ fs, f.checked = false ∧ f.done = false ∧ f.todo = f.lanes ∧
             ∃ k ∈ c.parked, again k ∧ f.unit = k.op.unit ∧ f.instr = k.op.instr ∧ f.va = k.op.va ∧ f.data = k.op.data) ∧
           (∀ k ∈ c.parked, again k → ∃ f ∈ fs, active f.todo k.lane = true ∧
             ∃ j ∈ c.parked, j.op.id = k.op.id ∧ f.instr = j.op.instr ∧ f.va = j.op.va) ∧
           t.mem = s.mem ∧ t.scratch = s.scratch) ∧
       (∀ k n d a b, back ≠ 3 → c.parked = [k] → own k → k.op.instr = .lds d a b 4 → k.op.dest = some n → n < 56 → k.lane < 32 →
         let at_ := (k.op.va.getD k.lane 0).toNat
         (∀ j, j < 4 → (at_ + j) / 4 ∉ s.scratchPoison) →
         ∃ t c', exec .eret s = .next t ∧ t.ctxs.find s.unit = some c' ∧ (c'.vreg n).lane k.lane = BitVec.ofNat 32 (leNat (s.scratch.bytes at_ 4)) ∧
           (∀ l, l < 32 → l ≠ k.lane → (c'.vreg n).lane l = (c.vreg n).lane l) ∧ (∀ m, m ≠ n → c'.vreg m = c.vreg m) ∧
           c'.path s.cur.turn.slotB = r ∧ c'.parked = [] ∧ c'.s = c.s ∧ t.fars = s.fars ∧ t.mem = s.mem ∧ t.scratch = s.scratch) ∧
       (back ≠ 3 → s.replayFull s.unit c p = true → p.held = none → s.holds c .eret s [] false) ∧
       ∀ n, s.handledAt c n → back = 3 → s.traps c .eret n 0x01 (s.cur.word.setWidth 64) s.cur.pos false)

/-- R181: SCENE traps in a diverged cast. It holds its path while a counter of the cast is above zero, with the scalars to save as they
were read; once none is, its earlier stores are performed at device scope, the entry write is under way, and the path sleeps until it
is performed.

R181 and R182: the entry write of a SCENE is performed, through stage 2. The entry holds the cast's mask, the position after the word,
fm, the first register and the number of the saved scalars, the new SCSEQ and the scalars; the cast has committed one scene more, its
post ordinal starts again, its watchdog count too, and the word no longer holds its path. -/
def Obligations.Scenes : Prop :=
  (∀ (s : State) (c : Ctx) (a : Reg) (n : BitVec 6), s.issuing c → s.cur.vals = none → (s.here c).held = none →
       let u := s.unit
       let quiet := s.counter u .g = 0 ∧ s.counter u .a = 0 ∧ s.counter u .t = 0 ∧ s.counter u .x = 0
       let vals := (List.range n.toNat).map (fun k => c.rdS s.issue (a + BitVec.ofNat 6 k))
       (∀ l, s.handledAt c l → 1 < s.castPaths u → s.traps c (.scene a n) l 0x01 (s.cur.word.setWidth 64) s.cur.pos false) ∧
       (s.castPaths u ≤ 1 → ¬ quiet → s.holds c (.scene a n) s vals false) ∧
       (s.castPaths u ≤ 1 → quiet →
         s.holds c (.scene a n) ((s.drainUnit u).later { kind := .sceneCommitComplete, unit := u, id := s.cur.tag }) vals true)) ∧
  (∀ (s : State) (c : Ctx) (k : Nat) (tr : Troupe) (h : Held) (p : Point) (v : Vdi) (a : Reg) (n : BitVec 6) (old : List Byte) (w : State),
       s.ctxs.find s.ev.unit = some c → s.troupeOf s.ev.unit = some (k, tr) → c.sleeper s.ev.id = some h → h.instr = .scene a n →
       s.pointOf tr = some p → s.vdis.find tr.vdi = some v →
       let gpa := v.img.resumeBase + 0x4000 * p.resume + 128 * (16 * tr.member + tr.castNumber s.ev.unit)
       s.readGuest v gpa 128 = .ok old →
       s.writeGuest v gpa (leBytes 8 (h.em.toNat * 2 ^ 32 + h.after) ++ leBytes 8 (h.fm.toNat * 2 ^ 32 + a.toNat * 2 ^ 8 + h.vals.length * 2 ^ 4 + 1) ++
         leBytes 8 (c.scseq + 1).toNat ++ leBytes 8 0 ++ h.vals.flatMap (fun x => leBytes 8 x.toNat) ++
         (old.drop (0x20 + 8 * h.vals.length)).take (64 - 8 * h.vals.length) ++ leBytes 32 0) = .ok w →
       let woken := fun (q : Path) => q.onHolders (fun x => x.asleep && decide (x.tag = s.ev.id)) (fun _ => none) s.cycle
       ∃ t, exec .sceneCommitComplete s = .next t ∧ t.mem = w.mem ∧ t.scratch = s.scratch ∧ t.fars = s.fars ∧
         t.ctxs.find s.ev.unit = some { c with scseq := c.scseq + 1, ordinal := 0, sceneAt := some s.cycle, a := woken c.a, b := woken c.b,
                                               spilled := c.spilled.map (fun e => (e.1, woken e.2)) } ∧
         (∀ q ∈ t.points, q.slot = tr.slot → q.point = tr.point → q.watch = 0) ∧ (∀ x, x ≠ s.ev.unit → t.ctxs.find x = s.ctxs.find x))

/-! ### Scratchpad and far words (R113 to R143, R205 to R218) -/

/-- R208 and R113: LDS reads little-endian values at a + sext(b, 32) of the troupe's scratchpad, and extends them by its
function; under em = 0 it accesses nothing, and its result still enters the window. The first failing active lane decides the
trap: Misaligned, then ScratchBounds.

R208, R113 and R128: STS writes the low bytes of d at a + sext(b, 32), the highest active lane last; every byte of
scratchpad outside the stored ones, and the rest of the machine, stay.

R209 and R118: ATOMS on the own scratchpad checks its lanes as LDS does, drains the troupe's buffers when it is a release at .device or wider, and carries out one read-modify-write for each active lane, in ascending lane order; d
receives the old words. R79: when a compare-and-swap has failed in some lane, its path is demoted as the results are written.

That a result under em = 0 still enters the window is the model's choice of log entry 19, and that the scratchpad is read and
written at issue, two cycles before its banks, that of log entries 13 and 53. -/
def Obligations.ScratchAccess : Prop :=
  (∀ (s : State) (c : Ctx) (k : Nat) (t : Troupe) (d a b : Reg) (z : BitVec 3), s.issuing c → z.toNat ≤ 4 →
       s.troupeOf s.unit = some (k, t) →
       let size : Nat := [1, 1, 2, 2, 4].getD z.toNat 4
       let addr := fun (l : Nat) => ((c.rdS s.issue a).toNat : Int) + ((c.rdV s.issue b).lane l).toInt
       let aligned := fun l => addr l % (size : Int) = 0
       let inside := fun l => 0 ≤ addr l ∧ addr l < t.quads.length * 2 ^ 20 ∧ addr l % 2 ^ 20 < 0xFF000
       let at_ := fun l => t.scratchAddr (addr l).toNat
       let raw := fun l => leNat (s.scratch.bytes (at_ l) size)
       ((∀ l, l < 32 → active s.cur.em l = true →
           aligned l ∧ inside l ∧ ∀ j : Nat, j < size → s.scratchPoison.contains ((at_ l + j) / 4) = false) →
         s.givesVector c (.lds d a b z) 6 d (fun l =>
           if z = 0#3 then (BitVec.ofNat 8 (raw l)).signExtend 32
           else if z = 2#3 then (BitVec.ofNat 16 (raw l)).signExtend 32
           else BitVec.ofNat 32 (raw l)) 0) ∧
       ∀ n l, s.handledAt c n → l < 32 → active s.cur.em l = true →
         (∀ j, j < l → active s.cur.em j = true → aligned j ∧ inside j) →
         (¬ aligned l → s.traps c (.lds d a b z) n 0x07 (s.cur.word.setWidth 64) s.cur.pos false) ∧
         (aligned l → ¬ inside l → s.traps c (.lds d a b z) n 0x08 (s.cur.word.setWidth 64) s.cur.pos false)) ∧
  (∀ (s : State) (c : Ctx) (k : Nat) (t : Troupe) (d a b : Reg) (z : BitVec 3), s.issuing c → z.toNat ≤ 4 →
       s.troupeOf s.unit = some (k, t) → s.scratch.wf = true →
       let size : Nat := [1, 1, 2, 2, 4].getD z.toNat 4
       let addr := fun (l : Nat) => ((c.rdS s.issue a).toNat : Int) + ((c.rdV s.issue b).lane l).toInt
       let aligned := fun l => addr l % (size : Int) = 0
       let inside := fun l => 0 ≤ addr l ∧ addr l < t.quads.length * 2 ^ 20 ∧ addr l % 2 ^ 20 < 0xFF000
       let at_ := fun l => t.scratchAddr (addr l).toNat
       let covers := fun (l x : Nat) => l < 32 ∧ active s.cur.em l = true ∧ at_ l ≤ x ∧ x < at_ l + size
       ((∀ l, l < 32 → active s.cur.em l = true → aligned l ∧ inside l) →
         ∃ m q, exec (.sts d a b z) s = .next { s with scratch := m, scratchPoison := q } ∧
           (∀ w, w ∈ q ↔ w ∈ s.scratchPoison ∧ ¬ (size = 4 ∧ ∃ l, l < 32 ∧ active s.cur.em l = true ∧ at_ l / 4 = w)) ∧
           (∀ l x, covers l x → (∀ j, l < j → ¬ covers j x) →
             m.read x = BitVec.ofNat 8 (((c.rdV s.issue d).lane l).toNat / 256 ^ (x - at_ l))) ∧
           (∀ x, (∀ l, ¬ covers l x) → m.read x = s.scratch.read x)) ∧
       ∀ n l, s.handledAt c n → l < 32 → active s.cur.em l = true →
         (∀ j, j < l → active s.cur.em j = true → aligned j ∧ inside j) →
         (¬ aligned l → s.traps c (.sts d a b z) n 0x07 (s.cur.word.setWidth 64) s.cur.pos false) ∧
         (aligned l → ¬ inside l → s.traps c (.sts d a b z) n 0x08 (s.cur.word.setWidth 64) s.cur.pos false)) ∧
  (∀ (s : State) (c : Ctx) (k : Nat) (t : Troupe) (d a : Reg) (p : BitVec 4) (o e : BitVec 2), s.issuing c →
       s.troupeOf s.unit = some (k, t) → p.toNat ≤ 0xB →
       let addr := fun l => ((c.rdV s.issue a).lane l).toNat
       let at_ := fun l => t.scratchAddr (addr l)
       let op := fun (m x y : Word) => match p.toNat with
         | 0 => m + x | 1 => m - x
         | 2 => if x.toInt < m.toInt then x else m | 3 => if m.toInt < x.toInt then x else m
         | 4 => if x.toNat < m.toNat then x else m | 5 => if m.toNat < x.toNat then x else m
         | 6 => m &&& x | 7 => m ||| x | 8 => m ^^^ x | 9 => x
         | 10 => if m = x then y else m
         | _ => (fadd .rne m x).1
       let after := fun n => ((List.range n).filter (active s.cur.em)).foldl (fun (m : Memory) l =>
         m.putWord (at_ l) (op (m.word (at_ l)) ((c.rdV s.issue d).lane l) ((c.rdV s.issue (d + 1)).lane l))) s.scratch
       let inside := fun l => addr l < t.quads.length * 2 ^ 20 ∧ addr l % 2 ^ 20 < 0xFF000
       let s0 := if o.getLsbD 1 = true ∧ 2 ≤ e.toNat then s.drainUnit s.unit else s
       ((∀ l, l < 32 → active s.cur.em l = true → addr l % 4 = 0 ∧ inside l ∧ s.scratchPoison.contains (at_ l / 4) = false) →
         let failed := p = 0xA#4 ∧ ∃ l, l < 32 ∧ active s.cur.em l = true ∧ (after l).word (at_ l) ≠ (c.rdV s.issue d).lane l
         ∃ c', c.VectorResult c' s.issue 6 d (.ofFn (fun l => (after l).word (at_ l))) c.st ∧
           (¬ failed → exec (.atoms d a p o e 0) s = .next ({ s0 with scratch := after 32 }.setCtx s.unit c')) ∧
           (failed → exec (.atoms d a p o e 0) s = .next ({ { s0 with scratch := after 32 }.setCtx s.unit c' with
             due := s0.due ++ [(s.cycle + 6, { kind := .remoteAtomsReturn, unit := s.unit, a := (s.here c).pid, flag := true })] }))) ∧
       ∀ n l, s.handledAt c n → l < 32 → active s.cur.em l = true → (∀ j, j < l → active s.cur.em j = true → addr j % 4 = 0 ∧ inside j) →
         (addr l % 4 ≠ 0 → s.traps c (.atoms d a p o e 0) n 0x07 (s.cur.word.setWidth 64) s.cur.pos false) ∧
         (addr l % 4 = 0 → ¬ inside l → s.traps c (.atoms d a p o e 0) n 0x08 (s.cur.word.setWidth 64) s.cur.pos false))

/-- R205 to R212: a far word hands one access for each active lane, at BASE(tx) + sext(a, 32), to the engines: LDG, POLL and
STG count in cnt.g, ATOM in cnt.a. TLD and TST hand a tile to the feeders, which cnt.t counts. With em = 0 a far word has no
effect; POLL demotes its path then too.

R28, R209, R210 and R152: LDSX, STSX and a remote ATOMS name, lane by lane, a quadrant and an offset of the core at an
offset from their own; the core lies in the partition and its quadrant in a troupe of the tenant.

That POLL demotes its path under em = 0 is the model's choice of log entry 19. -/
def Obligations.FarIssue : Prop :=
  (∀ (s : State) (c : Ctx) (d a : Reg) (t : BitVec 3) (o e : BitVec 2) (p : BitVec 3), s.issuing c →
       let rd := fun (r : Reg) l => (c.rdV s.issue r).lane l
       let lanes := fun (f : FarOp) => f.acq = o.getLsbD 0 ∧ f.rel = o.getLsbD 1 ∧ f.scope = e ∧
         ∀ l, l < 32 → f.va[l]? = some (BitVec.ofInt 64 (((c.tx[t.toNat]?.getD Tx.zero).base.toNat : Int) + (rd a l).toInt))
       let load := fun (_ : State) (f : FarOp) => lanes f ∧ f.dest = if d.toNat < 56 then some d.toNat else none
       let store := fun (_ : State) (f : FarOp) => lanes f ∧ ∀ l, l < 32 → f.data[l]? = some (rd d l)
       (s.cur.em ≠ 0#32 →
         s.issuesFar c (.ldg d a t o e) .g load ∧ s.issuesFar c (.ldgN16 d a t o e) .g load ∧ s.issuesFar c (.ldgN8 d a t o e) .g load ∧
         s.issuesFar c (.poll d a t o e) .g (fun u f => load u f ∧ u.cur.demote = true) ∧
         s.issuesFar c (.stg d a t o e) .g store ∧ s.issuesFar c (.stg16 d a t o e) .g store ∧ s.issuesFar c (.stg8 d a t o e) .g store ∧
         s.issuesFar c (.atom d a t o e p) .a (fun u f => load u f ∧ store u f ∧
           (p = 7#3 → ∀ l, l < 32 → f.data2[l]? = some (rd (d + 1) l)))) ∧
       (∀ (h : BitVec 4) (k : Nat) (tr : Troupe), s.cur.em ≠ 0#32 → s.troupeOf s.unit = some (k, tr) →
         let hd := c.handle h
         let origin := c.rdS s.issue a
         let extent := c.rdS s.issue (a + 1)
         let addr := (c.rdS s.issue d).toNat
         let tile := fun (_ : State) (f : FarOp) => f.tile = hd.toList ++ [origin, extent, BitVec.ofNat 64 (tr.scratchAddr addr)]
         hLegal hd = true → tileFits hd origin extent = true → addr % 64 = 0 → tr.regionBad addr (if (extentOf hd extent).contains 0 then 0
           else tileBytes (elemWidth (hFmt hd)) (hSpitch hd) (extentOf hd extent)) = false →
         s.issuesFar c (.tld d a h) .t tile ∧ (hDense hd = true → s.issuesFar c (.tst d a h) .t tile)) ∧
       (s.cur.em = 0#32 → (∀ h k tr, s.troupeOf s.unit = some (k, tr) → exec (.tld d a h) s = .next s ∧ exec (.tst d a h) s = .next s) ∧
         (∀ i ∈ [Instr.ldg d a t o e, .ldgN16 d a t o e, .ldgN8 d a t o e, .stg d a t o e, .stg16 d a t o e, .stg8 d a t o e, .atom d a t o e p],
           exec i s = .next s) ∧
         exec (.poll d a t o e) s = .next { s with cur := { s.cur with demote := true } })) ∧
  (∀ (s : State) (c : Ctx) (v : Vdi) (d a : Reg) (x y : BitVec 4) (o : BitVec 1) (p : BitVec 4) (q e : BitVec 2), s.issuing c → s.cur.em ≠ 0#32 →
       s.vdis.find (s.vdiOf s.unit) = some v →
       let w := fun l => (c.rdV s.issue a).lane l
       let ok := fun (dx dy : Int) (n : Nat) (at_ : Nat) => ∃ k j t, coreOffset s.unit.place.1 dx dy = some k ∧ v.hasCore k = true ∧
         s.troupeAt k (n / 2 ^ 20 % 4) = some (j, t) ∧ t.vdi = s.vdiOf s.unit ∧ n % 4 = 0 ∧ n % 2 ^ 20 < 0xFF000 ∧
         at_ = (k * 4 + n / 2 ^ 20 % 4) * 2 ^ 20 + n % 2 ^ 20
       let dx := fun l => ((w l).extractLsb' 24 4).toInt
       let dy := fun l => ((w l).extractLsb' 28 4).toInt
       ∀ at_ : Nat → Nat,
         let places := fun (f : FarOp) => ∀ l, l < 32 → active s.cur.em l = true → f.va[l]? = some (BitVec.ofNat 64 (at_ l))
         let into := fun (f : FarOp) => f.dest = if d.toNat < 56 then some d.toNat else none
         let from_ := fun (f : FarOp) => ∀ l, l < 32 → f.data[l]? = some ((c.rdV s.issue d).lane l)
         ((∀ l, l < 32 → active s.cur.em l = true → (w l).toNat < 2 ^ 22 ∧ ok x.toInt y.toInt (w l).toNat (at_ l)) →
           s.issuesFar c (.ldsx d a x y o) .g (fun _ f => places f ∧ into f ∧ f.acq = decide (o = 1#1)) ∧
           s.issuesFar c (.stsx d a x y o) .g (fun _ f => places f ∧ from_ f ∧ f.rel = decide (o = 1#1))) ∧
         ((∀ l, l < 32 → active s.cur.em l = true → inFootprint v.img (dx l) (dy l) = true ∧ (w l).extractLsb' 22 2 = 0#2 ∧
             ok (dx l) (dy l) (w l).toNat (at_ l)) →
           s.issuesFar c (.atoms d a p q e 1) .a (fun _ f => places f ∧ into f ∧ from_ f ∧ f.acq = q.getLsbD 0 ∧ f.rel = q.getLsbD 1 ∧ f.scope = e)))

/-- R213, R207, R118 and R124: FENCE drains the unit's stores when its scope is .device or wider, completes once every
earlier access of the unit is performed, and holds its path until then; WAITC holds its path while the counter exceeds n;
TXL reads s, waits for its walk, and then writes the translation register with what both stages gave. -/
def Obligations.FenceWaitTranslate : Prop :=
  ∀ (s : State) (c : Ctx) (e l : BitVec 2) (n : BitVec 6) (t : BitVec 3) (a : Reg), s.issuing c → (s.here c).held = none →
    let s1 := if 2 ≤ e.toNat then s.drainUnit s.unit else s
    let prior := ∀ f ∈ s.fars, f.unit = s.unit → f.id < s.cur.tag → f.cls = .g ∨ f.cls = .a ∨ f.cls = .t → f.performed = true
    let cls := if l = 0#2 then Cls.g else if l = 1#2 then .a else if l = 2#2 then .t else .x
    (prior → exec (.fence e) s = .next s1) ∧ (¬ prior → s.holds c (.fence e) s1 [] false) ∧
    (s.counter s.unit cls ≤ n.toNat → exec (.waitc n l) s = .next s) ∧
    (n.toNat < s.counter s.unit cls → s.holds c (.waitc n l) s [] false) ∧
    (s.cur.vals = none →
      s.holds c (.txl t a) (s.later { kind := .translationWalkComplete, unit := s.unit, id := s.cur.tag }) [c.rdS s.issue a] true) ∧
    (∀ va k x s2, s.cur.vals = some [va, k] → addressCheck (va.toNat : Int) 1 = none → s.translate (s.vdiOf s.unit) va.toNat = (s2, .ok x) →
      s2.backed x.pa = true →
      let v := va.toNat % 2 ^ 57
      ∃ u r q, exec (.txl t a) s = .next (s2.setCtx s.unit { c with tx := c.tx.setIfInBounds t.toNat r, undo := u, poisonS := q }) ∧
        r = { base := va, frame := BitVec.ofNat 64 x.pa, r := x.one.r && x.two.r, w := x.one.w && x.two.w, x := x.one.x && x.two.x, u := x.one.u,
              limit := BitVec.ofNat 64 (min (x.one.base + x.one.size - v) (x.two.base + x.two.size - x.one.apply v)),
              page := BitVec.ofNat 64 x.one.base, pageSize := x.one.size })

/-- R116, R117, R118, R212 and R217: what the engines do when an access performs or returns. A load writes the lanes of its
destination alone; a store at .device or wider through a translation register changes the bytes it stores alone, and one at .cast or
.troupe what the troupe's loads see of them; a release drains the troupe's buffers first; LDSX and STSX read and write the scratchpad that
they name; an atomic
changes its words at the home in ascending lane order and keeps the old ones, which then return to its destination; a compare-and-swap that
has failed demotes its path (R79). A tile is checked, its rows move, those that share a word at once, and a tile without rows ends.

That a tile is first checked in all its rows and then moves rows event by event is the model's choice of log entry 25, with the
wait for older accesses of log entry 66; the order of the lanes within one event is that of log entry 16. -/
def Obligations.FarAccessPerforms : Prop :=
  ∀ (s : State) (f : FarOp) (k : Nat) (t : Troupe) (c : Ctx),
    s.fars.find? (fun x => decide (x.id = s.ev.id)) = some f → s.troupeOf f.unit = some (k, t) → s.ctxs.find f.unit = some c →
    let m := s.ev.word &&& f.todo
    let pa := fun (l : Nat) => (f.pa[l]?.getD none).getD 0
    let ready := m ≠ 0#32 ∧ s.mayPerform f m = true ∧ s.mem.wf = true ∧ s.scratch.wf = true ∧ ∀ l : Nat, f.hits[l]?.getD none = none
    let home := ready ∧ ∀ l, s.heldEntry t (pa l / 64) = none
    -- a release at .device or .system drains the troupe's buffers first
    let s0 := if f.rel = true ∧ 2 ≤ f.scope.toNat then s.drainUnit f.unit else s
    let stores := fun (d a : Reg) (x : BitVec 3) (o e : BitVec 2) => [(Instr.stg d a x o e, 4), (.stg16 d a x o e, 2), (.stg8 d a x o e, 1)]
    let written := fun (l y : Nat) => BitVec.ofNat 8 ((f.data.getD l 0).toNat / 256 ^ (y - pa l))
    let tl := f.tileOf
    let tile := (∃ a b h, f.instr = .tld a b h) ∧ f.done = false ∧ f.todo ≠ 0#32 ∧ f.moving = false ∧ s.hands.find f.unit = none
    (∀ d a x o e n, ∀ q ∈ [(Instr.ldg d a x o e, 4), (.poll d a x o e, 4), (.ldgN16 d a x o e, 2), (.ldgN8 d a x o e, 1)],
      n < 56 → f.instr = q.1 → m ≠ 0#32 → s.mayPerform f m = true → f.dest = some n →
      (∀ l, l < 32 → active m l = true → s.homeBad t (pa l) q.2 = false ∧ pa l / 64 ∉ f.spoiled) →
      ∃ u c', exec .farLoadReturn s = .next u ∧ u.ctxs.find f.unit = some c' ∧
        (∀ l, l < 32 → active m l = true →
          (c'.vreg n).lane l = BitVec.ofNat 32 (leNat ((List.range q.2).map (fun j => s.troupeByte k t (pa l + j))))) ∧
        (∀ l, l < 32 → active m l = false → (c'.vreg n).lane l = (c.vreg n).lane l) ∧
        (∀ j, j ≠ n → c'.vreg j = c.vreg j) ∧ c'.s = c.s ∧ c'.st = c.st ∧ c'.a = c.a ∧ c'.b = c.b ∧ u.mem = s.mem ∧ u.scratch = s.scratch) ∧
    (∀ d a x y o n, n < 56 → f.instr = .ldsx d a x y o → m ≠ 0#32 → s.mayPerform f m = true → f.dest = some n →
      (∀ l, l < 32 → active m l = true → s.scratchBad (pa l) 4 = false) →
      ∃ u c', exec .farLoadReturn s = .next u ∧ u.ctxs.find f.unit = some c' ∧
        (∀ l, l < 32 → active m l = true → (c'.vreg n).lane l = BitVec.ofNat 32 (leNat (s.scratch.bytes (pa l) 4))) ∧
        (∀ l, l < 32 → active m l = false → (c'.vreg n).lane l = (c.vreg n).lane l) ∧
        (∀ j, j ≠ n → c'.vreg j = c.vreg j) ∧ c'.s = c.s ∧ c'.a = c.a ∧ c'.b = c.b ∧ (f.acq = false → u.mem = s.mem) ∧ u.scratch = s.scratch) ∧
    (∀ d a x o e, ∀ q ∈ stores d a x o e, f.instr = q.1 → home → 2 ≤ f.scope.toNat →
      let covers := fun (l y : Nat) => l < 32 ∧ active m l = true ∧ pa l ≤ y ∧ y < pa l + q.2
      ∃ u, exec .farStorePerform s = .next u ∧
        (∀ l y, covers l y → (∀ j, l < j → ¬ covers j y) → u.mem.read y = written l y) ∧
        (∀ y, (∀ l, ¬ covers l y) → u.mem.read y = s0.mem.read y) ∧ u.scratch = s.scratch) ∧
    (∀ d a x o e, ∀ q ∈ stores d a x o e, f.instr = q.1 → ready → f.scope.toNat ≤ 1 → (∀ g ∈ s.fars, g.shown = []) →
      f.unit.quadKey ∈ t.quads.map (quadKey t.core) → (s.quad f.unit.quadKey).entries.length ≤ 31 →
      (∀ l, l < 32 → active m l = true → pa l % q.2 = 0) →
      let covers := fun (l y : Nat) => l < 32 ∧ active m l = true ∧ pa l ≤ y ∧ y < pa l + q.2
      ∃ u, exec .farStorePerform s = .next u ∧
        (∀ l y, covers l y → (∀ j, l < j → ¬ covers j y) → u.troupeByte k t y = written l y) ∧
        (∀ y, (∀ l, ¬ covers l y) → u.troupeByte k t y = s.troupeByte k t y) ∧ u.mem = s.mem ∧ u.scratch = s.scratch) ∧
    (∀ d a x y o, f.instr = .stsx d a x y o → ready →
      let covers := fun (l z : Nat) => l < 32 ∧ active m l = true ∧ pa l ≤ z ∧ z < pa l + 4
      ∃ u, exec .farStorePerform s = .next u ∧
        (∀ l z, covers l z → (∀ j, l < j → ¬ covers j z) → u.scratch.read z = written l z) ∧
        (∀ z, (∀ l, ¬ covers l z) → u.scratch.read z = s.scratch.read z) ∧ u.mem = s0.mem) ∧
    (∀ d a x o e p, f.instr = .atom d a x o e p → home → (∀ l, l < 32 → active m l = true → s0.homeBad t (pa l) 4 = false) →
      let op := fun (w y z : Word) => match p.toNat with
        | 0 => w + y | 1 => (fadd .rne w y).1
        | 2 => if y.toInt < w.toInt then y else w | 3 => if w.toInt < y.toInt then y else w
        | 4 => w &&& y | 5 => w ||| y | 6 => y | _ => if w = y then z else w
      let after := fun n => ((List.range n).filter (active m)).foldl (fun (w : Memory) l =>
        w.putWord (pa l) (op (w.word (pa l)) (f.data.getD l 0) (f.data2.getD l 0))) s0.mem
      ∃ u g, exec .farStorePerform s = .next u ∧ u.mem = after 32 ∧ u.scratch = s.scratch ∧
        u.fars.find? (fun x => decide (x.id = f.id)) = some g ∧ g.todo = f.todo &&& ~~~ m ∧
        ∀ l, l < 32 → active m l = true → g.old.getD l 0 = (after l).word (pa l)) ∧
    (isRmw f.instr = true → f.todo = 0#32 → f.done = false → s.ev.flag = false → ∀ n, f.dest = some n → n < 56 →
      ∀ i ∈ [Instr.atomResultReturn, .remoteAtomsReturn],
        (f.casFailed = false → ∃ u c', exec i s = .next u ∧ u.ctxs.find f.unit = some c' ∧
          (∀ l, l < 32 → active f.lanes l = true → (c'.vreg n).lane l = f.old.getD l 0) ∧
          (∀ l, l < 32 → active f.lanes l = false → (c'.vreg n).lane l = (c.vreg n).lane l) ∧ c'.s = c.s ∧ c'.a = c.a ∧ c'.b = c.b ∧ u.mem = s.mem) ∧
        (f.casFailed = true → c.a.live = true → c.a.pid = f.pid → s.oldestSpilled f.unit c = none →
          ∃ u c', exec i s = .next u ∧ u.ctxs.find f.unit = some c' ∧ c'.a = { c.a with demoted := true } ∧ c'.b = c.b ∧
            ∀ l, l < 32 → active f.lanes l = true → (c'.vreg n).lane l = f.old.getD l 0)) ∧
    (tile → tl.rowCount = 0 → exec .tileCopyComplete s = .next (s.finishFar f.id)) ∧
    (∀ s1, tile → tl.rowCount ≠ 0 → f.checked = false → s.olderUnchecked f = false → s.tryRows f.unit tl false tl.rowCount 0 = (s1, .ok ()) →
      ∃ u, exec .tileCopyComplete s = .next u ∧ (∀ g ∈ u.fars, g.id = f.id → g.checked = true) ∧ u.mem = s1.mem ∧ u.scratch = s1.scratch) ∧
    (∀ s1, tile → tl.rowCount ≠ 0 → f.checked = true → s.tileWaits f = false →
      let n := tl.chunk (tl.rowCount - f.rows) f.rows
      s.rowsIn f.unit tl n f.rows = (s1, .ok ()) → ∃ u, exec .tileCopyComplete s = .next u ∧ u.scratch = s1.scratch ∧ u.mem = s1.mem ∧
        (tl.rowCount ≤ f.rows + n → ∀ g ∈ u.fars, g.id = f.id → g.done = true))

/-- R117, R118, R124, R125 and R343: a merging window closes; an entry of a coalescing buffer drains its bytes to the home at
64 cycles; an access whose lanes all pass is checked; a lane that is misaligned is parked with its address. A page move
sets MV, holds the writes to the page that have not performed, and ends what caches its leaf; its end copies the page, writes the leaf
and frees the held writes, which are translated afresh.

The moment of each event is free; that the lanes of one act together is the model's choice of log entry 16. -/
def Obligations.FarEngineEvents : Prop :=
  ∀ (s : State),
    -- a leaf of 64 KiB or 32 MiB stands in sixteen entries
    let entriesOf := fun (a : Nat) (x : Dword) => if bits x.toNat 60 3 = 1 ∨ bits x.toNat 60 3 = 3 then
      (List.range 16).map (fun k => a - a % 128 + 8 * k) else [a]
    (∀ pre w post, (s.quad s.ev.a).windows = pre ++ w :: post → w.line = s.ev.b → w.opened + 64 ≤ s.cycle → s.ev.flag = false →
      (∀ x ∈ pre, x.line = s.ev.b → s.cycle < x.opened + 64) →
      ∃ t, exec .usherWindowClose s = .next t ∧ (t.quad s.ev.a).windows = pre ++ post) ∧
    (∀ k t, s.troupeAt (s.ev.a / 4) (s.ev.a % 4) = some (k, t) → s.mem.wf = true →
      ∀ e, (s.quad s.ev.a).entries = [e] → e.line = s.ev.b → e.since + 64 ≤ s.cycle → (e.bytes.map Prod.fst).Nodup →
      ∃ u, exec .coalesceEntryAgeDrain s = .next u ∧ (u.quad s.ev.a).entries = [] ∧
        (∀ x ∈ e.bytes, u.mem.read (64 * e.line + x.1) = x.2) ∧
        (∀ y, (∀ x ∈ e.bytes, y ≠ 64 * e.line + x.1) → u.mem.read y = s.mem.read y)) ∧
    (∀ f d a t o e, s.fars.find? (fun x => decide (x.id = s.ev.id)) = some f → f.instr = .stg d a t o e → f.checked = false →
      f.done = false → f.todo ≠ 0#32 → s.olderUnchecked f = false → s.fits f = true →
      (∀ l, l < 32 → active f.todo l = true → active f.wild l = false ∧ addressCheck ((f.va.getD l 0).toNat : Int) 4 = none ∧
        ∃ p, f.pa[l]? = some (some p) ∧ p < 0x10000000000 ∧ s.movingAt p = false) →
      ∃ u g, exec .translationWalkComplete s = .next u ∧ u.fars.find? (fun x => decide (x.id = s.ev.id)) = some g ∧ g.checked = true ∧
        u.ctxs = s.ctxs ∧ u.mem = s.mem) ∧
    (∀ f c d a t o e, s.fars.find? (fun x => decide (x.id = s.ev.id)) = some f → f.instr = .ldg d a t o e → f.done = false → f.todo ≠ 0#32 →
      s.ctxs.find f.unit = some c → c.a.live = true → c.a.pid = f.pid → f.wild = 0#32 →
      ∀ l, l < 32 → active f.todo l = true → addressCheck ((f.va.getD l 0).toNat : Int) 4 = some .misaligned →
      ∃ u c' k, exec .farAccessFault s = .next u ∧ u.ctxs.find f.unit = some c' ∧ k ∈ c'.parked ∧ k.lane = l ∧ k.cause = .misaligned ∧
        k.rec1 = f.va.getD l 0 ∧ active c'.a.em l = false ∧ c'.a.pc = f.after) ∧
    (let entries := entriesOf s.ev.a (s.mem.dword s.ev.a)
     let e := entries.headD s.ev.a
     let size := pageOf (bits (s.mem.dword e).toNat 60 3)
     let base := frameOf (s.mem.dword e).toNat - frameOf (s.mem.dword e).toNat % size
     (∀ m ∈ s.moves, m.1 ≠ e) → (∀ f ∈ s.fars, f.passed = false) →
     ∃ t, exec .pageMoveStart s = .next t ∧ t.mem = entries.foldl (fun (m : Memory) k => m.putDword k (m.dword k ||| 0x80#64)) s.mem ∧
       t.moves = s.moves ++ [(e, base, size)] ∧
       (∀ x ∈ t.tlb, x.one.entry ∉ entries ∧ ∀ y, x.two = some y → y.entry ∉ entries) ∧
       (∀ u c, t.ctxs.find u = some c → ∀ y ∈ c.tx.toList, base ≤ y.frame.toNat → y.frame.toNat < base + size → y.limit = 0#64) ∧
       (∀ f ∈ s.fars, ∀ d a x o v l p, f.instr = .stg d a x o v → f.done = false → active f.todo l = true → f.pa[l]? = some (some p) →
         base ≤ p → p < base + size → ∃ g ∈ t.fars, g.id = f.id ∧ g.unit = f.unit ∧ g.moving = true ∧ g.checked = false) ∧ t.scratch = s.scratch) ∧
    (∀ e base, let code := bits (s.mem.dword e).toNat 60 3
      let size := pageOf code
      let entries := entriesOf e (s.mem.dword e)
      s.moves = [(e, base, size)] → s.ev.a ∈ entries → s.mem.wf = true →
      let leaf := s.ev.dword &&& ~~~ 0x80#64
      let new := frameOf leaf.toNat - frameOf leaf.toNat % size
      (∀ k, ∀ x ∈ (s.quad k).entries, 64 * x.line < base ∨ base + size ≤ 64 * x.line) → (new + size ≤ base ∨ base + size ≤ new) →
      (∀ a ∈ entries, a + 8 ≤ new ∨ new + size ≤ a) → bits leaf.toNat 60 3 = code →
      let own := fun (k : Nat) => if entries.length = 1 then leaf else
        (leaf &&& ~~~ 0xFFFFFFFFFF000#64) ||| BitVec.ofNat 64 (new + k * (size / 16))
      ∃ t, exec .heldWriteRetranslate s = .next t ∧ (∀ j, j < size → t.mem.read (new + j) = s.mem.read (base + j)) ∧
        (∀ k j, k < entries.length → j < 8 → t.mem.read (entries.getD k 0 + j) = BitVec.ofNat 8 ((own k).toNat / 256 ^ j)) ∧
        (∀ y, (y < new ∨ new + size ≤ y) → (∀ a ∈ entries, y < a ∨ a + 8 ≤ y) → t.mem.read y = s.mem.read y) ∧
        t.moves = [] ∧ (∀ x ∈ t.tlb, x.one.entry ∉ entries ∧ ∀ y, x.two = some y → y.entry ∉ entries) ∧
        (∀ f ∈ s.fars, f.moving = true → (∃ l ∈ f.lines, base ≤ 64 * l ∧ 64 * l < base + size) →
          ∃ g ∈ t.fars, g.id = f.id ∧ g.unit = f.unit ∧ g.moving = false ∧ g.pa = []) ∧ t.scratch = s.scratch)

/-! ### Rings, barriers, handles, semaphores and nests (R16, R43 to R60, R119, R120, R214 to R220) -/

/-- R119, R120 and R214: what the four ring words of a cast do at a ring of the troupe, which no earlier word waits at. TICKET
and TAKE answer a ticket and hold their path while there is none, FILL sets and FREE clears a FULL bit, and a ring that is
absent, of another kind of unit, or used out of order, is misuse.

R16, R86 and R218: BAR.ARV records the cast's arrival, and the last arrival completes the phase; BAR.WAIT holds the path
of a cast that has arrived, and no other; a second arrival waits for the phase to end; CUE.BAR arrives and waits for the casts and
the cue stream, whose own arrival waits for its earlier matrix words. A diverged cast may not execute them. -/
def Obligations.RingsAndBarriers : Prop :=
  (∀ (s : State) (c : Ctx) (k : Nat) (t : Troupe) (d a : Reg) (n : BitVec 4), s.issuing c → s.unit.kind = .cast →
       s.troupeOf s.unit = some (k, t) → s.troupes.find k = some t →
       n.toNat ∉ t.badSync → s.ringQueued (.ringTicket d n) = false → s.ringQueued (.ringTake d n) = false → s.ringQueued (.ringFill a n) = false → s.ringQueued (.ringFree n) = false →
       let r := t.rings[n.toNat]?.getD Ring.zero
       let N := 2 ^ (r.desc.toNat / 2 ^ 24 % 16)
       let k_ := match s.unit with | .cast .. => 0 | .rigger .. => 1 | .striker .. => 2 | _ => 3
       let mine := fun lo => r.desc.getLsbD 0 = true ∧ r.desc.toNat / 2 ^ lo % 4 = k_
       let since := fun (x : BitVec 16) => (x - r.freed).toNat
       let x : BitVec 16 := (c.rdS s.issue a).setWidth 16
       let now := fun (q : Ring) => { s with troupes := s.troupes.put k { t with rings := t.rings.setIfInBounds n.toNat q } }
       let answers := fun (i : Instr) (q : Ring) (v : BitVec 16) => ∃ c', exec i s = .next ((now q).setCtx s.unit c') ∧
         c.ScalarResult c' s.issue 1 d (v.setWidth 64) (s.here c).cf
       let waits := fun (i : Instr) => exec i s = .next (s.holdPath i [] false)
       let misuse := fun (i : Instr) => ∀ l, s.handledAt c l → s.traps c i l 0x10 (s.cur.word.setWidth 64) s.cur.pos false
       (mine 22 → since r.tail < N → answers (.ringTicket d n) { r with tail := r.tail + 1 } r.tail) ∧
       (mine 22 → N ≤ since r.tail → waits (.ringTicket d n)) ∧
       (mine 22 → since r.head ≤ since x → since x < since r.tail → x.toNat % N ∉ r.full →
         exec (.ringFill a n) s = .next (now { r with full := x.toNat % N :: r.full })) ∧
       (mine 22 → since x < since r.head ∨ since r.tail ≤ since x ∨ x.toNat % N ∈ r.full → misuse (.ringFill a n)) ∧
       (mine 20 → r.head.toNat % N ∈ r.full → answers (.ringTake d n) { r with head := r.head + 1 } r.head) ∧
       (mine 20 → r.head.toNat % N ∉ r.full → waits (.ringTake d n)) ∧
       (mine 20 → r.freed ≠ r.head →
         exec (.ringFree n) s = .next (now { r with full := r.full.filter (fun j => j ≠ r.freed.toNat % N), freed := r.freed + 1 })) ∧
       (mine 20 → r.freed = r.head → misuse (.ringFree n)) ∧
       (¬ mine 22 → misuse (.ringTicket d n) ∧ misuse (.ringFill a n)) ∧ (¬ mine 20 → misuse (.ringTake d n) ∧ misuse (.ringFree n))) ∧
  (∀ (s : State) (c : Ctx) (k : Nat) (t : Troupe) (n : BitVec 4), s.issuing c → s.unit.kind = .cast → (s.here c).held = none →
       s.troupeOf s.unit = some (k, t) → s.troupes.find k = some t → 16 ∉ t.badSync → (t.bars.map Prod.fst).Nodup → (∀ w ∈ t.waits, w.2.1 ≠ s.unit) →
       let b := (t.bars.find n.toNat).getD []
       let q := (t.cues.find n.toNat).getD []
       let sleeps := fun (x : State) (i : Instr) => ∃ c' h, x.ctxs.find s.unit = some c' ∧ (c'.path s.cur.turn.slotB).held = some h ∧
         h.instr = i ∧ h.asleep = true ∧ c'.s = c.s ∧ c'.v = c.v
       let there := fun (x : State) (f : Troupe → Prop) => ∃ t', x.troupes.find k = some t' ∧ f t'
       let alone := s.castPaths s.unit ≤ 1
       (alone → s.unit ∉ b → (∃ u ∈ t.casts, u ≠ s.unit ∧ u ∉ b ∧ s.castPaths u ≠ 0) →
         ∃ x, exec (.barArv n) s = .next x ∧ there x (fun t' => (t'.bars.find n.toNat).getD [] = s.unit :: b)) ∧
       (alone → s.unit ∉ b → (∀ u ∈ t.casts, u = s.unit ∨ u ∈ b ∨ s.castPaths u = 0) →
         ∃ x, exec (.barArv n) s = .next x ∧ there x (fun t' => t'.bars.find n.toNat = none)) ∧
       (alone → s.unit ∈ b → s.holds c (.barArv n) s [] false) ∧ (alone → s.unit ∉ b → exec (.barWait n) s = .next s) ∧
       (alone → s.unit ∈ b → ∃ x, exec (.barWait n) s = .next x ∧ sleeps x (.barWait n)) ∧
       (alone → (∃ u ∈ t.cue :: t.casts, u ≠ s.unit ∧ s.cueArrived t n.toNat u = false) →
         ∃ x, exec (.cueBar n) s = .next x ∧ sleeps x (.cueBar n) ∧ there x (fun t' => (t'.cues.find n.toNat).getD [] = s.unit :: q)) ∧
       (alone → (∀ u ∈ t.cue :: t.casts, u = s.unit ∨ s.cueArrived t n.toNat u = true) →
         ∃ x, exec (.cueBar n) s = .next x ∧ there x (fun t' => t'.cues.find n.toNat = none)) ∧
       ∀ l, s.handledAt c l → ¬ alone →
         s.traps c (.barArv n) l 0x01 (s.cur.word.setWidth 64) s.cur.pos false ∧ s.traps c (.barWait n) l 0x01 (s.cur.word.setWidth 64) s.cur.pos false ∧
         s.traps c (.cueBar n) l 0x12 (s.cur.word.setWidth 64) s.cur.pos false) ∧
  (∀ (s : State) (c : Ctx) (k : Nat) (t : Troupe) (n : BitVec 4), s.issuing c → s.unit.kind = .cue → (s.here c).held = none →
       s.troupeOf s.unit = some (k, t) → 16 ∉ t.badSync → (∃ o ∈ t.mx.ops, o.done = false) → s.holds c (.cueBar n) s [] false)

/-- R216: THSET and THGET write and read one field of a handle of the cast, or with Q of the troupe's cue stream; every other
field and register stays but the undo log. -/
def Obligations.HandleFields : Prop :=
  ∀ (s : State) (c g : Ctx) (k : Nat) (t : Troupe) (r : Reg) (n : BitVec 6) (h : BitVec 4), s.issuing c →
    s.troupeOf s.unit = some (k, t) → s.ctxs.find t.cue = some g → n.toNat < 8 →
    let field := fun (x : Ctx) => ((x.h[h.toNat]?.getD (.replicate 8 0))[n.toNat]?.getD 0)
    let written := fun (x x' : Ctx) => field x' = c.rdS s.issue r ∧ (∀ j m, j ≠ h.toNat ∨ m ≠ n.toNat →
        (x'.h[j]?.getD (.replicate 8 0))[m]?.getD 0 = (x.h[j]?.getD (.replicate 8 0))[m]?.getD 0) ∧
      x' = { x with h := x'.h, undo := x'.undo, poisonS := x'.poisonS }
    (∃ c', exec (.thset r n 0 h) s = .next (s.setCtx s.unit c') ∧ written c c') ∧
    (∃ u g', exec (.thset r n 1 h) s = .next ((s.setCtx s.unit { c with undo := u }).setCtx t.cue g') ∧ written g g') ∧
    s.givesScalar c (.thget r n 0 h) 1 r (field c) (s.here c).cf ∧ s.givesScalar c (.thget r n 1 h) 1 r (field g) (s.here c).cf

/-- R207, R219 and R220: SEMADD is a release and then waits for its acknowledgement; SEMWAIT passes when the semaphore has
reached s; BIN hands the lanes to the Binning Engine. A number outside the share is refused with ProtFault.

R220, R280 and R402: an addition is performed at its semaphore, modulo 2^64, and its word no longer holds its path; the
additions of a BIN are performed at its bins, lane by lane. -/
def Obligations.SemaphoresAndBins : Prop :=
  (∀ (s : State) (c : Ctx) (v : Vdi) (a b : Reg) (n : BitVec 12), s.issuing c → (s.here c).held = none → s.cur.vals = none →
       s.vdis.find (s.vdiOf s.unit) = some v →
       let x := c.rdS s.issue a
       let sem := v.img.semBase + n.toNat
       let s1 := s.drainUnit s.unit
       let bins := fun l => ((c.rdV s.issue a).lane l).toNat < v.img.binShare
       (n.toNat < v.img.semShare → s1.priorDone s.unit s.cur.tag = true →
         s.holds c (.semadd a n) (s1.later { kind := .semaphoreAddAcknowledge, unit := s.unit, id := s.cur.tag, a := sem, dword := x }) [x] true) ∧
       (n.toNat < v.img.semShare → s1.priorDone s.unit s.cur.tag = false → s.holds c (.semadd a n) s1 [x] false) ∧
       (n.toNat < v.img.semShare → x.toNat ≤ ((s.sems.find sem).getD 0).toNat → exec (.semwait a n) s = .next s) ∧
       (n.toNat < v.img.semShare → ((s.sems.find sem).getD 0).toNat < x.toNat → s.holds c (.semwait a n) s [x] true) ∧
       (s.cur.em = 0#32 → exec (.bin a b) s = .next s) ∧
       (s.cur.em ≠ 0#32 → (∀ l, l < 32 → active s.cur.em l = true → bins l) →
         s.issuesFar c (.bin a b) .a (fun _ f => f.checked = true ∧
           ∀ l, l < 32 → f.va[l]? = some (((c.rdV s.issue a).lane l).setWidth 64) ∧ f.data[l]? = some ((c.rdV s.issue b).lane l))) ∧
       ∀ l, s.handledAt c l →
         (v.img.semShare ≤ n.toNat → ∀ i ∈ [Instr.semadd a n, .semwait a n], s.traps c i l 0x0A (s.cur.word.setWidth 64) s.cur.pos false) ∧
         (∀ j, j < 32 → active s.cur.em j = true → ¬ bins j → s.traps c (.bin a b) l 0x0A (s.cur.word.setWidth 64) s.cur.pos false)) ∧
  (∀ (s : State),
       (∃ t, exec .semaphoreAddAcknowledge s = .next t ∧ t.sems = s.sems.put s.ev.a ((s.sems.find s.ev.a).getD 0 + s.ev.dword) ∧
         t.bins = s.bins ∧ t.mem = s.mem ∧ t.scratch = s.scratch ∧
         ∀ c' h, t.ctxs.find s.ev.unit = some c' → c'.a.held = some h ∨ c'.b.held = some h → h.asleep = true → h.tag ≠ s.ev.id) ∧
       (∀ f a b l v, s.fars.find? (fun x => decide (x.id = s.ev.id)) = some f → f.instr = .bin a b → f.done = false → s.olderUnchecked f = false →
         s.vdis.find (s.vdiOf f.unit) = some v → lanesOf f.todo = [l] → (f.va.getD l 0).toNat < v.img.binShare →
         let k := v.img.binBase + (f.va.getD l 0).toNat
         ∃ t, exec .binAdditionPerformed s = .next t ∧ t.bins = s.bins.put k ((s.bins.find k).getD 0 + (f.data.getD l 0).setWidth 64) ∧
           t.sems = s.sems ∧ t.mem = s.mem))

/-- R43, R53, R59, R60 and R220: NEST.LAUNCH and SPAWN are releases that then wait for their engine. Once it has answered, NEST.LAUNCH
presents a legal record to the launch queue, waits while the queue is full, and traps on a record that is refused, with no word of its
group having an effect (R339); NEST.BOUND raises the bound of a GROW nest and stores its cell, or closes a spawn nest; SPAWN appends a
point to a spawn nest and answers 0, or 1 when the nest is full or closed. NEST.LAUNCH and SPAWN do nothing under em = 0, and NEST.BOUND
ignores em.

That a misaligned NEST.LAUNCH address traps NestBound before any read, and that a group waits for the word whose check an engine
makes, is the model's choice of log entry 68; what a fault of a SPAWN's or NEST.BOUND's store does, that of log entry 70. -/
def Obligations.NestWords : Prop :=
  ∀ (s : State) (c : Ctx) (k : Nat) (t : Troupe) (d a b : Reg) (v : Vdi), s.issuing c → (s.here c).held = none →
    s.troupeOf s.unit = some (k, t) → s.vdis.find (s.vdiOf s.unit) = some v →
    let s1 := s.drainUnit s.unit
    let ready := s1.later { kind := .recordPresented, unit := s.unit, id := s.cur.tag }
    let x := c.rdS s.issue a
    let y := c.rdS s.issue b
    let spawns := fun (h : Dword) => ∃ slot n, s.nestNamed t (h.setWidth 16) = some (slot, n) ∧ nSpawn n.record = true
    -- a record that waits for a place in the queue is kept with its word
    let kept := fun (va : Dword) (r : List Byte) => va :: 1 :: (List.range 32).map (recWord r)
    (s.cur.em = 0#32 → exec (.nestLaunch a) s = .next s ∧ exec (.spawn d a b) s = .next s) ∧
    (s.cur.em ≠ 0#32 → s.cur.vals = none → s1.priorDone s.unit s.cur.tag = true →
      s.holds c (.nestLaunch a) ready [x] true ∧ (spawns x → s.holds c (.spawn d a b) ready [x, y] true)) ∧
    (s.cur.em ≠ 0#32 → s.cur.vals = none → s1.priorDone s.unit s.cur.tag = false →
      s.holds c (.nestLaunch a) s1 [x] false ∧ (spawns x → s.holds c (.spawn d a b) s1 [x, y] false)) ∧
    (∀ va r s2, s.cur.em ≠ 0#32 → va.toNat % 64 = 0 →
      s.cur.vals = some [va, 1] ∧ s.readBase (s.vdiOf s.unit) (s.here c).plvl 40 va.toNat 256 = (s2, .ok r) ∨
        s.cur.vals = some (kept va r) ∧ r.length = 256 ∧ s2 = s →
      (v.launches.length < 64 → nestLegal v va.toNat r = true →
        ∃ u w, exec (.nestLaunch a) s = .next u ∧ u.vdis.find (s.vdiOf s.unit) = some w ∧
          w.launches = v.launches ++ [{ record := r, addr := va }] ∧ u.ctxs = s.ctxs ∧ u.mem = s2.mem) ∧
      (64 ≤ v.launches.length → nestLegal v va.toNat r = true → s.holds c (.nestLaunch a) s2 (kept va r) false) ∧
      ∀ l, nestLegal v va.toNat r = false → s.handledAt c l → s.trapsLate s2 c (.nestLaunch a) l 0x15) ∧
    (∀ va l, s.cur.em ≠ 0#32 → s.cur.vals = some [va, 1] → va.toNat % 64 ≠ 0 → s.handledAt c l → s.trapsLate s c (.nestLaunch a) l 0x15) ∧
    (∀ slot n s2, s.nestNamed t ((c.rdS s.issue a).setWidth 16) = some (slot, n) →
      let x := (c.rdS s.issue b).toInt
      (-2 ^ 31 : Int) ≤ x → x < 2 ^ 31 →
      (nSpawn n.record = false → nGrow n.record = true → n.floor ≤ x →
        s.unitStore n.vdi (nCell n.record) (leBytes 4 (BitVec.ofInt 32 x).toNat) = .ok s2 →
        ∃ u, exec (.nestBound a b) s = .next u ∧ u.mem = s2.mem ∧ ∀ m, u.nests.find slot = some m → m.bound = x) ∧
      (nSpawn n.record = true → ((n.rows.head?).map (fun r => r.hi)).getD n.cap ≤ x → x ≤ n.cap →
        ∃ u, exec (.nestBound a b) s = .next u ∧ u.mem = s.mem ∧ ∀ m, u.nests.find slot = some m → m.closed = true ∧ m.cap = x)) ∧
    (∀ h x j slot n r rs, s.cur.em ≠ 0#32 → s.cur.vals = some [h, x, j] → s.nestNamed t (h.setWidth 16) = some (slot, n) →
      nSpawn n.record = true → n.rows = r :: rs →
      (n.closed = true ∨ n.stopped = true ∨ n.cap ≤ r.hi → s.givesScalar c (.spawn d a b) 1 d 1 (s.here c).cf) ∧
      (n.closed = false → n.stopped = false → r.hi < n.cap → ∀ s2,
        s.unitStore n.vdi (nCell n.record + 8 * r.hi.toNat) (leBytes 8 x.toNat) = .ok s2 →
        ∃ u c' m, exec (.spawn d a b) s = .next u ∧ u.ctxs.find s.unit = some c' ∧ c.ScalarResult c' s.issue 1 d 0 (s.here c).cf ∧
          u.nests.find slot = some m ∧ m.vals = n.vals.put r.hi.toNat x ∧ m.rows = n.rows.map (fun y => { y with hi := y.hi + 1 }) ∧
          m.appended = n.appended + 1 ∧
          u.mem = s2.mem)) ∧
    ∀ l, s.handledAt c l →
      (s.nestNamed t ((c.rdS s.issue a).setWidth 16) = none → s.traps c (.nestBound a b) l 0x15 (s.cur.word.setWidth 64) s.cur.pos false) ∧
      (∀ slot n, s.nestNamed t ((c.rdS s.issue a).setWidth 16) = some (slot, n) → nSpawn n.record = false →
        nGrow n.record = false ∨ y.toInt < n.floor ∨ y.toInt < -2 ^ 31 ∨ 2 ^ 31 ≤ y.toInt →
        s.traps c (.nestBound a b) l 0x15 (s.cur.word.setWidth 64) s.cur.pos false) ∧
      (s.cur.em ≠ 0#32 → ∀ h ws, s.cur.vals = none ∧ h = x ∨ s.cur.vals = some (h :: ws) → ¬ spawns h →
        s.traps c (.spawn d a b) l 0x15 (s.cur.word.setWidth 64) s.cur.pos false)

/-- R43, R44, R46, R48, R50, R51, R56, R285 and R347: what the Nest Release Unit does. A record enters the slot that is
free, under a new generation; the next row whose range is not empty takes a frontier entry, and an empty one none; up to two ready points are
released in turn; a point starts, also one that a drain has met before (R290); its retirement frees its place; a stopped nest
without a point frees its slot.

Which of several free slots is taken, and the unit's place after the units of the cycle, is the model's choice of log entry 27
and 26; the cycle of an empty key, that of log entry 83. -/
def Obligations.NestEvents : Prop :=
  ∀ (s : State),
    (∀ v l ls slot, s.vdis.find s.ev.a = some v → v.launches = l :: ls → s.freeSlots s.ev.a v = [slot] → slot < 64 →
      s.nests.find slot = none → nSpawn l.record = false → nGrow l.record = false →
      (∀ k, k < 9 → 1 ≤ k → (recWord l.record k).toNat < 2 ^ 63) →
      ∃ t n, exec .nestSlotEntry s = .next t ∧ t.nests.find slot = some n ∧ n.record = l.record ∧ n.vdi = s.ev.a ∧ n.rows = [] ∧
        t.gens[slot]? = some ((s.gens[slot]?.getD 0) + 1)) ∧
    (∀ n key lo hi, s.nests.find s.ev.a = some n → n.stopped = false → n.rows.length < 512 → n.candidate = .ok (some (key, true)) →
      n.range (nLevels n.record - 1) key = .ok (lo, hi) → lo < hi →
      ∃ t m entry, exec .rowActivate s = .next t ∧ t.nests.find s.ev.a = some m ∧
        m.rows = n.rows ++ [{ key := key, state := 1, lo := lo, hi := hi, p := 0, win := 0, released := [], entry := entry }]) ∧
    (∀ n key lo hi, s.nests.find s.ev.a = some n → n.stopped = false → n.candidate = .ok (some (key, true)) →
      n.range (nLevels n.record - 1) key = .ok (lo, hi) → hi ≤ lo →
      ∃ t m, exec .rowActivate s = .next t ∧ t.nests.find s.ev.a = some m ∧ m.rows = n.rows ∧ m.seek = some key) ∧
    ((∀ slot, slot < 64 → s.releaseOne slot = none) → exec .pointRelease s = .next s) ∧
    (∀ s1 s2, s.rr < 64 → s.releaseOne s.rr = some s1 → s1.releaseOne s.rr = some s2 →
      exec .pointRelease s = .next { s2 with rr := (s.rr + 1) % 64 }) ∧
    (∀ slot n pt, s.nests.find slot = some n → n.flushed = [] → n.ready = some pt → (∃ s1, s.releaseOne slot = some s1) →
      (∀ d ∈ n.deps, n.satisfied (pt.zipWith (fun x y => x - y) d) = true) ∧
      ∀ s1, s.releaseOne slot = some s1 → ∃ p ∈ s1.points, p.slot = slot ∧ p.point = pt ∧ p.phase = .starting ∧ p.placedAt = s.cycle) ∧
    (∀ t p, s.troupes.find s.ev.a = some t → s.pointOf t = some p → t.started = false → ∀ after : Phase,
      (p.phase = .starting ∧ after = .running ∨ ∃ m n, p.phase = .draining m n ∧ after = p.phase) → (∀ q ∈ s.points, q.slot = p.slot → q.point = p.point → q = p) →
      (∀ k ∈ p.members, ∀ t', s.troupes.find k = some t' → ∀ q ∈ t'.quads, quadKey t'.core q ∉ s.stopped) →
      ∃ u, exec .stagehandStart s = .next u ∧ (∀ q ∈ u.points, q.slot = p.slot → q.point = p.point → q.phase = after) ∧
        (∀ k ∈ p.members, ∀ t', u.troupes.find k = some t' → t'.started = true) ∧ u.mem = s.mem ∧ u.scratch = s.scratch) ∧
    (∀ p, s.points.find? (fun p => decide (p.slot = s.ev.a) && decide (p.point = s.ev.point)) = some p → p.retireAt ≠ none →
      ∃ u, exec .pointRetire s = .next u ∧ (∀ q ∈ u.points, q.slot ≠ p.slot ∨ q.point ≠ p.point) ∧ u.mem = s.mem ∧ u.scratch = s.scratch ∧
        ∀ k ∈ p.members, u.troupes.find k = none) ∧
    (∀ n, s.nests.find s.ev.a = some n → n.stopped = true → (∀ p ∈ s.points, p.slot ≠ s.ev.a) →
      ∃ u, exec .nestStopSlotFree s = .next u ∧ u.nests.find s.ev.a = none ∧ u.points = s.points)

/-! ### Collectives and the fabric (R221, R303 to R318, R335, R370 to R375) -/

/-- R221, R304, R306, R307, R311, R316 and R339: COLL.POST does nothing under em = 0 and traps on a misaligned address; it is a release,
and waits for its engine. Once the descriptor is read, it takes its ordinal and puts a post into a free entry, whose identifier
it writes to d and which cnt.x counts; a post whose key the table holds posts nothing and answers that entry; while the share is full it
waits, with its ordinal and the descriptor; a descriptor that is refused traps, with no word of its group having an effect, and its ordinal
is given back. COLL.TEST answers 3
for an identifier that names no entry, and the outcome otherwise; COLL.LEAVE sends a leave flit and waits for its acknowledgement.

That the descriptor's check comes before its group issues, and that a refused post gives its ordinal back, is the model's choice
of log entry 68. -/
def Obligations.CollectiveWords : Prop :=
  ∀ (s : State) (c : Ctx) (k : Nat) (t : Troupe) (v : Vdi) (d a : Reg), s.issuing c → (s.here c).held = none →
    s.troupeOf s.unit = some (k, t) → s.vdis.find t.vdi = some v →
    let x := c.rdS s.issue a
    let i := Instr.collPost d a
    let s1 := s.drainUnit s.unit
    let entry := s.coll.posts.find (x.toNat % 512)
    let answer := fun (n : Dword) => s.givesScalar c (.collTest d a) 1 d n (s.here c).cf
    -- the descriptor is known: c1 holds the registers with the ordinal n taken, and c0 those with it given back
    let presents := fun (va : Dword) (n : Nat) (desc : List Dword) (s2 : State) (c1 c0 : Ctx) =>
      let key := s.postKey t c n
      let found := s.coll.posts.find? (fun e => e.2.held && decide (e.2.key = some key))
      (∀ home index gone, descLegal desc = true → s.coll.member t.vdi (dGroup desc) = some (home, index, gone) →
        (found = none → s.coll.freeEntries ≠ [] → s.coll.shareUsed t.vdi < v.img.pctShare →
          ∃ u c' e p, exec i s = .next u ∧ u.coll.posts.find e = some p ∧ e ∈ s.coll.freeEntries ∧ p.state = .posted ∧ p.desc = desc ∧
            p.vdi = t.vdi ∧ p.addr = va ∧ p.held = true ∧ p.key = some key ∧ u.ctxs.find s.unit = some c' ∧ u.mem = s2.mem ∧
            c1.ScalarResult c' s.issue 1 d (BitVec.ofNat 64 (p.gen % 128 * 512 + e)) (s.here c).cf ∧
            u.counter s.unit .x = s.counter s.unit .x + 1 ∧ u.fabric.queued.length = s.fabric.queued.length + 1) ∧
        (found = none → s.coll.freeEntries = [] ∨ v.img.pctShare ≤ s.coll.shareUsed t.vdi →
          s.holds c1 i s2 (va :: 1 :: BitVec.ofNat 64 n :: desc) false) ∧
        (∀ e p, found = some (e, p) →
          ∃ u c', exec i s = .next u ∧ u.coll = s.coll ∧ u.fabric = s.fabric ∧ u.ctxs.find s.unit = some c' ∧ u.mem = s2.mem ∧
            c1.ScalarResult c' s.issue 1 d (BitVec.ofNat 64 (p.gen % 128 * 512 + e)) (s.here c).cf ∧
            u.counter s.unit .x = s.counter s.unit .x + if p.isFree then 0 else 1)) ∧
      (∀ l, descLegal desc = false ∨ s.coll.member t.vdi (dGroup desc) = none → s.handledAt c l →
        s.trapsLate (s2.setCtx s.unit c0) c0 i l 0x17)
    (s.cur.em = 0#32 → exec i s = .next s) ∧
    (s.cur.em ≠ 0#32 → s.cur.vals = none → x.toNat % 64 ≠ 0 → ∀ l, s.handledAt c l →
      s.traps c i l 0x07 (s.cur.word.setWidth 64) s.cur.pos false) ∧
    (s.cur.em ≠ 0#32 → s.cur.vals = none → x.toNat % 64 = 0 →
      (s1.priorDone s.unit s.cur.tag = true →
        s.holds c i (s1.later { kind := .recordPresented, unit := s.unit, id := s.cur.tag }) [x] true) ∧
      (s1.priorDone s.unit s.cur.tag = false → s.holds c i s1 [x] false)) ∧
    (∀ va r s2, s.cur.em ≠ 0#32 → s.cur.vals = some [va, 1] → va.toNat % 64 = 0 →
      s.readBase t.vdi (s.here c).plvl 10 va.toNat 64 = (s2, .ok r) →
      presents va c.ordinal ((List.range 8).map (recWord r)) s2 { c with ordinal := c.ordinal + 1 } c) ∧
    (∀ va n desc, s.cur.em ≠ 0#32 → s.cur.vals = some (va :: 1 :: n :: desc) → va.toNat % 64 = 0 →
      presents va n.toNat desc s c (if c.ordinal = n.toNat + 1 then { c with ordinal := n.toNat } else c)) ∧
    (entry = none → answer 3) ∧
    (∀ p, entry = some p →
      (p.gen ≠ x.toNat / 512 % 128 → answer 3) ∧
      (p.gen = x.toNat / 512 % 128 →
        (p.state = .posted ∨ p.state = .ticketed ∨ p.state = .running → answer 0) ∧ (p.state = .complete → answer 1) ∧
        (p.state = .aborted → answer 2) ∧ (p.state = .free → answer 3))) ∧
    (∀ home index, s.coll.member t.vdi (x.toNat % 2 ^ 24) = some (home, index, false) →
      ∃ u f, s.holds c (.collLeave a) u [] true ∧ u = { s with fabric := u.fabric, coll := u.coll } ∧
        u.fabric.queued = s.fabric.queued ++ [(s.fabric.route home, f)] ∧ f.type = 4 ∧ f.dst = BitVec.ofNat 20 home ∧ f.gen = s.fabric.gen ∧
        u.coll = { s.coll with leaving := s.coll.leaving ++ [(s.unit, s.cur.tag, x.toNat % 2 ^ 24, f.seq.toNat)] }) ∧
    ((∀ home index, s.coll.member t.vdi (x.toNat % 2 ^ 24) ≠ some (home, index, false)) → exec (.collLeave a) s = .next s)

/-- R307 to R311, R335, R370 and R371: a post's life after it is posted. A ticket orders it, the lowest ticket below the
horizon starts when its reservation is free, it completes and returns the reservation, or it aborts; silence is
reported.

That a ticket which names no entry is reported as reason 7 unless it orders an abort, and the bytes that a data flit brings and
sends, is the model's choice of log entry 28. -/
def Obligations.CollectiveEvents : Prop :=
  ∀ (s s1 : State) (f : Flit) (p : Post),
    let e := s.ev
    let here := s.ev.flit = some f ∧ s.arrive s.ev.port f = (s1, true)
    let at_ := fun (t : State) (k : Nat) (P : Post → Prop) => ∃ q, t.coll.posts.find k = some q ∧ P q
    (here → s1.coll.posts.find e.a = some p → p.state = .posted → p.gen = e.b % 128 → e.c ≠ 0 →
      ∃ t, exec .ticketFlit s = .next t ∧ at_ t e.a (fun q => q.state = .ticketed ∧ q.ticket = some e.dword ∧ q.n = e.c ∧ q.rank = e.d)) ∧
    (here → s1.coll.posts.find e.a = some p → p.isFree = false → p.gen = e.b % 128 → e.c = 0 →
      ∃ t, exec .ticketFlit s = .next t ∧ at_ t e.a (fun q => q.state = p.state ∧ q.ticket = some e.dword ∧ q.failed = some e.word.toNat) ∧
        ({ kind := .collectiveAbort, a := e.a, b := e.word.toNat } : Event) ∈ t.agenda) ∧
    (here → (∀ q, s1.coll.posts.find e.a = some q → q.isFree = true ∨ q.gen ≠ e.b % 128) → e.c ≠ 0 →
      ∃ t, exec .ticketFlit s = .next t ∧ t.coll.posts = s1.coll.posts ∧ t.coll.reports = s1.coll.reports ++ [(e.dword, 7)] ∧
        t.coll.horizon = max s1.coll.horizon e.e) ∧
    (here → ∃ t, exec .horizonFlit s = .next t ∧ t.coll.horizon = max s1.coll.horizon e.e ∧ t.coll.posts = s1.coll.posts) ∧
    (here → s1.coll.posts.find (f.ctx.toNat / 2 ^ 39 % 512) = some p → p.state = .running →
      ∃ t, exec .dataFlit s = .next t ∧ at_ t (f.ctx.toNat / 2 ^ 39 % 512) (fun q => q.heard.find e.a = some s.dt ∧
        ∀ j, j < f.len.toNat → j < f.payload.length → (e.a, f.ctx.toNat % 2 ^ 39 + j, f.payload.getD j 0) ∈ q.data)) ∧
    (here → ∃ t, exec .ackFlit s = .next t ∧ ∀ u ∈ t.fabric.unacked, u.flit.seq.toNat ≠ e.a ∨ u.flit.dst ≠ f.src ∨ u.flit.src ≠ f.dst) ∧
    (e.a < 64 → ∃ t, exec .cpostWrite s = .next t ∧ (t.coll.window e.a).cpost = e.dword ∧
      (t.coll.window e.a).cpres = (s.coll.window e.a).cpres &&& 0x7FFFFFFFFFFFFFFF#64 ∧ t.coll.posts = s.coll.posts ∧
      ∃ k x, t.due = s.due ++ [(k, x)] ∧ x.kind = .recordPresented ∧ x.a = e.a ∧ x.dword = e.dword) ∧
    (∀ k, s.coll.lowest = some (k, p) → s.coll.posts.find k = some p → (p.ticket.getD 0).toNat < s.coll.horizon →
      s.coll.staging + dRsv p.desc ≤ 1024 → s.coll.shares + dLsh p.desc + 1 ≤ 64 → s.coll.contexts < 32 →
      ∃ t, exec .collectiveStart s = .next t ∧ at_ t k (fun q => q.state = .running) ∧ t.coll.staging = s.coll.staging + dRsv p.desc ∧
        t.coll.shares = s.coll.shares + dLsh p.desc + 1 ∧ t.coll.contexts = s.coll.contexts + 1) ∧
    (s.coll.posts.find e.a = some p → p.state = .running → p.failed = none → p.inBytes ≠ 0 → p.own = none →
      let read := s.readBase p.vdi p.lvl (p.inBytes / 8 + 2) (dIn p.desc) p.inBytes
      ∃ t, exec .collectiveComplete s = .next t ∧ t.mem = read.1.mem ∧
        (∀ own, read.2 = .ok own → at_ t e.a (fun q => q.own = some own ∧ q.state = .running)) ∧
        ∀ x va, read.2 = .error (x, va) → at_ t e.a (fun q => q.failed = some (if x.data then 4 else 3))) ∧
    (∀ own s2, s.coll.posts.find e.a = some p → p.state = .running → p.failed = none → p.bad = false → p.waitsOn = [] →
      p.inBytes ≠ 0 ∧ p.own = some own ∨ p.inBytes = 0 ∧ own = [] →
      let out := p.output s.fresh (p.input own)
      s.writeVirtual p.vdi p.lvl true (out.length / 8 + 2) (dOut p.desc) out = (s2, .ok ()) →
      let s3 := (s2.writeBase p.vdi p.lvl (out.length / 8 + 2) (dOut p.desc) out).1
      ∃ t, exec .collectiveComplete s = .next t ∧ at_ t e.a (fun q => q.state = .complete) ∧ t.coll.staging = s.coll.staging - dRsv p.desc ∧
        t.coll.shares = s.coll.shares - (dLsh p.desc + 1) ∧ t.coll.contexts = s.coll.contexts - 1 ∧
        t.mem = (s3.writeBase p.vdi p.lvl 4 (p.addr.toNat + 0x28)
          (leBytes 8 (p.ticket.getD 0).toNat ++ leBytes 4 p.n ++ leBytes 4 p.rank)).1.mem) ∧
    (∀ own, let ins := p.input own
      let w := match dFmt p.desc with | 0 => 4 | 1 => 2 | 2 => 2 | 0xC => 4 | 0xD => 4 | _ => 1
      let blk := dCount p.desc * w
      let from_ := if dOp p.desc = 2 ∨ dOp p.desc = 4 then p.rank * blk else 0
      (dOp p.desc ∈ [0, 1, 2, 4] → ins p.rank = (own.drop from_).take blk ∧
        ∀ q j, q ≠ p.rank → j < blk → (ins q).getD j 0 = (p.arrived q (from_ + j)).getD 0) ∧
      (dOp p.desc = 1 ∨ dOp p.desc = 4 → p.output s.fresh ins = (List.range p.n).flatMap ins) ∧
      (dOp p.desc = 3 → p.output s.fresh ins = ins p.root) ∧ (dOp p.desc = 5 → p.output s.fresh ins = []) ∧
      (dOp p.desc = 0 ∨ dOp p.desc = 2 → 2 < dFmt p.desc → dRop p.desc = 0 → 0 < p.n → ∀ j, j < dCount p.desc →
        leNat (((p.output s.fresh ins).drop (w * j)).take w) =
          (((List.range p.n).map (fun q => leNat (((ins q).drop (w * j)).take w))).sum) % 2 ^ (8 * w))) ∧
    (s.coll.posts.find e.a = some p → p.state = .posted ∨ p.state = .ticketed →
      ∃ t, exec .collectiveAbort s = .next t ∧ at_ t e.a (fun q => q.state = .aborted) ∧ t.coll.contexts = s.coll.contexts) ∧
    (s.coll.posts.find e.a = some p → s.silent p = true → p.failed = none →
      ∃ t, exec .collectiveTimeout s = .next t ∧ at_ t e.a (fun q => q.failed = some 5) ∧
        t.coll.reports = s.coll.reports ++ [(p.ticket.getD 0, 5)]) ∧
    (∀ k, s.homeSilent e.a = true → (k, p) ∈ s.coll.posts → p.group = e.a → p.state = .posted →
      ∃ t, exec .homeSwitchTimeout s = .next t ∧ ({ kind := .collectiveAbort, a := k, b := 6 } : Event) ∈ t.agenda)

/-- R317, R318 and R373 to R375: the ports and the route tables. The standby tables are written, and then every port switches to them;
nothing of the rest of the machine changes. A port whose link is trained sends its oldest flit, which with one such flit in a cycle is the
model's choice (log entry 71), and the flits of a stream are delivered in their order: a duplicate is discarded, and one that has overtaken
another waits. -/
def Obligations.FabricEvents : Prop :=
  ∀ (s : State),
    let fb := s.fabric
    let gives := fun (i : Instr) (g : Fabric) => exec i s = .next { s with fabric := g }
    let port := fun (i : Instr) (k : Nat) (x : Port) => gives i { fb with ports := fb.ports.put k x }
    let tables := fun (ps : Map Nat Port) (f : Nat → Port → Port) => ∀ p, p < 18 → ps.find p = some (f p ((fb.ports.find p).getD Port.zero))
    let drops := fun (i : Instr) => ∃ ps, gives i { fb with state := 0, ports := ps } ∧ tables ps (fun _ x => { x with oldRoutes := [] })
    (∀ x, fb.ports.find s.ev.a = some x →
      port .fpstatClearDrops s.ev.a { x with dgen := 0, dtype := 0, ddst := 0 } ∧
      gives .linkDown { fb with ports := fb.ports.put s.ev.a { x with up := false }, queued := fb.queued.filter (fun q => q.1 ≠ some s.ev.a) }) ∧
    (∀ x, s.ev.a < 18 → fb.ports.find s.ev.a = some x → port .linkUp s.ev.a { x with up := true }) ∧
    (∀ x f, s.ev.flit = some f → 8 ≤ f.type.toNat → fb.ports.find s.ev.port = some x →
      port .reservedTypeFlit s.ev.port { x with dtype := min (x.dtype + 1) 0xFFFF }) ∧
    (∀ u, fb.unacked = [u] → u.flit.seq.toNat = s.ev.a → u.flit.dst.toNat = s.ev.b → 100000 ≤ (s.dt - u.last).toNat →
      gives .flitResend { fb with queued := fb.queued ++ [(fb.route u.flit.dst.toNat, { u.flit with gen := fb.gen })], unacked := [{ u with flit := { u.flit with gen := fb.gen }, last := s.dt }] }) ∧
    (fb.state = 0#2 → exec .routeRetire s = .next s ∧
      (s.ev.flag = true → ∃ ps, gives .routeSwitchover { fb with ports := ps, standby := true } ∧
        tables ps (fun p x => { x with oldRoutes := portRoutes p s.ev.point })) ∧
      (s.ev.flag = false → fb.standby = true →
        ∃ ps, gives .routeSwitchover { fb with gen := fb.gen + 1, oldGen := fb.gen, state := 1, remapAt := s.dt, ports := ps, standby := false } ∧
          tables ps (fun _ x => { x with oldRoutes := x.routes, routes := x.oldRoutes })) ∧
      (s.ev.flag = false → fb.standby = false → exec .routeSwitchover s = .next s)) ∧
    (fb.state ≠ 0#2 → exec .routeSwitchover s = .next s ∧ drops .routeRetire) ∧
    (fb.state = 1#2 → 1000000000 ≤ (s.dt - fb.remapAt).toNat → gives .remapTimeout { fb with state := 2 }) ∧
    (fb.state = 2#2 → drops .forceRouteRetire) ∧
    (∀ p f pre post, p < 18 → fb.linked p = true → fb.queued = pre ++ (some p, f) :: post → (∀ q ∈ pre, q.1 ≠ some p) →
      (some p, f) ∈ s.transmit.fabric.sent) ∧
    (∀ (f : Flit) (q : BitVec 16), fb.waiting = [] → fb.seen.find (f.src.toNat, f.dst.toNat) = some q →
      (f.seq = q + 1 → ∃ t, s.inOrder f none = (t, true) ∧ t.fabric.seen.find (f.src.toNat, f.dst.toNat) = some f.seq) ∧
      (f.seq = q + 2 → ∃ t, s.inOrder f none = (t, false) ∧ t.fabric.seen = fb.seen ∧ t.fabric.waiting = [(s.dt, s.ev)]) ∧
      (f.seq = q → ∃ t, s.inOrder f none = (t, false) ∧ t.fabric.seen = fb.seen ∧ t.fabric.waiting = []))

/-! ### The matrix unit (R222 to R243) -/

/-- R226 to R229 and R232 to R236: the words of the array, the loader and the control of a cue stream, when no earlier word
holds them back and their checks pass. Each writes the part of the matrix state that is named, cells and slots with the values of R107 and R108, and leaves the rest of it,
global memory, scratchpad and the registers as they are, but for sticky bits of st and for the mask that MMAW and MACQ answer in d; the H
forms write no more than that mask until their operands are fetched.

That cells, planes, slots and areas are written at issue while the word completes later is the model's choice of log entry 12. -/
def Obligations.MatrixArrayWords : Prop :=
  ∀ (s : State) (c : Ctx) (k : Nat) (t : Troupe) (d a b : Reg), s.issuing c → s.troupeOf s.unit = some (k, t) → s.troupes.find k = some t →
    s.unit = t.cue → s.cur.vals = none → (∀ o ∈ t.mx.ops, ∃ n, o.due = some n ∧ n < s.cycle) →
    let fm := s.cur.fm
    let qd := c.rdS s.issue d
    let qa := c.rdS s.issue a
    let qb := c.rdS s.issue b
    let ra := arrayRows t.mx.shape
    let ca := arrayCols t.mx.shape
    let writes := fun (i : Instr) (P : Matrix → Ctx → Prop) => ∃ u t' c', exec i s = .next u ∧ u.troupes.find k = some t' ∧
      u.ctxs.find s.unit = some c' ∧ P t'.mx c' ∧ t'.mx.shape = t.mx.shape ∧ t'.mx.gate = t.mx.gate ∧ u.mem = s.mem ∧ u.scratch = s.scratch
    let acts := fun (i : Instr) (P : Matrix → Prop) => writes i (fun m c' => P m ∧ c' = { c with st := c'.st } ∧
      ∀ j, c.st.getLsbD j = true → c'.st.getLsbD j = true)
    let answers := fun (x : Dword) (c' : Ctx) => ({ c with st := c'.st }).ScalarResult c' s.issue 1 d x (s.here c).cf ∧
      ∀ j, c.st.getLsbD j = true → c'.st.getLsbD j = true
    let fetches := fun (i : Instr) (P : Ctx → Prop) => ∃ u t' f c', exec i s = .next u ∧ u.fars = s.fars ++ [f] ∧ f.cls = .fetch ∧ f.instr = i ∧
      u.troupes.find k = some t' ∧ t' = { t with mx := { t.mx with ops := t'.mx.ops } } ∧ u.ctxs.find s.unit = some c' ∧ P c' ∧
      (∀ x, x ≠ s.unit → u.ctxs.find x = s.ctxs.find x) ∧ u.mem = s.mem ∧ u.scratch = s.scratch
    let fine := fun (A : Area) => A.misaligned = false ∧ t.regionBad A.addr A.len = false ∧ s.areaBad t A = false
    let A := areaOf qd ra qb.toNat (elemWidth (fmA fm))
    let B := areaOf qa ca qb.toNat (elemWidth (fmB fm))
    let P := groupPositions (max (elemWidth (fmA fm)) (elemWidth (fmB fm))) false
    let kw := ra * P
    let ns := slotsOf qd.toNat
    let R := qb.toNat % 2 ^ 11
    let S := (R + ra - 1) / ra
    let X := areaOf qa R (ra * t.mx.active.p) (elemWidth (fmA fm))
    acts .mzero (fun m => m.cells = [] ∧ m.cellFmt = none ∧ m.slots = t.mx.slots ∧ m.active = t.mx.active ∧ m.shadow = t.mx.shadow) ∧
    acts .mflip (fun m => m.active = t.mx.shadow ∧ m.shadow = t.mx.active ∧ m.cells = t.mx.cells ∧ m.slots = t.mx.slots) ∧
    (opReserved false qd = false → opReserved false qa = false → badK qb = false → pairLegal (fmA fm) (fmB fm) (fmAcc fm) = true →
      fmA fm < 0xC → fmB fm < 0xC → fine A → fine B → t.mx.otherFmt (fmAcc fm) = false → t.mx.badIn [0] = false →
      acts (.mmao d a b) (fun m => m.cellFmt = some (fmAcc fm) ∧ m.slots = t.mx.slots ∧ m.active = t.mx.active ∧ m.shadow = t.mx.shadow ∧
        ∀ i j, i < ra → j < ca → (m.cells.getD i []).getD j 0 =
          cellAfter (fmAcc fm) P (keptGroups (fm.getLsbD 14) P qb.toNat ra (s.areaNum t A (fmA fm))) (s.areaNum t A (fmA fm) i)
            (s.areaNum t B (fmB fm) j) ((t.mx.cells.getD i []).getD j 0))) ∧
    (opReserved false qd = false → pairLegal (fmA fm) (fmB fm) (fmAcc fm) = true → fmB fm < 0xC → fine (areaOf qd ca kw (elemWidth (fmB fm))) →
      acts (.mldw d) (fun m => m.shadow.loaded = true ∧ m.shadow.fmt = fmB fm ∧
        m.shadow.rows = s.areaTile t (areaOf qd ca kw (elemWidth (fmB fm))) kw (fmB fm) ∧ m.cells = t.mx.cells ∧ m.slots = t.mx.slots ∧
        m.active = t.mx.active)) ∧
    (opReserved false qa = false → badR qb = false → mmawAuto qb = true → t.mx.active.loaded = true →
      pairLegal (fmA fm) t.mx.active.fmt (fmAcc fm) = true → fmA fm < 0xC → elemWidth (fmA fm) = t.mx.active.cls →
      fine X → S ≤ t.mx.free.length → t.mx.badIn [17] = false →
      writes (.mmaw d a b) (fun m c' => answers (BitVec.ofNat 64 (slotMask (t.mx.free.take S))) c' ∧
        t.mx.streamed m (fmAcc fm) (t.mx.free.take S) R true (s.areaNum t X (fmA fm)) ∧
        (∀ n, n ∉ t.mx.free.take S → m.slots.find n = t.mx.slots.find n) ∧ m.cells = t.mx.cells ∧ m.active = t.mx.active ∧ m.shadow = t.mx.shadow)) ∧
    (opReserved false qa = false → badR qb = false → mmawAuto qb = false → qd.toNat < 2 ^ 16 → ns.length = S →
      (∀ n ∈ ns, ∃ z, t.mx.slots.find n = some z ∧ z.fmt = fmAcc fm) → t.mx.active.loaded = true →
      pairLegal (fmA fm) t.mx.active.fmt (fmAcc fm) = true → fmA fm < 0xC → elemWidth (fmA fm) = t.mx.active.cls → fine X →
      t.mx.badIn (17 :: ns.map (fun n => n + 1)) = false →
      acts (.mmaw d a b) (fun m => t.mx.streamed m (fmAcc fm) ns R false (s.areaNum t X (fmA fm)) ∧
        (∀ r, R ≤ r → r < S * ra → ∀ z z', t.mx.slots.find (ns.getD (r / ra) 0) = some z → m.slots.find (ns.getD (r / ra) 0) = some z' →
          z'.rows.getD (r % ra) [] = z.rows.getD (r % ra) []) ∧
        (∀ n, n ∉ ns → m.slots.find n = t.mx.slots.find n) ∧ m.cells = t.mx.cells ∧ m.active = t.mx.active ∧ m.shadow = t.mx.shadow)) ∧
    (1 ≤ qa.toNat → qa.toNat ≤ 16 → qa.toNat ≤ t.mx.free.length →
      writes (.macq d a) (fun m c' => answers (BitVec.ofNat 64 (slotMask (t.mx.free.take qa.toNat))) c' ∧
        (∀ n ∈ t.mx.free.take qa.toNat, m.slots.find n = some { fmt := fmAcc fm, rows := [] }) ∧
        (∀ n, n ∉ t.mx.free.take qa.toNat → m.slots.find n = t.mx.slots.find n) ∧ m.cells = t.mx.cells)) ∧
    (qd.toNat < 2 ^ 16 → t.mx.takenAll (slotsOf qd.toNat) = true →
      acts (.mrel d) (fun m => (∀ n ∈ slotsOf qd.toNat, m.slots.find n = none) ∧
        (∀ n, n ∉ slotsOf qd.toNat → m.slots.find n = t.mx.slots.find n) ∧ m.cells = t.mx.cells)) ∧
    (refReserved qd = false → refReserved qa = false → badK qb = false →
      pairLegal (hFmt (refHandle c qd)) (hFmt (refHandle c qa)) (fmAcc fm) = true → matrixHandle (refHandle c qd) qd = true →
      matrixHandle (refHandle c qa) qa = true → (hStructured (refHandle c qd) && hStructured (refHandle c qa)) = false →
      t.mx.otherFmt (fmAcc fm) = false →
      t.mx.badIn [0] = false → fetches (.mmaoH d a b) (fun c' => c' = c)) ∧
    (refReserved qd = false → pairLegal (fmA fm) (hFmt (refHandle c qd)) (fmAcc fm) = true → matrixHandle (refHandle c qd) qd = true →
      fetches (.mldwH d) (fun c' => c' = c)) ∧
    (refReserved qa = false → badR qb = false → mmawAuto qb = true → t.mx.active.loaded = true →
      pairLegal (hFmt (refHandle c qa)) t.mx.active.fmt (fmAcc fm) = true → matrixHandle (refHandle c qa) qa = true → hDense (refHandle c qa) = true →
      elemWidth (hFmt (refHandle c qa)) = t.mx.active.cls → S ≤ t.mx.free.length → t.mx.badIn [17] = false →
      fetches (.mmawH d a b) (answers (BitVec.ofNat 64 (slotMask (t.mx.free.take S))))) ∧
    (refReserved qa = false → badR qb = false → mmawAuto qb = false → qd.toNat < 2 ^ 16 → ns.length = S →
      (∀ n ∈ ns, ∃ z, t.mx.slots.find n = some z ∧ z.fmt = fmAcc fm) → t.mx.active.loaded = true →
      pairLegal (hFmt (refHandle c qa)) t.mx.active.fmt (fmAcc fm) = true → matrixHandle (refHandle c qa) qa = true → hDense (refHandle c qa) = true →
      elemWidth (hFmt (refHandle c qa)) = t.mx.active.cls → t.mx.badIn (17 :: ns.map (fun n => n + 1)) = false →
      fetches (.mmawH d a b) (fun c' => c' = c)) ∧
    (qd.toNat < 4 → shapeWithin t.shape.toNat qd.toNat = true → t.mx.slots = [] →
      ∃ u t', exec (.mfuse d) s = .next u ∧ u.troupes.find k = some t' ∧ t'.mx.shape = BitVec.ofNat 2 qd.toNat ∧ t'.mx.cells = [] ∧
        t'.mx.cellFmt = none ∧ t'.mx.active.loaded = false ∧ t'.mx.shadow.loaded = false ∧ u.ctxs = s.ctxs ∧ u.mem = s.mem ∧ u.scratch = s.scratch)

/-- R108, R227 and R229: an MMAO of signed 8-bit integers adds to each cell the exact sum of its products modulo 2^32,
whichever chunks are skipped.

That the cells hold the sum in the state after the issuing step, before the word completes, is the model's choice of log entry
12. -/
def Obligations.IntegerProduct : Prop :=
  ∀ (s : State) (c : Ctx) (k : Nat) (t : Troupe) (d a b : Reg), s.issuing c → s.troupeOf s.unit = some (k, t) → s.troupes.find k = some t →
    s.unit = t.cue → s.cur.vals = none → (∀ o ∈ t.mx.ops, ∃ n, o.due = some n ∧ n < s.cycle) →
    let fm := s.cur.fm
    let qd := c.rdS s.issue d
    let qa := c.rdS s.issue a
    let K := (c.rdS s.issue b).toNat
    let A := areaOf qd (arrayRows t.mx.shape) K 8
    let B := areaOf qa (arrayCols t.mx.shape) K 8
    let fine := fun (X : Area) => X.misaligned = false ∧ t.regionBad X.addr X.len = false ∧ s.areaBad t X = false
    let byte := fun (X : Area) (r n : Nat) => (s.scratch.read (t.scratchAddr (X.addr + r * X.stride) + n)).toInt
    opReserved false qd = false → opReserved false qa = false → 8 ≤ K → K ≤ 4096 → K % 8 = 0 → fmA fm = 8 → fmB fm = 8 → fmAcc fm = 1#2 →
    fine A → fine B → t.mx.otherFmt 1 = false → t.mx.badIn [0] = false →
    ∃ u t', exec (.mmao d a b) s = .next u ∧ u.troupes.find k = some t' ∧
      ∀ i j, i < arrayRows t.mx.shape → j < arrayCols t.mx.shape →
        (t'.mx.cells.getD i []).getD j 0 =
          BitVec.ofInt 32 (((t.mx.cells.getD i []).getD j 0).toInt + ((List.range K).map (fun n => byte A i n * byte B j n)).sum)

/-- R222, R231, R237 to R240: the gate words and MSTAT. MSHO writes the codes of its rows and LSCAN the scan of each channel, and
they change no other byte; GCFG takes the
entries before the first END; MSTAT reads and clears st, reads and writes fm, and answers the state word.

R226 and R241: a matrix word completes; a fetched weight tile enters the shadow plane, fetched operands of MMAO.H the cells, and
activations of MMAW.H the slots.

R226 and R236: a word waits while an earlier one holds its engine or what it needs, and MFUSE while any engine is at work or
a word has not completed that reads what it resets.

That MSHO and LSCAN write at issue while they complete later is the model's choice of log entry 12. -/
def Obligations.MatrixStatusCompletions : Prop :=
  (∀ (s : State) (c : Ctx) (k : Nat) (t : Troupe) (d a b : Reg), s.issuing c → s.troupeOf s.unit = some (k, t) → s.troupes.find k = some t →
       s.unit = t.cue → s.cur.vals = none → (∀ o ∈ t.mx.ops, ∃ n, o.due = some n ∧ n < s.cycle) →
       let fm := s.cur.fm
       let qd := c.rdS s.issue d
       let qa := c.rdS s.issue a
       let qb := (c.rdS s.issue b).toNat
       let ra := arrayRows t.mx.shape
       let ca := arrayCols t.mx.shape
       let placed := fun (A : Area) => A.misaligned = false ∧ t.regionBad A.addr A.len = false
       let fine := fun (A : Area) => placed A ∧ s.areaBad t A = false
       let covers := fun (A : Area) (x : Nat) => ∃ r, r < A.rows ∧ t.scratchAddr (A.addr + r * A.stride) ≤ x ∧
         x < t.scratchAddr (A.addr + r * A.stride) + A.rowBytes
       let ns := slotsOf (qd.toNat / 2 ^ 48 % 2 ^ 16)
       let D := areaOf qd (if ns = [] then ra else ra * ns.length) ca (elemWidth (fmO fm))
       let A := areaOf qd (qb % 2 ^ 11) (qb / 2 ^ 16 % 2 ^ 13) 32
       let B := areaOf qa (qb % 2 ^ 11) (qb / 2 ^ 16 % 2 ^ 13) 32
       let code := fun (q j : Nat) => match (if ns = [] then none else t.mx.slots.find (ns.getD (q / ra) 0)) with
         | some z => s.drainCode t fm z.fmt q j ((z.rows.getD (q % ra) []).getD j 0)
         | none => s.drainCode t fm (t.mx.cellFmt.getD 0) q j ((t.mx.cells.getD q []).getD j 0)
       let step := fun (u : State) (Y : Area) (j r : Nat) => u.scratch.word (t.scratchAddr (Y.addr + r * Y.stride) + 4 * j)
       let prog := ((List.range 8).map (recWord (s.scratch.bytes (t.scratchAddr (qd.toNat % 2 ^ 22)) 64))).takeWhile (fun g => decide (gateOp g ≠ 0))
       let acts := fun (i : Instr) (P : State → Matrix → Ctx → Prop) => ∃ u t' c', exec i s = .next u ∧ u.troupes.find k = some t' ∧
         u.ctxs.find s.unit = some c' ∧ P u t'.mx c' ∧ t'.mx.cells = t.mx.cells ∧ t'.mx.slots = t.mx.slots ∧ t'.mx.active = t.mx.active ∧
         t'.mx.shadow = t.mx.shadow ∧ t'.mx.shape = t.mx.shape ∧ u.mem = s.mem
       let sticky := fun (c' : Ctx) => c' = { c with st := c'.st } ∧ ∀ j, c.st.getLsbD j = true → c'.st.getLsbD j = true
       let quiet := fun (i : Instr) (P : Matrix → Ctx → Prop) => acts i (fun u m c' => P m c' ∧ u.scratch = s.scratch)
       let reads := fun (i : Instr) (x : Dword) => quiet i (fun m c' => c.ScalarResult c' s.issue 1 d x (s.here c).cf ∧ m.gate = t.mx.gate)
       (s.scratch.wf = true → opReserved true qd = false → t.mx.takenAll ns = true → placed D →
         (∀ G ∈ t.mx.gate.filterMap (gateArea ca D.rows), fine G) →
         t.mx.badIn (if ns = [] then [0] else ns.map (fun n => n + 1)) = false →
         acts (.msho d) (fun u _ c' => (∀ x, ¬ covers D x → u.scratch.read x = s.scratch.read x) ∧ sticky c' ∧
           ∀ q, q < D.rows → leNat (u.scratch.bytes (t.scratchAddr (D.addr + q * D.stride)) D.rowBytes) =
             ((List.range ca).map (fun j => code q j * 2 ^ (elemWidth (fmO fm) * j))).sum % 2 ^ (8 * D.rowBytes))) ∧
       (s.scratch.wf = true → opReserved false qd = false → opReserved false qa = false → qb / 2 ^ 11 % 2 ^ 5 = 0 → qb < 2 ^ 29 →
         1 ≤ qb % 2 ^ 11 → qb % 2 ^ 11 ≤ 1024 → 1 ≤ qb / 2 ^ 16 % 2 ^ 13 → qb / 2 ^ 16 % 2 ^ 13 ≤ 4096 → fine A → fine B → A.overlaps B = false →
         acts (.lscan d a b) (fun u _ c' => (∀ x, ¬ covers A x → ¬ covers B x → u.scratch.read x = s.scratch.read x) ∧ sticky c' ∧
           ∀ j r, j < qb / 2 ^ 16 % 2 ^ 13 → r < qb % 2 ^ 11 →
             step u A j r = (scanned (qb % 2 ^ 11) (step s A j) (step s B j)).1 r ∧ step u B j r = (scanned (qb % 2 ^ 11) (step s A j) (step s B j)).2 r)) ∧
       (qd.toNat < 2 ^ 22 → qd.toNat % 64 = 0 → t.regionBad qd.toNat 64 = false → s.areaBad t { addr := qd.toNat, pitch := 0, rows := 1, rowBytes := 64 } = false →
         (∀ g ∈ prog, gateBad g = false) → quiet (.gcfg d) (fun m c' => m.gate = prog ∧ c' = c)) ∧
       reads (.mstatSt d) (c.st.setWidth 64) ∧ reads (.mstatGetfmt d) (fm.setWidth 64) ∧ reads (.mstatState d) t.mx.stateWord ∧
       quiet (.mstatClr d) (fun _ c' => c' = { c with st := c.st &&& ~~~ (qd.setWidth 7) }) ∧
       (fmLegal (qd.setWidth 32) = true →
         quiet (.mstatSetfmt d) (fun _ c' => c' = c.setPath s.cur.turn.slotB { s.here c with fm := qd.setWidth 32 }))) ∧
  (∀ (s : State) (k : Nat) (t : Troupe), s.troupeOf s.ev.unit = some (k, t) → s.troupes.find k = some t →
       (∃ u t', exec .matrixWordComplete s = .next u ∧ u.troupes.find k = some t' ∧
         (∀ o ∈ t'.mx.ops, o.id = s.ev.id → o.done = true) ∧ t' = { t with mx := { t.mx with ops := t'.mx.ops } } ∧ u = { s with troupes := u.troupes }) ∧
       (∀ f o d ws s1, s.fars.find? (fun x => decide (x.id = s.ev.id)) = some f → t.mx.ops.find? (fun o => decide (o.id = f.id)) = some o →
         o.instr = .mldwH d →
         let h := f.handleAt 0
         let v := (nth o.vals 0).toNat
         s.handleTile f.unit f.level h (v / 2 ^ 32 % 2 ^ 16) (arrayRows t.mx.shape * stepP (pairWidth (hFmt h) (fmA o.fm)) (hStructured h))
           (arrayCols t.mx.shape) (v / 2 ^ 16 % 2 ^ 16) = (s1, .ok (ws, false)) →
         ∃ u t', exec .handleFetchComplete s = .next u ∧ u.troupes.find k = some t' ∧ t'.mx.shadow.loaded = true ∧ t'.mx.shadow.fmt = hFmt h ∧
           t'.mx.shadow.rows = ws ∧ t'.mx.active = t.mx.active ∧ t'.mx.cells = t.mx.cells ∧ t'.mx.slots = t.mx.slots ∧ u.mem = s1.mem) ∧
       (∀ f o d a b as bs s1 s2, s.fars.find? (fun x => decide (x.id = s.ev.id)) = some f → t.mx.ops.find? (fun o => decide (o.id = f.id)) = some o →
         o.instr = .mmaoH d a b →
         let v := fun (n : Nat) => (nth o.vals n).toNat
         let K := v 2
         let ra := arrayRows t.mx.shape
         let ca := arrayCols t.mx.shape
         let A := f.handleAt 0
         let B := f.handleAt 1
         let P := groupPositions (max (elemWidth (hFmt A)) (elemWidth (hFmt B))) (hStructured A || hStructured B)
         let at_ := fun (rows : List TileRow) (i n : Nat) => ((rows.getD i [])[n]?).join
         K % 8 = 0 → s.handleTile f.unit f.level A (v 0 / 2 ^ 32 % 2 ^ 16) K ra (v 0 / 2 ^ 16 % 2 ^ 16) = (s1, .ok (as, false)) →
         s1.handleTile f.unit f.level B (v 1 / 2 ^ 32 % 2 ^ 16) K ca (v 1 / 2 ^ 16 % 2 ^ 16) = (s2, .ok (bs, false)) →
         ∃ u t', exec .handleFetchComplete s = .next u ∧ u.troupes.find k = some t' ∧ t'.mx.cellFmt = some (fmAcc o.fm) ∧
           t'.mx.active = t.mx.active ∧ t'.mx.shadow = t.mx.shadow ∧ t'.mx.slots = t.mx.slots ∧ u.mem = s2.mem ∧
           ∀ i j, i < ra → j < ca → (t'.mx.cells.getD i []).getD j 0 =
             cellAfter (fmAcc o.fm) P (keptGroups (o.fm.getLsbD 14) P K ra (at_ as)) (at_ as i) (at_ bs j) ((t.mx.cells.getD i []).getD j 0)) ∧
       (∀ f o d a b xs s1, s.fars.find? (fun x => decide (x.id = s.ev.id)) = some f → t.mx.ops.find? (fun o => decide (o.id = f.id)) = some o →
         o.instr = .mmawH d a b →
         let v := fun (n : Nat) => (nth o.vals n).toNat
         let R := v 2 % 2 ^ 11
         let ra := arrayRows t.mx.shape
         let ns := slotsOf o.mask
         R ≤ ns.length * ra →
         s.handleTile f.unit f.level (f.handleAt 0) (v 1 / 2 ^ 32 % 2 ^ 16) (ra * t.mx.active.p) R (v 1 / 2 ^ 16 % 2 ^ 16) = (s1, .ok (xs, false)) →
         ∃ u t', exec .handleFetchComplete s = .next u ∧ u.troupes.find k = some t' ∧ t'.mx.cells = t.mx.cells ∧ t'.mx.active = t.mx.active ∧
           t'.mx.shadow = t.mx.shadow ∧ u.mem = s1.mem ∧
           t.mx.streamed t'.mx (fmAcc o.fm) ns R (decide (v 2 / 2 ^ 16 % 2 = 1)) (fun r n => ((xs.getD r [])[n]?).join) ∧
           ∀ n, n ∉ ns → t'.mx.slots.find n = t.mx.slots.find n)) ∧
  (∀ (s : State) (c : Ctx) (k : Nat) (t : Troupe) (d : Reg), s.issuing c → s.troupeOf s.unit = some (k, t) → s.unit = t.cue → s.cur.vals = none →
       (s.here c).held = none →
       ((∃ o ∈ t.mx.ops, o.blocks s.cycle .array [] [.cells] = true) → s.holds c .mzero s [] false) ∧
       ((∃ o ∈ t.mx.ops, (o.engine ≠ .none ∨ ∃ x ∈ o.reads ++ o.writes, x = .cells ∨ x = .active ∨ x = .shadow) ∧ ∀ n, o.due = some n → s.cycle ≤ n) →
         s.holds c (.mfuse d) s [c.rdS s.issue d] false))

/-! ### The Callboard, the host's registers and the copy engines (R272 to R282, R366 to R369, R404) -/

/-- R277, R278 and R348: the Callboard words of the sheet of a queue. CB.SUBMIT and CB.SEMADD wait for their engine,
CB.SEMWAIT for its semaphore; CB.IRQ sends its vector, or holds it while Bus Master Enable is clear. A refused operand ends
the sheet with STATUS 2 and a record of KIND 6. -/
def Obligations.CallboardWords : Prop :=
  ∀ (s : State) (c : Ctx) (vi k : Nat) (v : Vdi) (q : Queue) (seq entry : Word) (a b : Reg) (n : BitVec 12), s.issuing c → s.unit = .board vi k →
    (s.here c).held = none → s.cur.turn.slotB = false → s.vdis.find vi = some v → v.queues.find k = some q → q.running = some (seq, entry) →
    let x := c.rdS s.issue a
    let y := c.rdS s.issue b
    let sem := v.img.semBase + n.toNat
    let value := ((s.sems.find sem).getD 0).toNat
    let sleeps := fun (i : Instr) (vals : List Dword) (P : State → Held → Prop) => ∃ u, exec i s = .next u ∧
      u.ctxs.find s.unit = some (c.setPath s.cur.turn.slotB { s.here c with held := some (s.heldAs i vals true) }) ∧
      P u (s.heldAs i vals true) ∧ u.mem = s.mem ∧ u.hostMem = s.hostMem ∧ u.sems = s.sems
    let off := fun (u : State) => ∃ q', u.queue vi k = some q' ∧ q' = { q with core := none, readySince := none }
    let event := fun (u : State) (h : Held) (P : Event → Prop) => ∃ n e, u.due = s.due ++ [(n, e)] ∧ e.unit = s.unit ∧ e.id = h.tag ∧ P e
    let ends := fun (i : Instr) (cause : Nat) => ∃ u w q', exec i s = .next u ∧ u.vdis.find vi = some w ∧ w.queues.find k = some q' ∧
      q'.finished = q.finished ++ [(seq, 2)] ∧ q'.running = none ∧ q'.core = none ∧ u.ctxs.find s.unit = none ∧ u.mem = s.mem ∧ u.sems = s.sems ∧
      (v.fltail - v.flack = 64 → w.fllost = v.fllost + 1 ∧ w.log = v.log) ∧
      (v.fltail - v.flack ≠ 64 → w.fltail = v.fltail + 1 ∧ w.log.find ((v.fltail + 1).toNat % 64) =
        some { w0 := BitVec.ofNat 64 (6 * 2 ^ 56 + cause * 2 ^ 48 + 15 * 4), pos := BitVec.ofNat 64 (k * 2 ^ 32 + seq.toNat),
               info := s.cur.word.setWidth 64, dt := s.dt })
    ((y = if q.kind then 1#64 else 0#64) →
      sleeps (.cbSubmit a b) [x, y] (fun u h => off u ∧ event u h (fun e => e.kind = .recordPresented))) ∧
    ((y ≠ if q.kind then 1#64 else 0#64) → ends (.cbSubmit a b) 0x01) ∧
    (n.toNat < v.img.semShare → x.toNat ≤ value → exec (.cbSemwait a n) s = .next s) ∧
    (n.toNat < v.img.semShare → value < x.toNat → sleeps (.cbSemwait a n) [x] (fun u _ => off u)) ∧
    (n.toNat < v.img.semShare →
      sleeps (.cbSemadd a n) [x] (fun u h => event u h (fun e => e.kind = .semaphoreAddAcknowledge ∧ e.a = sem ∧ e.dword = x))) ∧
    (v.img.semShare ≤ n.toNat → ends (.cbSemwait a n) 0x0A ∧ ends (.cbSemadd a n) 0x0A) ∧
    (v.bme = true → exec (.cbIrq n) s = .next { s with vdis := s.vdis.put vi { v with irqSent := v.irqSent ++ [n.toNat] } }) ∧
    (v.bme = false → exec (.cbIrq n) s = .next { s with vdis := s.vdis.put vi { v with irqHeld := v.irqHeld ++ [n.toNat] } })

/-- R273 to R277, R366 and R367: the registers of a queue, the acceptance of its entries, the completions, and the
contexts.

That a write of QTAIL brings the bytes that the host has written into host memory is the model's choice of log entry 31. -/
def Obligations.QueueEvents : Prop :=
  ∀ (s : State) (v : Vdi) (q : Queue), s.vdis.find s.ev.a = some v → v.queues.find s.ev.b = some q →
    let x := s.ev.dword
    let size := 2 ^ q.qlog2.toNat
    let becomes := fun (i : Instr) (P : Queue → Prop) => ∃ u q', exec i s = .next u ∧ u.queue s.ev.a s.ev.b = some q' ∧ P q' ∧ u.mem = s.mem ∧
      u.hostMem = s.hostMem ∧ u.scratch = s.scratch
    let configured := fun (q' : Queue) => q'.qlog2 = BitVec.ofNat 4 (x.toNat / 2 ^ 4) ∧ q'.pri = BitVec.ofNat 2 (x.toNat / 2 ^ 2) ∧
      q'.kind = x.getLsbD 1 ∧ q'.qbase = q.qbase ∧ q'.cbase = q.cbase ∧ q'.accepted = q.accepted
    let n := q.qacc + 1
    let at_ := q.qbase.toNat + 16 * (n.toNat % size)
    let stops := fun (i : Instr) (why : BitVec 2) => becomes i (fun q' => q'.stop = why ∧ q'.xseq = n ∧ q'.qacc = q.qacc ∧ q'.accepted = q.accepted)
    (q.en = false → 4 ≤ x.toNat / 2 ^ 4 % 16 → x.toNat / 2 ^ 4 % 16 ≤ 12 → becomes .queueEnable (fun q' => configured q' ∧ q'.en = true)) ∧
    (q.en = true ∨ x.toNat / 2 ^ 4 % 16 < 4 ∨ 12 < x.toNat / 2 ^ 4 % 16 → exec .queueEnable s = .next s) ∧
    becomes .queueDisable (fun q' => q'.en = false ∧ q'.stop = 0#2 ∧ q'.xseq = 0#32 ∧ q'.rcause = 0#8 ∧ q'.qtail = q.qtail ∧ q'.qacc = q.qacc ∧
      q'.accepted = q.accepted ∧ q'.running = q.running ∧ (q.running = none → q'.readySince = none ∧ q'.aged = 0)) ∧
    (q.en = false → becomes .qcfgConfigure (fun q' => configured q' ∧ q'.en = false ∧ q'.stop = 0#2 ∧ q'.xseq = 0#32 ∧ q'.rcause = 0#8)) ∧ (q.en = true → becomes .qcfgConfigure (fun q' => q' = q)) ∧
    (∃ u q', exec .qtailWrite s = .next u ∧ u.queue s.ev.a s.ev.b = some q' ∧ u.mem = s.mem ∧ u.scratch = s.scratch ∧
      u.hostMem = s.hostMem.putBytes s.ev.c (s.ev.bytes.headD []) ∧
      ((x.setWidth 32 - q.qacc).toNat ≤ size → q' = { q with qtail := x.setWidth 32 }) ∧
      (size < (x.setWidth 32 - q.qacc).toNat → q'.stop = 3#2 ∧ q'.xseq = n ∧ q'.qacc = q.qacc ∧ q'.accepted = q.accepted)) ∧
    (q.en = true → q.stop = 0#2 → q.qacc ≠ q.qtail → s.ev.flag = true → s.hostMem.word at_ = n →
      becomes .entryAccept (fun q' => q'.qacc = n ∧ q'.accepted = q.accepted ++ [(n, s.hostMem.word (at_ + 4), s.hostMem.dword (at_ + 8))] ∧ q'.stop = 0#2)) ∧
    (q.en = true → q.stop = 0#2 → q.qacc ≠ q.qtail → s.ev.flag = true → s.hostMem.word at_ ≠ n → stops .entryAccept 1) ∧
    (q.en = true → q.stop = 0#2 → q.qacc ≠ q.qtail → s.ev.flag = false → stops .entryAccept 2) ∧
    becomes .qcackWrite (fun q' => q' = { q with qcack := x.setWidth 32 }) ∧
    (∀ seq status more, q.finished = (seq, status) :: more → q.en = true → v.bme = true → (q.qdone - q.qcack).toNat ≠ size →
      let to_ := q.cbase.toNat + 16 * (seq.toNat % size)
      ∃ u q', exec .completionWrite s = .next u ∧ u.queue s.ev.a s.ev.b = some q' ∧ q' = { q with qdone := seq, finished := more } ∧
        u.hostMem = ((s.hostMem.putWord to_ seq).putWord (to_ + 4) status).putDword (to_ + 8) s.dt ∧ u.mem = s.mem) ∧
    (q.en = false ∨ v.bme = false ∨ (q.qdone - q.qcack).toNat = size → exec .completionWrite s = .next s) ∧
    (∀ n' ns seq entry arg more, s.freeBoards = n' :: ns → s.readyContexts = [(s.ev.a, s.ev.b, q)] → q.running = none →
      q.accepted = (seq, entry, arg) :: more →
      ∃ u q' c, exec .contextDispatch s = .next u ∧ u.queue s.ev.a s.ev.b = some q' ∧ q'.running = some (seq, entry) ∧ q'.core = some n' ∧
        q'.accepted = more ∧ u.ctxs.find (.board s.ev.a s.ev.b) = some c ∧ c.sreg 0 = arg ∧ c.sreg 1 = seq.setWidth 64 ∧
        c.sreg 2 = BitVec.ofNat 64 s.ev.b ∧ (∀ j, 3 ≤ j → c.sreg j = 0#64) ∧ c.a.live = true ∧ c.a.pc = 4 * entry.toNat ∧ u.mem = s.mem) ∧
    (∀ c0, q.readySince = some c0 → c0 + 65536 * (q.aged + 1) ≤ s.cycle → becomes .contextPriorityAging (fun q' => q' = { q with aged := q.aged + 1 }))

/-- R280, R303, R312, R334, R335, R349, R366, R368 and R402: the registers of a function outside its queues, the group table, which
Proscenium writes (log entry 82), and the answer of an engine that read a record: the word of a cast is tried again, a sheet's nest record
is accepted or ends the sheet with STATUS 1, and a post of the post window is accepted.

R281, R282 and R404: a free copy engine starts the oldest record, with a bin's count when it asks for one; the copy
moves the bytes of one word of its destination, and ends with its addition; a fault that is repaired lets it go on, and one that is not ends it with a
record.

That a copy moves one 4-byte word of its destination per event is the model's choice of log entry 30, and the fields of a copy's
record that R404 leaves open that of log entry 73; that a host's write clears Bus Master Enable and what the configuration
dwords hold, that of log entry 4. -/
def Obligations.HostAndCopyEvents : Prop :=
  (∀ (s : State) (v : Vdi), s.vdis.find s.ev.a = some v →
       let x := s.ev.dword
       let becomes := fun (i : Instr) (w : Vdi) => exec i s = .next { s with vdis := s.vdis.put s.ev.a w }
       (s.ev.b < v.img.semShare → ∃ u, exec .semaphoreHostWrite s = .next u ∧ u.sems = s.sems.put (v.img.semBase + s.ev.b) x ∧ u.mem = s.mem) ∧
       (v.img.semShare ≤ s.ev.b → exec .semaphoreHostWrite s = .next s) ∧
       (s.ev.id ≠ 1 → s.ev.id ≠ 2 → s.ev.flag = true → s.ev.b = 0x0808 → becomes .registerWrite { v with flack := x.setWidth 32 }) ∧
       (∀ k q, s.ev.id ≠ 1 → s.ev.id ≠ 2 → s.ev.flag = true → v.queues.find k = some q → k < 16 → q.en = false →
         (s.ev.b = 0x1008 + 0x40 * k → becomes .registerWrite { v with queues := v.queues.put k { q with qbase := x } }) ∧
         (s.ev.b = 0x1010 + 0x40 * k → becomes .registerWrite { v with queues := v.queues.put k { q with cbase := x } })) ∧
       becomes .fllostClear { v with fllost := 0 } ∧ becomes .functionLevelReset { v with bme := false, pcie := [], msixTable := [] } ∧
       (s.ev.b ≠ 1 → s.ev.b ≠ 2 → s.ev.flag = false →
         ∃ u w, exec .busMasterEnable s = .next u ∧ u.vdis.find s.ev.a = some w ∧ w.bme = true ∧ w.irqSent = v.irqSent ++ v.irqHeld ∧ w.irqHeld = []) ∧
       (s.ev.b ≠ 1 → s.ev.b ≠ 2 → s.ev.flag = true → becomes .busMasterEnable { v with bme := false }) ∧
       (s.ev.b = 1 → becomes .busMasterEnable { v with pcie := v.pcie.put s.ev.c s.ev.word }) ∧
       (s.ev.b = 2 → becomes .busMasterEnable { v with msixTable := v.msixTable.put s.ev.c s.ev.word }) ∧
       (∀ c h core qd l, s.ev.flag = false → s.ev.unit = .cast core qd l → s.ctxs.find s.ev.unit = some c → c.a.held = some h → c.a.also = [] →
         h.asleep = true → h.tag = s.ev.id →
         ∃ u c', exec .recordPresented s = .next u ∧ u.ctxs.find s.ev.unit = some c' ∧
           c'.a.held = some { h with asleep := false, vals := h.vals ++ [1] } ∧ c'.s = c.s ∧ u.mem = s.mem) ∧
       (∀ c h k q va r s1, s.ev.flag = false → s.ev.unit = .board s.ev.a k → v.queues.find k = some q → s.ctxs.find s.ev.unit = some c →
         c.sleeper s.ev.id = some h → h.vals = [va, 0] → s.readBase s.ev.a 1 40 va.toNat 256 = (s1, .ok r) →
         (nestLegal v va.toNat r = true → v.launches.length < 64 →
           ∃ u w q', exec .recordPresented s = .next u ∧ u.vdis.find s.ev.a = some w ∧ w.launches = v.launches ++ [{ record := r, addr := va }] ∧
             w.queues.find k = some q' ∧ q'.readySince = some s.cycle ∧ u.mem = s1.mem) ∧
         (∀ seq entry, q.running = some (seq, entry) → nestLegal v va.toNat r = false →
           ∃ u w q', exec .recordPresented s = .next u ∧ u.vdis.find s.ev.a = some w ∧ w.launches = v.launches ∧ w.queues.find k = some q' ∧
             q'.finished = q.finished ++ [(seq, 1)] ∧ q'.rcause = 0x15#8 ∧ u.ctxs.find s.ev.unit = none ∧ u.mem = s1.mem))) ∧
  (∀ (s : State) (v : Vdi) (g w home index : BitVec 32), s.ev.id = 1 → s.ev.point = [g.toNat, w.toNat, home.toNat, index.toNat] →
       s.vdis.find w.toNat = some v → g.toNat < 2 ^ 24 → home.toNat < 2 ^ 20 → index.toNat < 4096 → s.coll.groups.length < 1024 →
       ∃ u, exec .registerWrite s = .next u ∧ u.coll.member w.toNat g.toNat = some (home.toNat, index.toNat, false) ∧ u = { s with coll := u.coll }) ∧
  (∀ (s : State) (v : Vdi) (r : List Byte) (home index : Nat) (gone : Bool) (s1 : State), s.ev.flag = true → s.ev.dword.toNat % 64 = 0 →
       s.vdis.find s.ev.a = some v → s.readBase s.ev.a 1 10 s.ev.dword.toNat 64 = (s1, .ok r) →
       let desc := (List.range 8).map (recWord r)
       descLegal desc = true → s.coll.member s.ev.a (dGroup desc) = some (home, index, gone) → s.coll.freeEntries ≠ [] →
       s.coll.shareUsed s.ev.a < v.img.pctShare →
       ∃ u e p, exec .recordPresented s = .next u ∧ u.coll.posts.find e = some p ∧ e ∈ s.coll.freeEntries ∧ p.state = .posted ∧ p.desc = desc ∧
         p.vdi = s.ev.a ∧ p.held = false ∧ u.mem = s1.mem ∧
         ((s.coll.window s.ev.a).writes = s.ev.b → (u.coll.window s.ev.a).cpres = BitVec.ofNat 64 (2 ^ 63 + (p.gen % 128 * 512 + e)))) ∧
  (∀ (s : State),
       (∀ v x c more e es, s.vdis.filter (fun w => !w.2.copies.isEmpty) = [(v, x)] → s.vdis.find v = some x → x.copies = c :: more →
         (List.range 4).filter (fun e => (s.engines.find e).isNone) = e :: es → c.w0.getLsbD 34 = false → c.len.toNat ≤ 2 ^ 48 →
         ∃ u w, exec .copyStart s = .next u ∧ u.engines.find e = some c ∧ u.vdis.find v = some w ∧ w.copies = more ∧ u.mem = s.mem) ∧
       (∀ v x c more e es, s.vdis.filter (fun w => !w.2.copies.isEmpty) = [(v, x)] → s.vdis.find v = some x → x.copies = c :: more →
         (List.range 4).filter (fun e => (s.engines.find e).isNone) = e :: es → c.w0.getLsbD 34 = true →
         let n := ((s.bins.find (x.img.binBase + c.w0.toNat / 2 ^ 20 % 2 ^ 12)).getD 0).toNat * 2 ^ (c.w0.toNat % 16)
         (n ≤ 2 ^ 48 → ∃ u w, exec .copyStart s = .next u ∧ u.engines.find e = some { c with len := BitVec.ofNat 64 n } ∧
           u.vdis.find v = some w ∧ w.copies = more ∧ u.mem = s.mem) ∧
         (2 ^ 48 < n → ∃ u w, exec .copyStart s = .next u ∧ u.engines = s.engines ∧ u.vdis.find v = some w ∧ w.copies = more ∧ u.mem = s.mem)) ∧
       (∀ c, s.engines.find s.ev.a = some c → c.faulted = false → c.len.toNat ≤ c.pos → c.w0.getLsbD 35 = false →
         ∃ u, exec .copyComplete s = .next u ∧ u.engines.find s.ev.a = none ∧ u.mem = s.mem ∧ u.sems = s.sems) ∧
       (∀ c n, s.engines.find s.ev.a = some c → c.faulted = false → c.len.toNat ≤ c.pos → c.w0.getLsbD 35 = true →
         s.semIndex c.vdi (c.w0.toNat / 2 ^ 36 % 2 ^ 12) = some n →
         ∃ u, exec .copyComplete s = .next u ∧ u.engines.find s.ev.a = none ∧ u.sems = s.sems.put n ((s.sems.find n).getD 0 + 1)) ∧
       (∀ c s1, s.engines.find s.ev.a = some c → c.faulted = false → c.pos < c.len.toNat → s.copyPart c = (s1, .ok ()) →
         ∃ u, exec .copyComplete s = .next u ∧ u.mem = s1.mem ∧ u.engines.find s.ev.a =
           some { c with pos := c.pos + min (c.len.toNat - c.pos) (4 - (c.dst.toNat + c.pos) % 4) }) ∧
       (∀ c, s.engines.find s.ev.a = some c → c.faulted = true →
         let s0 := s.report c.vdi (engineCause s.ev.b) (copyFaultRecord s.fresh c s.ev.dword { cause := engineCause s.ev.b, gpa := s.ev.c })
         let answer := s0.repairFault c.vdi s.ev.dword.toNat s.ev.b s.ev.c
         (answer = none → ∃ u, exec .copyFault s = .next u ∧ u.engines.find s.ev.a = none ∧ u.mem = s.mem ∧
           ∀ v, s.vdis.find c.vdi = some v → v.fltail - v.flack ≠ 64 → ∃ w, u.vdis.find c.vdi = some w ∧
             w.log.find ((v.fltail + 1).toNat % 64) =
               some { w0 := BitVec.ofNat 64 (11 * 2 ^ 56 + s.ev.b * 2 ^ 48 + 15 * 4), pos := c.addr, info := s.ev.dword, dt := s.dt }) ∧
         (∀ s1, answer = some s1 → ∃ u, exec .copyFault s = .next u ∧ u.engines.find s.ev.a = some { c with faulted := false } ∧ u.mem = s1.mem)))

/-! ### System words (R67, R68, R244 to R259, R299) -/

/-- R246, R247, R67 and R68: CSRR answers the control registers of the path, its cast, troupe and tenant, by number; reserved bits
read as zero.

R246, R247 and R67: CSRW puts its source into the register that it names, which then reads so; a reserved bit that is set
traps with IllegalInstr. A number that the table does not assign, and a CSRW of a register that only reads, do not decode. R258: a read of HMSG takes the oldest message of the quadrant.

That CSRR answers and CSRW writes at issue with latency 1 is the model's choice of log entry 79. -/
def Obligations.ControlRegisters : Prop :=
  (∀ (s : State) (c : Ctx) (d : Reg) (n : BitVec 12), s.issuing c →
       let Q := s.quad s.unit.quadKey
       (∃ x, s.givesScalar c (.csrr d n) 1 d x (s.here c).cf) ∧
       (Q.msgs = [] → s.givesScalar c (.hmsgRead d) 1 d 0 (s.here c).cf) ∧
       (∀ m from_ ms, Q.msgs = (m, from_) :: ms → ∃ c', c.ScalarResult c' s.issue 1 d m (s.here c).cf ∧
         exec (.hmsgRead d) s = .next ((s.setCtx s.unit c').setQuad s.unit.quadKey { Q with msgs := ms }))) ∧
  (∀ (s : State) (c q : Ctx) (k : Nat) (t : Troupe) (v : Vdi) (d : Reg), s.issuing c → s.troupeOf s.unit = some (k, t) →
       s.vdis.find t.vdi = some v → s.ctxs.find t.cue = some q →
       let reads := fun (n : Nat) (x : Dword) => s.givesScalar c (.csrr d (BitVec.ofNat 12 n)) 1 d x (s.here c).cf
       let level := fun (b : Nat) (l : Level) => reads b (BitVec.ofNat 64 (l.tvec.toNat % 2 ^ 30)) ∧ reads (b + 1) (l.epc.setWidth 64) ∧
         reads (b + 2) (BitVec.ofNat 64 (l.cause.toNat % 2 ^ 10)) ∧
         reads (b + 3) (l.em.setWidth 64) ∧ reads (b + 4) (l.park.setWidth 64) ∧ reads (b + 5) l.tval ∧ reads (b + 6) l.scr
       let page := fun (x : Dword) => x &&& 0xFFFFFFFFFF000#64
       reads 0x000 (BitVec.ofNat 64 (c.cctl.toNat % 2)) ∧ reads 0x001 c.dsmap ∧ reads 0x002 (BitVec.ofNat 64 (c.nspill % 128 * 2 ^ 8 + c.next.toNat)) ∧
       reads 0x003 (q.a.fm.setWidth 64) ∧ reads 0x004 (q.st.setWidth 64) ∧
       reads 0x005 (BitVec.ofNat 64 (s.counter s.unit .x % 64 * 2 ^ 24 + s.counter s.unit .t % 64 * 2 ^ 16 + s.counter s.unit .a % 64 * 2 ^ 8 +
         s.counter s.unit .g % 64)) ∧
       reads 0x006 ((s.here c).plvl.setWidth 64) ∧ reads 0x007 (t.nhnd.setWidth 64) ∧
       (∀ j, j < 16 → let r := t.rings[j]?.getD Ring.zero
         reads (0x010 + j) (r.desc &&& BitVec.ofNat 64 (2 ^ 48 - 2 ^ 20 + 1)) ∧ reads (0x020 + j) (BitVec.ofNat 64 (r.tail.toNat * 2 ^ 32 + r.head.toNat * 2 ^ 16 + r.freed.toNat))) ∧
       level 0x100 c.sup ∧ level 0x200 c.hyp ∧ reads 0x107 (page v.sptr) ∧ reads 0x108 (page v.plnext) ∧ reads 0x109 (page v.plend) ∧
       reads 0x207 (page v.hptr) ∧
       reads 0x208 v.toff ∧ reads 0x209 v.tscale ∧ reads 0x20B (BitVec.ofNat 64 ((s.quad s.unit.quadKey).msgs.length % 32))) ∧
  (∀ (s : State) (c : Ctx) (k : Nat) (t : Troupe) (v : Vdi) (a : Reg), s.issuing c → s.troupeOf s.unit = some (k, t) → s.vdis.find t.vdi = some v →
       let x := c.rdS s.issue a
       let puts := fun (n mask : Nat) (u : State) (c' : Ctx) =>
         (x &&& ~~~ BitVec.ofNat 64 mask = 0#64 → exec (.csrw a (BitVec.ofNat 12 n)) s = .next u ∧
           u.csrValue s.unit c' (c'.path s.cur.turn.slotB) n = x) ∧
         ∀ l, s.handledAt c l → x &&& ~~~ BitVec.ofNat 64 mask ≠ 0#64 →
           s.traps c (.csrw a (BitVec.ofNat 12 n)) l 0x01 (s.cur.word.setWidth 64) s.cur.pos false
       let unit := fun (n mask : Nat) (c' : Ctx) => puts n mask (s.setCtx s.unit c') c'
       let tenant := fun (n mask : Nat) (w : Vdi) => puts n mask { s with vdis := s.vdis.put t.vdi w } c
       let sup := fun (l : Level) => { c with sup := l }
       let hyp := fun (l : Level) => { c with hyp := l }
       unit 0x000 1 { c with cctl := x.setWidth 32 } ∧
       unit 0x100 (2 ^ 30 - 1) (sup { c.sup with tvec := x.setWidth 32 }) ∧ unit 0x101 (2 ^ 32 - 1) (sup { c.sup with epc := x.setWidth 32, mstep := none }) ∧
       unit 0x102 (2 ^ 10 - 1) (sup { c.sup with cause := x.setWidth 32 }) ∧ unit 0x103 (2 ^ 32 - 1) (sup { c.sup with em := x.setWidth 32 }) ∧
       unit 0x106 (2 ^ 64 - 1) (sup { c.sup with scr := x }) ∧
       unit 0x200 (2 ^ 30 - 1) (hyp { c.hyp with tvec := x.setWidth 32 }) ∧ unit 0x201 (2 ^ 32 - 1) (hyp { c.hyp with epc := x.setWidth 32, mstep := none }) ∧
       unit 0x202 (2 ^ 10 - 1) (hyp { c.hyp with cause := x.setWidth 32 }) ∧ unit 0x203 (2 ^ 32 - 1) (hyp { c.hyp with em := x.setWidth 32 }) ∧
       unit 0x206 (2 ^ 64 - 1) (hyp { c.hyp with scr := x }) ∧
       tenant 0x107 (2 ^ 52 - 2 ^ 12) { v with sptr := x } ∧ tenant 0x108 (2 ^ 52 - 2 ^ 12) { v with plnext := x } ∧
       tenant 0x109 (2 ^ 52 - 2 ^ 12) { v with plend := x } ∧ tenant 0x207 (2 ^ 52 - 2 ^ 12) { v with hptr := x } ∧
       tenant 0x208 (2 ^ 64 - 1) { v with toff := x } ∧ tenant 0x209 (2 ^ 64 - 1) { v with tscale := x }) ∧
  (∀ (w nxt : Word), fMaj w = 0x3F →
     let n := (fld w 4 12).toNat
     let assigned := n ≤ 7 ∨ 0x010 ≤ n ∧ n ≤ 0x02F ∨ 0x100 ≤ n ∧ n ≤ 0x109 ∨ 0x200 ≤ n ∧ n ≤ 0x20B
     let readOnly := 0x001 ≤ n ∧ n ≤ 0x007 ∨ 0x010 ≤ n ∧ n ≤ 0x02F ∨ n = 0x104 ∨ n = 0x105 ∨ n = 0x204 ∨ n = 0x205 ∨ n = 0x20A ∨ n = 0x20B
     (fld w 0 4 = 2#4 ∨ fld w 0 4 = 3#4 → ¬ assigned → decode .cast w nxt = .error .reserved) ∧
     (fld w 0 4 = 3#4 → readOnly → decode .cast w nxt = .error .reserved))

/-- R250, R251, R255, R256, R299, R300 and R403: TIME, PERFR and FREC answer a scalar: FREC the one record of a whole-path fault of the
path's level, else the record of a lane whose bit is set in the level's park register, else 0. UNPARK clears bits of that register. -/
def Obligations.TimeCountersRecords : Prop :=
  ∀ (s : State) (c : Ctx) (v : Vdi) (d a b : Reg), s.issuing c → s.vdis.find (s.vdiOf s.unit) = some v →
    let x := c.rdS s.issue a
    let y := c.rdS s.issue b
    let answers := fun (i : Instr) (r : Dword) => s.givesScalar c i 1 d r (s.here c).cf
    let plvl := (s.here c).plvl
    let park := if plvl = 2#2 then c.hyp.park else c.sup.park
    answers (.time d) (BitVec.ofInt 64 (v.toff.toInt + ((v.tscale.toNat * s.dt.toNat / 2 ^ 32 : Nat) : Int))) ∧
    (x.toNat ≤ 7 ∨ 16 ≤ x.toNat ∧ x.toNat ≤ 40 → answers (.perfr d a) ((v.perf.find x.toNat).getD 0)) ∧
    (x.toNat = 48 → answers (.perfr d a) (BitVec.ofNat 64
      (((List.range 25).map (fun n => Config.energyCoefficient (16 + n) * ((v.perf.find (16 + n)).getD 0).toNat)).sum / 2 ^ 32))) ∧
    (x.toNat = 49 → answers (.perfr d a) (BitVec.ofInt 64 v.timeBudget)) ∧ (x.toNat = 50 → answers (.perfr d a) (BitVec.ofInt 64 v.energyBudget)) ∧
    (8 ≤ x.toNat ∧ x.toNat ≤ 15 ∨ 41 ≤ x.toNat ∧ x.toNat ≤ 47 ∨ 51 ≤ x.toNat → answers (.perfr d a) 0) ∧
    (32 ≤ x.toNat ∨ 4 ≤ y.toNat → answers (.frec d a b) 0) ∧
    (x.toNat < 32 → y.toNat < 4 →
      (∀ w, c.whole.find? (fun w => decide (w.1 = plvl.toNat)) = some w → answers (.frec d a b) (w.2.getD y.toNat 0)) ∧
      ((∀ w ∈ c.whole, w.1 ≠ plvl.toNat) → (∀ p ∈ c.parked, ∀ q ∈ c.parked, p.level = q.level → p.lane = q.lane → p = q) →
        ∀ p ∈ c.parked, p.level = plvl.toNat → p.lane = x.toNat → park.getLsbD p.lane = true →
        answers (.frec d a b) ([p.rec0, p.rec1, p.rec2, p.rec3].getD y.toNat 0)) ∧
      ((∀ w ∈ c.whole, w.1 ≠ plvl.toNat) → park.getLsbD x.toNat = false ∨ (∀ p ∈ c.parked, p.level ≠ plvl.toNat ∨ p.lane ≠ x.toNat) →
        answers (.frec d a b) 0)) ∧
    (plvl = 1#2 → exec (.unpark a) s = .next (s.setCtx s.unit { c with sup := { c.sup with park := c.sup.park &&& ~~~ (x.setWidth 32) } })) ∧
    (plvl = 2#2 → exec (.unpark a) s = .next (s.setCtx s.unit { c with hyp := { c.hyp with park := c.hyp.park &&& ~~~ (x.setWidth 32) } }))

/-- R124, R143 and R252: the TLBINV words drop the cached translations of their tenant that they name, and no others, and end the LIMIT of
the translation registers of its casts that cover them; they hold their path while an access translated before them is unperformed. -/
def Obligations.TranslationInvalidate : Prop :=
  ∀ (s : State) (c : Ctx) (a : Reg), s.issuing c → s.cur.vals = none → (s.here c).held = none →
    let v := s.vdiOf s.unit
    let x := c.rdS s.issue a
    let drops := fun (i : Instr) (vals : List Dword) (which : Tlb → Prop) (cut : Tx → Bool) => ∃ u,
      (∀ e, e ∈ u.tlb ↔ e ∈ s.tlb ∧ ¬ (e.vdi = v ∧ which e)) ∧ u = { s with tlb := u.tlb, ctxs := u.ctxs } ∧
      (∀ w c0, s.ctxs.find w = some c0 → ∃ c', u.ctxs.find w = some c' ∧ c' = { c0 with tx := c'.tx } ∧
        ∀ k : Nat, c'.tx[k]? = (c0.tx[k]?).map (fun y => if s.vdiOf w = v ∧ cut y = true then { y with limit := 0 } else y)) ∧
      (s.translatedPending v = false → exec i s = .next u) ∧
      (s.translatedPending v = true → ∃ c1, u.issuing c1 ∧ s.holds c1 i u vals false)
    let guest := fun (e : Tlb) => ∃ l, e.two = some l ∧ l.base ≤ x.toNat ∧ x.toNat < l.base + l.size
    let page := fun (y : Tx) => decide (y.page.toNat ≤ x.toNat % 2 ^ 57) && decide (x.toNat % 2 ^ 57 < y.page.toNat + y.pageSize)
    drops (.tlbinv a) [x] (fun e => e.one.base ≤ x.toNat % 2 ^ 57 ∧ x.toNat % 2 ^ 57 < e.one.base + e.one.size) page ∧
    drops (.tlbinvS2 a) [x] guest (fun _ => true) ∧ drops .tlbinvAll [] (fun _ => True) (fun _ => true) ∧
    drops .tlbinvS2All [] (fun e => e.two.isSome = true) (fun _ => true)

/-- R207, R253, R254, R257, R258 and R259: MAPPG, MDEF and SMSG wait for their engine and then act: MAPPG answers an address
of the page that it has mapped, MDEF puts the record's macro into every quadrant of the troupe once no path is inside the macro, SMSG is a
release whose message joins its quadrant's queue; HALT stops the troupe. An operand that is refused traps, and a walk or a record that is
refused traps with no word of the group having an effect (R339).

R253, R254, R257 and R258: the engines of MAPPG and MDEF answer, and the word acts; a message is queued when its quadrant
holds fewer than sixteen.

That the group of MAPPG and MDEF waits for their engine's check is the model's choice of log entry 68. -/
def Obligations.SystemServices : Prop :=
  (∀ (s : State) (c : Ctx) (k : Nat) (t : Troupe) (v : Vdi) (d a b : Reg), s.issuing c → (s.here c).held = none → s.unit.kind = .cast →
       s.troupeOf s.unit = some (k, t) → s.troupes.find k = some t → s.vdis.find (s.vdiOf s.unit) = some v →
       let x := c.rdS s.issue a
       let y := c.rdS s.issue b
       let s1 := s.drainUnit s.unit
       let ready := fun (u : State) (kind : Instr) => u.later { kind := kind, unit := s.unit, id := s.cur.tag }
       let traps := fun (i : Instr) (cause : Nat) => ∀ l, s.handledAt c l → s.traps c i l cause (s.cur.word.setWidth 64) s.cur.pos false
       let late := fun (i : Instr) (cause : Nat) (up : Bool) => ∀ l, s.handledAt c l → (up = true → l = 2) → (s.here c).live = true → c.undo = [] →
         c.parked = [] → s.trapsLate s c i l cause
       let marks := fun (p : Dword) => (s.scratch.read (t.scratchAddr p.toNat)).toNat % 64
       let inside := fun (p : Dword) => p.toNat < 2 ^ 22 ∧ p.toNat % 8 = 0 ∧ 1 ≤ marks p ∧ marks p ≤ 32 ∧
         p.toNat + 0x88 + marks p ≤ t.quads.length * 2 ^ 20 ∧ p.toNat % 2 ^ 20 < 0xFF000 ∧ (p.toNat + 0x87 + marks p) % 2 ^ 20 < 0xFF000
       (s.cur.vals = none →
         (templateLegal y = true → canonical x.toNat = true → s.holds c (.mappg d a b) (ready s .mappgComplete) [x, y] true) ∧
         (templateLegal y = false → traps (.mappg d a b) 0x01) ∧
         (templateLegal y = true → canonical x.toNat = false → traps (.mappg d a b) 0x0B) ∧
         (x.toNat < 128 → inside y → s.holds c (.mdef a b) (ready s .mdefComplete) [x, y] true) ∧
         (128 ≤ x.toNat ∨ 2 ^ 22 ≤ y.toNat → traps (.mdef a b) 0x01) ∧
         (x.toNat < 128 → y.toNat < 2 ^ 22 → y.toNat % 8 ≠ 0 → traps (.mdef a b) 0x07) ∧
         (x.toNat < 128 → y.toNat < 2 ^ 22 → y.toNat % 8 = 0 → t.quads.length * 2 ^ 20 ≤ y.toNat ∨ 0xFF000 ≤ y.toNat % 2 ^ 20 →
           traps (.mdef a b) 0x08) ∧
         (∀ q, routeQuad s.unit.place.1 y = some q →
           (s1.priorDone s.unit s.cur.tag = true →
             s.holds c (.smsg a b) (ready { s1 with sending := s1.sending ++ [(s.unit, s.cur.tag, q, x)] } .smsgDeliver) [x, y] true) ∧
           (s1.priorDone s.unit s.cur.tag = false → s.holds c (.smsg a b) s1 [x, y] false)) ∧
         (routeQuad s.unit.place.1 y = none → traps (.smsg a b) 0x0A)) ∧
       (∀ va tm j, s.cur.vals = some [va, tm, j] → templateLegal tm = true → canonical va.toNat = true →
         let answer := s.mapPage (s.vdiOf s.unit) v (va.toNat % 2 ^ 57) (tm.toNat / 2 ^ 60 % 8) (tm.toNat / 2 % 16)
         (∀ s2 r, answer = .value s2 r →
           ∃ u c', exec (.mappg d a b) s = .next u ∧ u.ctxs.find s.unit = some c' ∧ c.ScalarResult c' s.issue 1 d r (s.here c).cf ∧ u.mem = s2.mem ∧
             u.vdis = s2.vdis) ∧
         (∀ e, answer = .trap e → late (.mappg d a b) e.cause.code (decide (e.cause = .stage2Fault)))) ∧
       (∀ m p j, s.cur.vals = some [m, p, j] → m.toNat < 128 → inside p →
         let r := s.scratch.bytes (t.scratchAddr p.toNat) 0xA8
         (∀ mc, macroRecord r = some mc → s.insideMacro t m.toNat = false →
           ∃ u z, exec (.mdef a b) s = .next u ∧ (∀ q ∈ t.quads, (u.quad (quadKey t.core q)).macros.find m.toNat = some mc) ∧
             u.ctxs = s.ctxs.put s.unit { c with undo := z } ∧ u.mem = s.mem ∧ u.scratch = s.scratch) ∧
         (∀ mc, macroRecord r = some mc → s.insideMacro t m.toNat = true →
           s.holds c (.mdef a b) s ([m, p, j] ++ (List.range 21).map (recWord r)) false) ∧
         (macroRecord r = none → late (.mdef a b) 0x01 false)) ∧
       (∃ u t', exec .halt s = .next u ∧ u.troupes.find k = some t' ∧ t' = { t with stopped := true } ∧ u = { s with troupes := u.troupes, points := u.points } ∧
         (∀ p ∈ u.points, p.slot = t.slot → p.point = t.point → p.phase = .halted s.unit s.cur.pos s.cur.word) ∧
         ∀ p, p.slot ≠ t.slot ∨ p.point ≠ t.point → (p ∈ u.points ↔ p ∈ s.points))) ∧
  (∀ (s : State) (c : Ctx) (h : Held), s.ctxs.find s.ev.unit = some c → c.a.held = some h → c.a.also = [] → h.asleep = true → h.tag = s.ev.id →
       let awake := fun (i : Instr) => ∃ u c', exec i s = .next u ∧ u.ctxs.find s.ev.unit = some c' ∧
         c'.a.held = some { h with asleep := false, vals := h.vals ++ [1] } ∧ c'.s = c.s ∧ c'.v = c.v ∧ u.mem = s.mem
       awake .mappgComplete ∧ awake .mdefComplete ∧
       (∀ k m, s.sending = [(s.ev.unit, h.tag, k, m)] → (s.quad k).msgs.length < 16 →
         ∃ u c', exec .smsgDeliver s = .next u ∧ (u.quad k).msgs = (s.quad k).msgs ++ [(m, s.ev.unit)] ∧ u.sending = [] ∧
           u.ctxs.find s.ev.unit = some c' ∧ c'.a.held = none ∧ c'.s = c.s ∧ c'.v = c.v ∧ u.mem = s.mem) ∧
         (∀ k m, s.sending = [(s.ev.unit, h.tag, k, m)] → 16 ≤ (s.quad k).msgs.length → exec .smsgDeliver s = .next (s.later s.ev)))

/-! ### Stagehands (R260 to R271) -/

/-- R260, R261 and R262: the standard instructions of a stagehand. x0 reads as zero and discards what is written; loads and stores
of the data store lie at 0x10000, and those of the troupe's scratchpad at 0x400000; a misaligned access, one outside both, EBREAK, an
illegal instruction, an absent CSR and a write of mhartid stop the point with a record of KIND 3. A whole word that is stored loses its
poison.

The results of the instructions, the CSR numbers and the stop at a write of mhartid are the model's reading of RISC-V, PRESUMED
in log entry 49; R260 to R262 do not give them. -/
def Obligations.StagehandStandard : Prop :=
  ∀ (s : State) (h : Hand) (k : Nat) (t : Troupe) (comp : Bool) (rd r1 r2 : BitVec 5) (imm : Word), s.hands.find s.unit = some h →
    s.troupeOf s.unit = some (k, t) →
    let len : Nat := if comp then 2 else 4
    let becomes := fun (i : Rv) (g : Hand) => exec (.stagehandInstruction i comp) s = .next { s with hands := s.hands.put s.unit g }
    let next := fun (g : Hand) => { g with pc := h.pc + BitVec.ofNat 32 len, minstret := h.minstret + 1, held := none, asleep := false,
                                            readyAt := s.cycle + 1 }
    let jumps := fun (g : Hand) (p : Word) => { next g with pc := p }
    let a := h.reg r1
    let b := h.reg r2
    let alu := fun (o : RvAlu) (y : Word) => match o with
      | .add => a + y | .sub => a - y | .xor => a ^^^ y | .or => a ||| y | .and => a &&& y
      | .sll => BitVec.ofNat 32 (a.toNat * 2 ^ (y.toNat % 32)) | .srl => BitVec.ofNat 32 (a.toNat / 2 ^ (y.toNat % 32))
      | .sra => BitVec.ofInt 32 (a.toInt / 2 ^ (y.toNat % 32))
      | .slt => if a.toInt < y.toInt then 1 else 0 | .sltu => if a.toNat < y.toNat then 1 else 0
    let cond := fun (o : RvBr) => match o with
      | .beq => a = b | .bne => a ≠ b | .blt => a.toInt < b.toInt | .bge => b.toInt ≤ a.toInt | .bltu => a.toNat < b.toNat | .bgeu => b.toNat ≤ a.toNat
    let size := fun (o : RvLd) => match o with | .lb => 1 | .lbu => 1 | .lh => 2 | .lhu => 2 | .lw => 4
    let width := fun (o : RvSt) => match o with | .sb => 1 | .sh => 2 | .sw => 4
    let off := (a + imm).toNat - 0x10000
    let at_ := t.scratchAddr ((a + imm).toNat - 0x400000)
    let stops := fun (i : Rv) (cause : Nat) => ∀ p v, s.pointOf t = some p → s.vdis.find p.vdi = some v → v.fltail - v.flack ≠ 64 →
      ∃ u w r, exec (.stagehandInstruction i comp) s = .next u ∧ (∀ x ∈ u.points, x.slot ≠ p.slot ∨ x.point ≠ p.point) ∧
        u.vdis.find p.vdi = some w ∧ w.fltail = v.fltail + 1 ∧ w.log.find ((v.fltail + 1).toNat % 64) = some r ∧
        r.w0.toNat / 2 ^ 48 = 3 * 256 + cause ∧ r.pos = h.pc.setWidth 64 ∧ r.info = s.cur.word.setWidth 64
    let inData := fun (n : Nat) => 0x10000 ≤ (a + imm).toNat ∧ (a + imm).toNat + n ≤ 0x14000
    let inScratch := fun (n : Nat) => 0x400000 ≤ (a + imm).toNat ∧ (a + imm).toNat - 0x400000 + n ≤ t.quads.length * 2 ^ 20 ∧
      (a + imm).toNat + n ≤ 0x800000 ∧ ((a + imm).toNat - 0x400000) % 2 ^ 20 < 0xFF000
    h.reg 0 = 0 ∧ (∀ x, h.setReg 0 x = h) ∧
    becomes (.lui rd imm) (next (h.setReg rd imm)) ∧ becomes (.auipc rd imm) (next (h.setReg rd (h.pc + imm))) ∧
    becomes (.jal rd imm) (jumps (h.setReg rd (h.pc + BitVec.ofNat 32 len)) (h.pc + imm)) ∧
    becomes (.jalr rd r1 imm) (jumps (h.setReg rd (h.pc + BitVec.ofNat 32 len)) ((a + imm) &&& 0xFFFFFFFE#32)) ∧
    (∀ o, cond o → becomes (.br o r1 r2 imm) (jumps h (h.pc + imm))) ∧ (∀ o, ¬ cond o → becomes (.br o r1 r2 imm) (next h)) ∧
    (∀ o, becomes (.opi o rd r1 imm) (next (h.setReg rd (alu o imm))) ∧ becomes (.op o rd r1 r2) (next (h.setReg rd (alu o b)))) ∧
    becomes (.md .mul rd r1 r2) (next (h.setReg rd (a * b))) ∧
    becomes (.md .mulh rd r1 r2) (next (h.setReg rd (BitVec.ofInt 32 (a.toInt * b.toInt / 2 ^ 32)))) ∧
    becomes (.md .mulhsu rd r1 r2) (next (h.setReg rd (BitVec.ofInt 32 (a.toInt * b.toNat / 2 ^ 32)))) ∧
    becomes (.md .mulhu rd r1 r2) (next (h.setReg rd (BitVec.ofNat 32 (a.toNat * b.toNat / 2 ^ 32)))) ∧
    (b = 0#32 → becomes (.md .div rd r1 r2) (next (h.setReg rd 0xFFFFFFFF)) ∧ becomes (.md .divu rd r1 r2) (next (h.setReg rd 0xFFFFFFFF)) ∧
      becomes (.md .rem rd r1 r2) (next (h.setReg rd a)) ∧ becomes (.md .remu rd r1 r2) (next (h.setReg rd a))) ∧
    (b ≠ 0#32 → becomes (.md .div rd r1 r2) (next (h.setReg rd (BitVec.ofInt 32 (a.toInt.tdiv b.toInt)))) ∧
      becomes (.md .divu rd r1 r2) (next (h.setReg rd (BitVec.ofNat 32 (a.toNat / b.toNat)))) ∧
      becomes (.md .rem rd r1 r2) (next (h.setReg rd (BitVec.ofInt 32 (a.toInt.tmod b.toInt)))) ∧
      becomes (.md .remu rd r1 r2) (next (h.setReg rd (BitVec.ofNat 32 (a.toNat % b.toNat))))) ∧
    becomes .fenceI (next h) ∧ (s.handQuiet s.unit = true → becomes .fence (next h)) ∧
    (s.handQuiet s.unit = false → becomes .fence
      { h with held := some (.stagehandInstruction .fence comp), asleep := false, tag := s.cur.tag, readyAt := s.cycle + 1 }) ∧
    (∀ o, inData (size o) → (a + imm).toNat % size o = 0 → off / 4 ∉ h.poison →
      let raw := leNat (h.data.bytes off (size o))
      becomes (.ld o rd r1 imm) (next (h.setReg rd (match o with
        | .lb => (BitVec.ofNat 8 raw).signExtend 32 | .lh => (BitVec.ofNat 16 raw).signExtend 32 | _ => BitVec.ofNat 32 raw)))) ∧
    (∀ o, inData (width o) → (a + imm).toNat % width o = 0 →
      becomes (.st o r1 r2 imm) (next { h with data := h.data.putBytes off (leBytes (width o) b.toNat),
                                               poison := if o = .sw then h.poison.filter (fun x => x ≠ off / 4) else h.poison })) ∧
    (∀ o, inScratch (width o) → (a + imm).toNat % width o = 0 → at_ / 2 ^ 20 ∉ s.stopped →
      exec (.stagehandInstruction (.st o r1 r2 imm) comp) s = .next
        { s with scratch := s.scratch.putBytes at_ (leBytes (width o) b.toNat),
                 scratchPoison := if o = .sw then s.scratchPoison.filter (fun x => x ≠ at_ / 4) else s.scratchPoison,
                 hands := s.hands.put s.unit (next h) }) ∧
    (∀ o, inScratch (size o) → (a + imm).toNat % size o = 0 → at_ / 2 ^ 20 ∈ s.stopped →
      becomes (.ld o rd r1 imm) { h with readyAt := s.cycle + 1 }) ∧
    (∀ o, inScratch (width o) → (a + imm).toNat % width o = 0 → at_ / 2 ^ 20 ∈ s.stopped →
      becomes (.st o r1 r2 imm) { h with readyAt := s.cycle + 1 }) ∧
    (∀ o, inScratch (size o) → (a + imm).toNat % size o = 0 → at_ / 2 ^ 20 ∉ s.stopped → (∀ j, j < size o → (at_ + j) / 4 ∉ s.scratchPoison) →
      let raw := leNat (s.scratch.bytes at_ (size o))
      ∃ g, exec (.stagehandInstruction (.ld o rd r1 imm) comp) s = .next { s with hands := s.hands.put s.unit g, fresh := s.fresh + 1 } ∧
        g = { next (h.setReg rd (match o with
          | .lb => (BitVec.ofNat 8 raw).signExtend 32 | .lh => (BitVec.ofNat 16 raw).signExtend 32 | _ => BitVec.ofNat 32 raw)) with readyAt := g.readyAt } ∧
        s.cycle + 1 ≤ g.readyAt) ∧
    (∀ o, ((a + imm).toNat % size o ≠ 0 → stops (.ld o rd r1 imm) 0x07) ∧
      ((a + imm).toNat % size o = 0 → ¬ inData (size o) → ¬ inScratch (size o) → stops (.ld o rd r1 imm) 0x08)) ∧
    (∀ o, ((a + imm).toNat % width o ≠ 0 → stops (.st o r1 r2 imm) 0x07) ∧
      ((a + imm).toNat % width o = 0 → ¬ inData (width o) → ¬ inScratch (width o) → stops (.st o r1 r2 imm) 0x08)) ∧
    (∀ (o : RvCsr) (n : BitVec 12),
      let old := fun (x : Word) => h.csr (hartId t s.unit) n.toNat = some x
      let given := fun (x : Word) => match o with
        | .rw => a | .rs => x ||| a | .rc => x &&& ~~~ a
        | .rwi => r1.setWidth 32 | .rsi => x ||| r1.setWidth 32 | .rci => x &&& ~~~ (r1.setWidth 32)
      let writes := o = .rw ∨ o = .rwi ∨ r1 ≠ 0#5
      (∀ x, old x → ¬ writes → becomes (.csr o rd r1 n) (next (h.setReg rd x))) ∧
      (∀ x, old x → writes → n ≠ 0xF14#12 → ∃ g, becomes (.csr o rd r1 n) g ∧ g.csr (hartId t s.unit) n.toNat = some (given x) ∧
        g = { next (h.setReg rd x) with mcycle := g.mcycle, minstret := g.minstret }) ∧
      (writes → n = 0xF14#12 → stops (.csr o rd r1 n) 0x01) ∧ ((∀ x, ¬ old x) → stops (.csr o rd r1 n) 0x01)) ∧
    h.csr (hartId t s.unit) 0xF14 = some (hartId t s.unit) ∧ h.csr (hartId t s.unit) 0xB00 = some (h.mcycle.setWidth 32) ∧
    h.csr (hartId t s.unit) 0xB80 = some (h.mcycle.extractLsb' 32 32) ∧ h.csr (hartId t s.unit) 0xB02 = some (h.minstret.setWidth 32) ∧
    h.csr (hartId t s.unit) 0xB82 = some (h.minstret.extractLsb' 32 32) ∧ stops .ebreak 0x14 ∧ stops .illegal 0x01

/-- R120, R217 and R263 to R271: the Xstage instructions: TCOPY hands a tile to its engine, which the copy counter counts, and stays until
its translations have been gone through; XH.SET writes one field of a handle; XWAIT and XFENCE wait; XBIN and XSEM reach the Binning
Engine and the semaphores; the ring instructions act at a ring of the troupe in the order in which they reach it.

R359: the translation fault of a TCOPY goes to Proscenium with its record, and the operation starts again once it is repaired; any
other cause stops the point.

That a TCOPY is first checked in all its rows is the model's choice of log entry 25. -/
def Obligations.StagehandExtension : Prop :=
  (∀ (s : State) (h : Hand) (k : Nat) (t : Troupe) (v : Vdi) (n : BitVec 4) (f : BitVec 3) (e : BitVec 2) (b a : BitVec 5), s.hands.find s.unit = some h →
    s.troupeOf s.unit = some (k, t) → s.troupes.find k = some t → s.vdis.find (s.vdiOf s.unit) = some v →
    let next := fun (g : Hand) => { g with pc := h.pc + 4, minstret := h.minstret + 1, held := none, asleep := false, readyAt := s.cycle + 1 }
    let becomes := fun (i : Instr) (g : Hand) => exec i s = .next { s with hands := s.hands.put s.unit g }
    let retries := fun (i : Instr) => { h with held := some i, asleep := false, tag := s.cur.tag, readyAt := s.cycle + 1 }
    let stalls := fun (i : Instr) => becomes i (retries i)
    let waits := fun (i : Instr) (P : State → Prop) => ∃ u, exec i s = .next u ∧ P u ∧
      u.hands = s.hands.put s.unit { h with held := some i, asleep := true, tag := s.cur.stamp, readyAt := s.cycle + 1 }
    let x := h.reg a
    let y := h.reg b
    let at_ := y.toNat - 0x10000
    let origin := h.data.dword at_
    let extent := h.data.dword (at_ + 8)
    let hd := h.h[n.toNat]?.getD (.replicate 8 0)
    let fits := s.counter s.unit .copy < 63 ∧ 0x10000 ≤ y.toNat ∧ y.toNat + 16 ≤ 0x14000 ∧ y.toNat % 8 = 0 ∧ (∀ j, j < 4 → at_ / 4 + j ∉ h.poison) ∧
      (∀ j, j < 8 → 0x2000 + 8 * n.toNat + j ∉ h.poison) ∧ hLegal hd = true ∧
      tileFits hd origin extent = true ∧ x.toNat % 64 = 0 ∧ t.regionBad x.toNat (if (extentOf hd extent).contains 0 then 0
        else tileBytes (elemWidth (hFmt hd)) (hSpitch hd) (extentOf hd extent)) = false
    let copies := fun (i : Instr) => waits i (fun u => ∃ o, u.fars = s.fars ++ [o] ∧ o.instr = i ∧ o.cls = .copy ∧ o.unit = s.unit ∧
      o.tile = hd.toList ++ [origin, extent, BitVec.ofNat 64 (t.scratchAddr x.toNat)] ∧
      u.counter s.unit .copy = s.counter s.unit .copy + 1 ∧ u.mem = s.mem ∧ u.scratch = s.scratch)
    let r := t.rings[n.toNat]?.getD Ring.zero
    let ring := fun (o : RingOp) (i : Instr) (P : BitVec 16 → Hand) => s.syncBad s.unit n.toNat = false →
      (∀ q z, s.handQueued i = false → r.apply (ringKind s.unit) o = .done q z → exec i s = .next
        { s with troupes := s.troupes.put k { t with rings := t.rings.setIfInBounds n.toNat q }, hands := s.hands.put s.unit (next (P z)) }) ∧
      (∀ q z, s.handQueued i = true → r.apply (ringKind s.unit) o = .done q z → stalls i) ∧
      (r.apply (ringKind s.unit) o = .wait → stalls i) ∧
      (r.apply (ringKind s.unit) o = .misuse → ∀ p, s.pointOf t = some p → ∃ u, exec i s = .next u ∧ ∀ q ∈ u.points, q.slot ≠ p.slot ∨ q.point ≠ p.point)
    let sem := v.img.semBase + x.toNat
    let value := ((s.sems.find sem).getD 0).toNat
    (fits → copies (.tcopyIn n b a)) ∧ (fits → hDense hd = true → copies (.tcopyOut n b a)) ∧
    (63 ≤ s.counter s.unit .copy → stalls (.tcopyIn n b a) ∧ stalls (.tcopyOut n b a) ∧ stalls (.xbin b a)) ∧
    (∃ g, becomes (.xhSet f n b a) (next g) ∧ g = { h with h := g.h, poison := g.poison } ∧
      ∀ j m, j < 16 → m < 8 → (g.h[j]?.getD (.replicate 8 0))[m]?.getD 0 =
        if j = n.toNat ∧ m = f.toNat then y ++ x else (h.h[j]?.getD (.replicate 8 0))[m]?.getD 0) ∧
    (s.counter s.unit .copy ≤ x.toNat → becomes (.xwait a) (next h)) ∧ (x.toNat < s.counter s.unit .copy → stalls (.xwait a)) ∧
    (s.handQuiet s.unit = true → exec (.xfence e) s = .next
      { (if 2 ≤ e.toNat then s.drainUnit s.unit else s) with hands := s.hands.put s.unit (next h) }) ∧
    (s.handQuiet s.unit = false → stalls (.xfence e)) ∧
    (s.counter s.unit .copy < 63 → x.toNat < v.img.binShare → ∃ u o, exec (.xbin b a) s = .next u ∧ u.fars = s.fars ++ [o] ∧ o.cls = .copy ∧
      o.data = [y] ∧ o.va = [x.setWidth 64] ∧ u.hands = s.hands.put s.unit (next h) ∧ u.mem = s.mem ∧ u.bins = s.bins) ∧
    (x.toNat < v.img.semShare → s.handQuiet s.unit = true → waits (.xsemAdd b a) (fun u => ∃ j ev, u.due = s.due ++ [(j, ev)] ∧
      ev.kind = .semaphoreAddAcknowledge ∧ ev.a = sem ∧ ev.dword = y.setWidth 64 ∧ ev.id = s.cur.stamp ∧ u.sems = s.sems ∧
      u.mem = (s.drainUnit s.unit).mem)) ∧
    (x.toNat < v.img.semShare → s.handQuiet s.unit = false → stalls (.xsemAdd b a)) ∧
    (x.toNat < v.img.semShare → y.toNat ≤ value → becomes (.xsemWait b a) (next h)) ∧
    (x.toNat < v.img.semShare → value < y.toNat → waits (.xsemWait b a) (fun u => u.sems = s.sems)) ∧
    becomes .xexit { h with exited := true, held := none, asleep := false, minstret := h.minstret + 1 } ∧
    ring .ticket (.rngTkt n a) (fun z => h.setReg a (z.setWidth 32)) ∧ ring (.fill (x.setWidth 16)) (.rngPut n a) (fun _ => h) ∧
    ring .take (.rngGet n a) (fun z => h.setReg a (z.setWidth 32)) ∧ ring .free (.rngRel n) (fun _ => h)) ∧
  (∀ (s : State) (o : FarOp), s.fars.find? (fun o => decide (o.id = s.ev.id)) = some o →
    let v := s.vdiOf o.unit
    let cause := engineCause s.ev.b
    let seen := s.report v cause (faultRecord { o with va := [BitVec.ofNat 64 s.ev.a] } 0 { cause := cause, gpa := s.ev.c })
    (∀ w, seen.repairFault v s.ev.a s.ev.b s.ev.c = some w →
      ∃ u j ev, exec .stagehandTranslationFault s = .next u ∧ u.due = w.due ++ [(j, ev)] ∧ ev.id = o.id ∧
        ev.kind = (if o.cls = .fetch then .handleFetchComplete else .tileCopyComplete) ∧ u.mem = w.mem ∧ u.records = w.records ∧
        ∀ g ∈ u.fars, g.id = o.id → g.rows = 0 ∧ g.checked = false) ∧
    (seen.repairFault v s.ev.a s.ev.b s.ev.c = none → ∀ k t p, s.troupeOf o.unit = some (k, t) → s.pointOf t = some p →
      ∃ u, exec .stagehandTranslationFault s = .next u ∧ ∀ q ∈ u.points, q.slot ≠ p.slot ∨ q.point ≠ p.point))

/-! ### The secure element (R319 to R328, R336, R337, R376 to R379) -/

/-- R319, R320, R378 and R379: a reset of the module leaves no tenant, starts device time at 0 and keeps the flash. A valid
image boots, with the measurement registers extended in order; an image that fails its check, and a fourth boot after three
that failed, end in recovery mode, in which only register 0 has been extended. Proscenium's silence resets the module too.

R378: in recovery mode a command with its key starts, one at a time, and any other is ignored; a command that is done has
changed the flash as it says, and fails at an offset that is not aligned to its size. A reset after a valid check clears the
count of failed boots.

That entry k of the component table extends measurement register 2 + k, in that order, is the model's choice of log entry 40. -/
def Obligations.BootAndRecovery : Prop :=
  (∀ (s : State),
       let x := s.secure
       let header := s.flash.mem.bytes 0 s.flash.headerLength
       let zero : List Byte := List.replicate 48 0
       let rom := beBytes 48 Config.bootRomDigest.toNat
       let comp := fun (k : Nat) => beBytes 48 (Config.componentEntry header k).2.2.toNat
       let extends_ := fun (d : List Byte) => sha384 (zero ++ d)
       let digests := [rom, sha384 header, comp 0, comp 1, comp 2, comp 3, sha384 Config.bootConfiguration]
       let clean := fun (u : State) => u.vdis = [] ∧ u.troupes = [] ∧ u.nests = [] ∧ u.points = [] ∧ u.ctxs = [] ∧ u.dt = 0#64 ∧
         u.flash.mem = s.flash.mem ∧ u.hostMem = s.hostMem
       let boots := fun (i : Instr) => ∃ u, exec i s = .next u ∧ clean u ∧ u.secure.booted = true ∧ u.secure.recovery = false ∧
         u.secure.failedBoots = 0 ∧ u.secure.meas = digests.map extends_ ++ [zero]
       let recovers := fun (i : Instr) => ∃ u, exec i s = .next u ∧ clean u ∧ u.secure.booted = false ∧ u.secure.recovery = true ∧
         u.secure.meas = extends_ rom :: List.replicate 7 zero
       (x.failedBoots < 3 → s.flash.check = 0 → Config.bootReaches x.boots = true →
         boots .moduleReset ∧ (x.booted = true → boots .prosceniumTimeout)) ∧
       (s.flash.check ≠ 0 ∨ 3 ≤ x.failedBoots → recovers .moduleReset ∧ (x.booted = true → recovers .prosceniumTimeout)) ∧
       (x.booted = false → exec .prosceniumTimeout s = .next s) ∧
       (x.recovery = false → s.ev.a = 0xA5 → recovers .enterRecovery) ∧
       (x.recovery = true ∨ s.ev.a ≠ 0xA5 → exec .enterRecovery s = .next s)) ∧
  (∀ (s : State),
       let f := s.flash
       let o := f.off.toNat
       let allowed := s.secure.recovery = true ∧ s.ev.a = 0xA5 ∧ f.busy = false
       let starts := fun (i : Instr) (n : BitVec 4) => (¬ allowed → exec i s = .next s) ∧
         (allowed → ∃ j e, e.kind = .flashCommandComplete ∧
           exec i s = .next { s with flash := { f with cmd := n, busy := true }, due := s.due ++ [(j, e)], fresh := s.fresh + 1 })
       let ends := fun (P : Flash → Prop) => ∃ u, exec .flashCommandComplete s = .next u ∧ P u.flash ∧ u.flash.busy = false ∧ u.secure = s.secure ∧
         u.mem = s.mem ∧ u.hostMem = s.hostMem ∧ u.vdis = s.vdis
       f.mem.wf = true →
       starts .flashErase 1 ∧ starts .flashProgram 2 ∧ starts .flashVerify 3 ∧ starts .flashResetModule 4 ∧
       (f.busy = true → f.cmd = 1#4 → o % 0x10000 = 0 → ends (fun g => g.err = false ∧ g.verified = false ∧
         (∀ a, g.mem.read a = if o ≤ a ∧ a < o + 0x10000 then Config.erasedByte else f.mem.read a))) ∧
       (f.busy = true → f.cmd = 2#4 → o % 256 = 0 → ends (fun g => g.err = false ∧ g.verified = false ∧
         (∀ a, g.mem.read a = if o ≤ a ∧ a < o + 256 then f.buffer.read (a - o) else f.mem.read a))) ∧
       (f.busy = true → f.cmd = 1#4 ∧ o % 0x10000 ≠ 0 ∨ f.cmd = 2#4 ∧ o % 256 ≠ 0 → ends (fun g => g.err = true ∧ g.mem = f.mem)) ∧
       (f.busy = true → f.cmd = 3#4 → ends (fun g => g.res = BitVec.ofNat 8 f.check ∧ (g.verified = true ↔ f.check = 0) ∧ g.mem = f.mem)) ∧
       (f.busy = true → f.cmd = 4#4 → f.verified = true → f.check = 0 → Config.bootReaches s.secure.boots = true →
         ∃ u, exec .flashCommandComplete s = .next u ∧ u.secure.booted = true ∧ u.secure.failedBoots = 0 ∧ u.flash.mem = f.mem) ∧
       (f.busy = true → f.cmd = 4#4 → f.verified = false → 3 ≤ s.secure.failedBoots →
         ∃ u, exec .flashCommandComplete s = .next u ∧ u.secure.recovery = true ∧ u.flash.mem = f.mem))

/-- R321 and R322: the SPDM messages of the host, which is requester 0, and of the fabric. Each is answered when the requester's
connection has come to it, with the identity key's signature where it asks for one; any other is answered with an error, and the
connection stays as it is. In a session every message but GET_VERSION comes protected, and so does its answer.

The order of the requests and the error for one out of order are PRESUMED in log entry 41; the offer's mask, the protection of a
session's messages and the code of FINISH are the model's choice of log entry 76. -/
def Obligations.SpdmMessages : Prop :=
  ∀ (s : State),
    let x := s.secure
    let c := x.conn 0
    let chain := s.flash.certificates
    let nonce := s.ev.bytes.headD []
    let answers := fun (i : Instr) (reply : List Byte) (d : Conn) (used : Nat) =>
      exec i s = .next { s with secure := { x with reply := reply, conns := x.conns.put 0 d, ephemerals := x.ephemerals + used } }
    let gives := fun (i : Instr) (reply : List Byte) => answers i reply c 0
    let becomes := fun (i : Instr) (n : Nat) (p : Spdm) => answers i (Config.spdmResponse n []) { c with phase := p } 0
    let signed := fun (m : List Byte) => m ++ identitySign m
    let error := fun (i : Instr) => gives i (Config.spdmResponse 16 [])
    let ready := c.phase = .algorithms ∨ c.phase = .exchanged
    let open_ := c.phase ≠ .secured
    let k := ephemeralKey x.ephemerals
    answers .getVersion (Config.spdmResponse 0 []) { phase := .version } 0 ∧
    (c.phase = .version → becomes .getCapabilities 1 .capabilities) ∧
    (open_ → c.phase ≠ .version → error .getCapabilities) ∧
    (c.phase = .capabilities → s.ev.a % 16 = 15 → becomes .negotiateAlgorithms 2 .algorithms) ∧
    (open_ → c.phase ≠ .capabilities ∨ s.ev.a % 16 ≠ 15 → error .negotiateAlgorithms) ∧
    (ready → gives .getDigests (sha384 chain) ∧ gives .getCertificate ((chain.drop s.ev.a).take s.ev.b) ∧
      gives .challenge (signed (sha384 chain ++ nonce)) ∧
      (∀ b, s.measurementBlock s.ev.a = some b →
        gives .getMeasurements (signed (BitVec.ofNat 8 s.ev.a :: b ++ (if s.ev.a = 16 then x.encoreSig else []) ++ nonce))) ∧
      (s.measurementBlock s.ev.a = none → error .getMeasurements)) ∧
    (open_ → ¬ ready → error .getDigests ∧ error .getCertificate ∧ error .challenge ∧ error .getMeasurements) ∧
    (∀ n, 1 ≤ n → n ≤ 7 → s.measurementBlock n = some (x.meas.getD (n - 1) [])) ∧
    s.measurementBlock 16 = some (p384Public x.encoreKey) ∧ s.measurementBlock 17 = some (sha384 (x.meas.take 7).flatten) ∧
    (∀ v w, s.vdis.find v = some w → s.measurementBlock (32 + v) = some w.tmeas) ∧
    (c.phase = .algorithms → ∀ z, ecdhX k nonce = some z →
      answers .keyExchange (signed (p384Public k ++ nonce)) { phase := .exchanged, secret := z, peer := nonce } 1) ∧
    (open_ → c.phase ≠ .algorithms ∨ ecdhX k nonce = none → error .keyExchange) ∧
    (c.phase = .exchanged → nonce = Config.finishMac c.secret c.peer → becomes .finish 8 .secured) ∧
    (open_ → c.phase ≠ .exchanged ∨ nonce ≠ Config.finishMac c.secret c.peer → error .finish) ∧
    (open_ → error .endSession) ∧
    (c.phase = .secured →
      (∀ e ∈ ([(1, .getCapabilities), (2, .negotiateAlgorithms), (3, .getDigests), (4, .getCertificate), (5, .challenge), (6, .getMeasurements),
          (7, .keyExchange), (8, .finish), (9, .endSession)] : List (Nat × Instr)),
        (c.opens (s.ev.bytes.getD 1 []) nonce = false → error e.2) ∧
        (c.opens (s.ev.bytes.getD 1 []) nonce = true →
          let r := s.spdmAnswer e.1 { c with received := c.received + 1, sent := c.sent + 1 }
          answers e.2 (c.protect r.reply) r.conn r.used)) ∧
      (c.opens (s.ev.bytes.getD 1 []) nonce = true →
        answers .endSession (c.protect (Config.spdmResponse 9 [])) { phase := .algorithms } 0)) ∧
    (∀ f s1, s.ev.flit = some f → f.type = 7#4 → s.arrive s.ev.port f = (s1, true) →
      let t := s1.spdm s.ev.id (1 + f.src.toNat)
      ∃ u, exec .managementFlit s = .next u ∧ u.secure = t.secure ∧ u.mem = s1.mem ∧ t.secure.conns = s1.secure.conns.put (1 + f.src.toNat)
          (t.secure.conn (1 + f.src.toNat)) ∧
        (t.secure.reply ≠ [] → s1.fabric.sent.length < u.fabric.sent.length))

/-- R325 to R328, R336, R337, R376 and R377: a seal asks its target for a session where none is held, and with one whose report attests
the target it asks the counter authority for the next value, then writes the image and takes its saved points out of their nests; an
image that is presented is refused by reason, or asks the authority, and the authority's answer to that request opens it or refuses it;
silence for a second refuses it, and ends a seal. What the spec leaves open here is the model's choice: log entry 76 has the
answer codes 0 to 2, the protection of requests and answers by the session and the match of the sequence number, and log entry 39 the
session with the target, what its report holds, and that a seal ends after a second. -/
def Obligations.SealAndRestore : Prop :=
  ∀ (s s1 : State),
    let e := s.ev
    let bs := e.bytes.headD []
    let h := headerOf bs
    let asked := fun (x u : State) (message : List Byte) (n : BitVec 16) =>
      u.secure.authority = { x.secure.authority with sent := x.secure.authority.sent + 1 } ∧
      ∃ r f, u.fabric.queued = x.fabric.queued ++ [(r, f)] ∧ f.type = 6#4 ∧ f.payload = x.secure.authority.protect message ∧
        f.dst = BitVec.ofNat 20 Config.authorityEndpoint ∧ f.seq = n
    let refused := fun (t : State) (i : Instr) (counter reason : Nat) => ∃ u, exec i s = .next u ∧ u.secure.restore = none ∧
      u.secure.refusals = t.secure.refusals ++ [(reason, BitVec.ofNat 64 counter)] ∧ u.nests = t.nests ∧ u.mem = t.mem
    let came := ∃ f, e.flit = some f ∧ f.type = 6#4 ∧ s.arrive e.port f = (s1, true) ∧ s1.secure.authority.opens f.payload bs = true
    let heard : State := { s1 with secure := { s1.secure with authority := { s1.secure.authority with received := s1.secure.authority.received + 1 } } }
    let good := fun (x : State) (vi : Nat) (t : Target) => ∃ v, x.vdis.find vi = some v ∧ t.fwm ∈ v.img.policy ∧ sha384 (0x04#8 :: t.key) = t.dst ∧
      ecdsaVerify t.key (t.ek ++ t.fwm) t.sig = true
    let waiting : State → Nat → Seal := fun x vi =>
      { vdi := vi, points := e.points, dst := bs, ek := [], buf := e.b, sentAt := x.dt, seq := 0, attested := false }
    let b := fun (k : Nat) => e.bytes.getD k []
    (∀ vi v t, s.sealVdi e.points = some vi → s.vdis.find vi = some v → s.secure.sealing = none → s.secure.booted = true →
      s.secure.targets.find? (fun x => decide (x.dst = bs)) = some t →
      (good s vi t → ∃ u n, exec .sealRequest s = .next u ∧ asked s u (leBytes 8 v.img.tenant.toNat) n ∧ u.nests = s.nests ∧ u.mem = s.mem ∧
        u.secure.sealing = some { waiting s vi with ek := t.ek, seq := n, attested := true }) ∧
      (¬ good s vi t → exec .sealRequest s = .next s)) ∧
    (∀ vi v, s.sealVdi e.points = some vi → s.vdis.find vi = some v → s.secure.sealing = none → s.secure.booted = true →
      (∀ t ∈ s.secure.targets, t.dst ≠ bs) →
      ∃ u, exec .sealRequest s = .next u ∧ u.secure = { s.secure with sealing := some (waiting s vi) } ∧ u.nests = s.nests ∧ u.mem = s.mem) ∧
    (∀ f q v, e.flit = some f → f.type = 7#4 → s.arrive e.port f = (s1, true) → e.id = 16 → s1.secure.sealing = some q → q.attested = false →
      q.dst = b 0 → s1.vdis.find q.vdi = some v →
      let t : Target := { endpoint := f.src.toNat, dst := b 0, fwm := b 1, ek := b 2, key := b 3, sig := b 4 }
      ∃ u, exec .managementFlit s = .next u ∧ t ∈ u.secure.targets ∧ u.nests = s1.nests ∧ u.mem = s1.mem ∧
        (good s1 q.vdi t → ∃ n, asked s1 u (leBytes 8 v.img.tenant.toNat) n ∧
          u.secure.sealing = some { q with ek := b 2, sentAt := s1.dt, seq := n, attested := true }) ∧
        (¬ good s1 q.vdi t → u.secure.sealing = none)) ∧
    (∀ q ys v z, came → e.flag = true → s1.secure.sealing = some q → q.attested = true → q.seq.toNat = e.id → q.points.mapM s1.sealable = some ys →
      s1.vdis.find q.vdi = some v → ecdhX (ephemeralKey s1.secure.ephemerals) q.ek = some z →
      ∃ u, exec .counterAuthorityFlit s = .next u ∧ u.secure.sealing = none ∧ u.secure.ephemerals = s1.secure.ephemerals + 1 ∧
        u.secure.seals = s1.secure.seals ++ [q.points] ∧
        ∀ x ∈ q.points, ∀ m, u.nests.find x.1 = some m → x.2 ∈ m.gone ∧ ∀ y ∈ m.saved, y.point ≠ x.2) ∧
    (∀ q, came → e.flag = true → s1.secure.sealing = some q → q.attested = false ∨ q.seq.toNat ≠ e.id → exec .counterAuthorityFlit s = .next heard) ∧
    (∀ f, e.flit = some f → f.type = 6#4 → s.arrive e.port f = (s1, true) → s1.secure.authority.opens f.payload bs = false →
      exec .counterAuthorityFlit s = .next s1) ∧
    (s.secure.restore = none → s.secure.booted = true →
      (imageFormed bs = false → refused s .restoreImage h.counter 1) ∧
      (imageFormed bs = true → h.dst ≠ s.secure.identity → refused s .restoreImage h.counter 2) ∧
      (imageFormed bs = true → h.dst = s.secure.identity → s.tenantFor h = none → refused s .restoreImage h.counter 3) ∧
      (∀ v, imageFormed bs = true → h.dst = s.secure.identity → s.tenantFor h = some v →
        (h.dstek ≠ sha384 (0x04#8 :: p384Public s.secure.encoreKey) → refused s .restoreImage h.counter 8) ∧
        (h.dstek = sha384 (0x04#8 :: p384Public s.secure.encoreKey) →
          ∃ u n, exec .restoreImage s = .next u ∧ asked s u (leBytes 8 h.tenant ++ leBytes 8 h.counter) n ∧ u.nests = s.nests ∧ u.mem = s.mem ∧
            u.secure.restore = some { vdi := v, image := bs, sentAt := s.dt, seq := n }))) ∧
    (∀ r, s.secure.restore = some r → 1000000000 ≤ (s.dt - r.sentAt).toNat → refused s .authorityTimeout (headerOf r.image).counter 7) ∧
    (∀ q, s.secure.sealing = some q → s.secure.restore = none → 1000000000 ≤ (s.dt - q.sentAt).toNat →
      ∃ u, exec .authorityTimeout s = .next u ∧ u.secure = { s.secure with sealing := none } ∧ u.nests = s.nests ∧ u.mem = s.mem) ∧
    (∀ r, came → e.flag = false → s1.secure.restore = some r →
      let fails := heard.refuseRestore (some r.vdi) (headerOf r.image).counter 6
      (r.seq.toNat ≠ e.id → exec .counterAuthorityFlit s = .next heard) ∧
      (r.seq.toNat = e.id →
        (e.a = 1 → refused s1 .counterAuthorityFlit (headerOf r.image).counter 4) ∧
        (2 ≤ e.a → refused s1 .counterAuthorityFlit (headerOf r.image).counter 5) ∧
        (e.a = 0 → heard.openImage r = fails → refused s1 .counterAuthorityFlit (headerOf r.image).counter 6) ∧
        (e.a = 0 → heard.openImage r ≠ fails →
          ∃ u, exec .counterAuthorityFlit s = .next u ∧ u.secure.restore = none ∧ u.secure.refusals = s1.secure.refusals)))

/-! ### Tenants, pre-emption and the module (R286 to R302, R323, R329 to R333, R360, R363 to R365, R399, R405, R406) -/

/-- R286, R301, R323, R396 to R399, R405 and R406: a tenant is created on a free interface with a legal partition, from the object image that
its load brings; its quadrants are zeroed and hold its images, and its data stands where its pages are; a quadrant that is added is
zeroed; budgets fall with the placed quadrants and the energy, and rise at a slice, which also gives the quadrants back that the
time-slicer had reclaimed. That requester 0 is the time-slicer, and how a quadrant is withheld and handed from one partition to another
on every core of the rectangle, is the model's choice of log entry 75, and what a load does with a malformed image that of log entry
33. -/
def Obligations.TenantEvents : Prop :=
  ∀ (s : State),
    let e := s.ev
    let tenant := fun (i : Instr) (v w : Vdi) => s.vdis.find e.a = some v → exec i s = .next { s with vdis := s.vdis.put e.a w }
    let object := fun (m : TenantImage) (k : Nat) (bs : List Byte) => if bs = [] ∧ m.emptyObjects.contains k = false then [] else leBytes 8 bs.length ++ bs
    let loads := fun (m : TenantImage) => e.image.bind resolveImage = some m ∧ s.secure.booted = true ∧ m.vdi < 64 ∧ s.vdis.find m.vdi = none ∧
      s.partitionLegal m = true ∧ m.queues.length ≤ 16 ∧ m.policy.length ≤ 8 ∧ s.sharesLegal m = true
    let created := fun (m : TenantImage) (u : State) => ∃ v, u.vdis.find m.vdi = some v ∧ v.img = m ∧ v.toff = 0#64 ∧ v.tscale = 0x100000000#64 ∧
      (∃ cfg, cfg.length = 64 ∧ v.tmeas = sha384 (cfg ++ object m 0 m.code ++ object m 1 m.stagehandCode ++ object m 2 m.stagehandData)) ∧
      (∀ k q, v.queues.find k = some q → q.en = false ∧ q.qacc = 0#32 ∧ q.qdone = 0#32) ∧
      (∀ core ∈ v.cores, ∀ q ∈ m.quads, (∀ a, a < 2 ^ 20 → u.scratch.read (devScratch core q a) = 0#8) ∧
        ∃ h g, u.hands.find (.rigger core q) = some h ∧ u.hands.find (.striker core q) = some g ∧
          h = { Hand.zero with instrs := Memory.putBytes [] 0 m.stagehandCode, data := Memory.putBytes [] 0 m.stagehandData } ∧ g = h)
    (∀ m, loads m → ∃ u, exec .tenantLoad s = .next u ∧ (u = s ∨ created m u)) ∧
    (∀ m, loads m → m.data = [] → m.relocs = [] → ∃ u, exec .tenantLoad s = .next u ∧ created m u) ∧
    (∀ m va bs one two, loads m → m.data = [(va, bs)] → m.relocs = [] → va % 64 + bs.length ≤ 64 → s.mem.wf = true →
      let laid : State := { s with mem := m.memory.foldl (fun (x : Memory) (p : Nat × List Byte) => x.putBytes p.1 p.2) s.mem }
      let v := Vdi.create m (tenantMeasurement m)
      let ga := one.apply (va % 2 ^ 57)
      laid.stage1 v va = .ok one → laid.stage2 v ga = .ok two → laid.backed (two.apply ga) = true →
      ∃ u, exec .tenantLoad s = .next u ∧ created m u ∧
        ∀ a, u.mem.read a = if two.apply ga ≤ a ∧ a < two.apply ga + bs.length then bs.getD (a - two.apply ga) 0 else laid.mem.read a) ∧
    (∀ m x, e.image = some m → m.object ≠ [] → parseObject m.object = none ∨ parseObject m.object = some x ∧ x.relocValues m.sectVa x.relocs = none →
      exec .tenantLoad s = .next s) ∧
    (∀ v, s.vdis.find e.a = some v → s.mayGive e.a v e.b e.c = true →
      let cs := if v.quads.contains e.c then [e.b] else v.cores
      ∃ u w, exec .partitionAddQuadrant s = .next u ∧ u.vdis.find e.a = some w ∧
        w = { v with withheld := v.withheld.filter (fun k => !(cs.map (fun c => quadKey c e.c)).contains k.1),
                     quads := (List.range 4).filter (fun k => decide (k = e.c) || v.quads.contains k) } ∧ w.hasQuad e.b e.c = true ∧
        (∀ x y, x ≠ e.a → s.vdis.find x = some y → (∃ c ∈ cs, y.hasQuad c e.c = true) →
          ∃ z, u.vdis.find x = some z ∧ z.quads = y.quads.filter (fun k => k ≠ e.c)) ∧
        (∀ c ∈ cs, ∀ a, a < 2 ^ 20 → u.scratch.read (devScratch c e.c a) = 0#8) ∧ u.mem = s.mem) ∧
    (∀ v, s.vdis.find e.a = some v → s.mayGive e.a v e.b e.c = false → exec .partitionAddQuadrant s = .next s) ∧
    (∀ v, tenant .partitionFaultClear v { v with partFault := false }) ∧
    (∀ v, s.vdis.find e.a = some v → 0 ≤ e.time → 0 ≤ e.energy →
      ∃ u w, exec .sliceStart s = .next u ∧ u.vdis.find e.a = some w ∧ w.timeBudget = v.timeBudget + e.time ∧ w.energyBudget = v.energyBudget + e.energy ∧
        (∀ k ∈ w.withheld, k ∈ v.withheld ∧ k.2 ≠ 0) ∧ u.mem = s.mem ∧
        ((∀ x ∈ s.vdis, x.1 = e.a ∨ ∀ k ∈ x.2.withheld, k.2 ≠ 0) → u = { s with vdis := u.vdis } ∧ w.withheld = v.withheld.filter (fun k => k.2 ≠ 0))) ∧
    (∃ u, exec .budgetTick s = .next u ∧ ∀ v x, s.vdis.find v = some x → ∃ y, u.vdis.find v = some y ∧
      y.timeBudget = x.timeBudget - ((s.troupes.filter (fun t => decide (t.2.vdi = v))).map (fun t => t.2.quads.length)).sum ∧
      y.energyBudget = x.energyBudget - ((x.energy - x.charged : Nat) : Int))

/-- R288, R289, R290, R297 and R302: a request to pre-empt a point that runs takes a response with the least cost among those
that are fast enough, or the fastest; one for a point whose troupe has halted flushes it, and one for a troupe whose clock is stopped
waits; a drain that cannot meet a new bound is replaced; a drain that lasts twice its bound
ends in a save, or in a flush when no save area is free; the watchdog stops a point whose count has reached its limit.

That a request for a point whose troupe has halted always flushes it is the model's choice of log entry 34: R259 and R297 let
Proscenium flush it or end the tenant. That a request and a drain wait for a stopped clock is R332's, by log entry 77. -/
def Obligations.PreemptRequest : Prop :=
  ∀ (s : State) (p : Point) (n : Nest) (v : Vdi), s.evPoint = some p → s.nests.find p.slot = some n → s.vdis.find p.vdi = some v →
    let l := s.ev.b
    let es := s.estimates p
    let legal := 0 < l ∧ l < 2 ^ 32 ∧ ∀ t ∈ s.members p, ∀ q ∈ t.quads, quadKey t.core q ∉ s.stopped
    let here := fun (u : State) (P : Point → Prop) => ∃ q ∈ u.points, q.slot = p.slot ∧ q.point = p.point ∧ P q
    let gone := fun (u : State) => (∀ q ∈ u.points, q.slot ≠ p.slot ∨ q.point ≠ p.point) ∧
      ∃ m, u.nests.find p.slot = some m ∧ m.flushed = n.flushed ++ [(p.point, p.resume)]
    let takes := fun (r : Response) (u : State) => match r with
      | .drain => here u (fun q => q.phase = .draining l s.cycle)
      | .save => here u (fun q => q.phase = .saving l s.cycle) ∧ ∀ k ∈ p.members, ∀ t, u.troupes.find k = some t → t.stopped = true
      | .flush => gone u
    let chosen := fun (u : State) => ∃ x ∈ es, takes x.response u ∧
      ((∃ y ∈ es, y.latency ≤ l) → x.latency ≤ l ∧ ∀ y ∈ es, y.latency ≤ l → x.cost ≤ y.cost) ∧
      ((∀ y ∈ es, l < y.latency) → ∀ y ∈ es, x.latency ≤ y.latency)
    (∀ x ∈ es, (x.response = .drain → x.cost = 0) ∧ (x.response = .flush → x.latency = 256) ∧
      (x.response = .save → (∀ t ∈ s.members p, s.saveLatency t ≤ x.latency) ∧ x.cost = ((s.members p).map (fun t => 2 * s.saveLatency t)).sum)) ∧
    (legal → p.retireAt = none → p.phase = .running ∨ p.phase = .starting → ∃ u, exec .preemptRequest s = .next u ∧ chosen u) ∧
    (legal → p.retireAt ≠ none → p.phase = .running → ∃ u, exec .preemptRequest s = .next u ∧ takes .drain u) ∧
    (∀ l' c', legal → p.phase = .draining l' c' → (s.drainLatency p ≤ l → exec .preemptRequest s = .next s) ∧
      (l < s.drainLatency p → p.retireAt = none → ∃ u, exec .preemptRequest s = .next u ∧ chosen u)) ∧
    (∀ l' c', legal → p.phase = .saving l' c' → exec .preemptRequest s = .next s) ∧
    (legal → (∃ u' k w, p.phase = .halted u' k w) ∨ (∃ u' k w x, p.phase = .trapped u' k w x) →
      ∃ u, exec .preemptRequest s = .next u ∧ gone u ∧ u.mem = s.mem) ∧
    (l = 0 ∨ 2 ^ 32 ≤ l → exec .preemptRequest s = .next s) ∧
    (0 < l → l < 2 ^ 32 → (∃ t ∈ s.members p, ∃ q ∈ t.quads, quadKey t.core q ∈ s.stopped) →
      ∃ u j, exec .preemptRequest s = .next u ∧ u.due = s.due ++ [(j, s.ev)] ∧ u.mem = s.mem ∧ u.troupes = s.troupes ∧ u.nests = s.nests) ∧
    let stops := ∃ t ∈ s.members p, ∃ q ∈ t.quads, quadKey t.core q ∈ s.stopped
    (∀ l' c', p.phase = .draining l' c' → s.cycle < c' + 2 * l' ∨ p.retireAt ≠ none ∨ stops → exec .drainTimeout s = .next s) ∧
    (∀ l' c', p.phase = .draining l' c' → c' + 2 * l' ≤ s.cycle → p.retireAt = none → ¬ stops →
      ∃ u, exec .drainTimeout s = .next u ∧ (s.hasAreas p = true → here u (fun q => q.phase = .saving l' c')) ∧ (s.hasAreas p = false → gone u)) ∧
    (0 < v.wdlim → 65536 * v.wdlim ≤ p.watch →
      ∃ u m, exec .watchdogExpire s = .next u ∧ (∀ q ∈ u.points, q.slot ≠ p.slot ∨ q.point ≠ p.point) ∧ u.nests.find p.slot = some m ∧
        m.stopped = true ∧ m.flushed = n.flushed ∧ ∃ w, u.vdis.find p.vdi = some w ∧ (v.fltail - v.flack ≠ 64#32 →
          ∃ r, w.log.find ((v.fltail + 1).toNat % 64) = some r ∧ r.w0.toNat / 2 ^ 48 = 0x0416 ∧ r.info = BitVec.ofNat 64 p.watch))

/-- R291, R294, R328, R363 and R365: a save that is written leaves its point in the nest, to be restored; a save fault suspends it or
ends in a partition fault, with the point to be released again; a saved point is restored at a free position from its areas, which an image
fills first, and a restore that cannot be is abandoned.

The drain before the areas are written and the rewriting of the whole save on a retry are the model's choice of log entry 36,
and when a restore is tried again or abandoned that of log entry 37. -/
def Obligations.SaveAndRestore : Prop :=
  ∀ (s : State) (p : Point) (n : Nest) (v : Vdi),
    let absent := fun (u : State) => ∀ q ∈ u.points, q.slot ≠ p.slot ∨ q.point ≠ p.point
    let nest := fun (u : State) (P : Nest → Prop) => ∃ m, u.nests.find p.slot = some m ∧ P m
    let saved := fun (u : State) => absent u ∧ nest u (fun m => ∃ sp, m.saved = n.saved ++ [sp] ∧ sp.point = p.point ∧ sp.resume = p.resume)
    let faulted := fun (u : State) => absent u ∧ nest u (fun m => m.flushed = n.flushed ++ [(p.point, p.resume)]) ∧
      ∃ w, u.vdis.find p.vdi = some w ∧ w.partFault = true
    let drained := fun (x : State) => ((x.members p).foldl (fun (y : State) t => y.drainWhere t (fun _ => true)) x).settleStacks (x.members p)
    let repaired := s.repair2 s.ev.c [4, 3, 2, 1, 0] (frameOf v.hptr.toNat)
    (s.evPoint = some p → s.nests.find p.slot = some n → s.vdis.find p.vdi = some v →
      (∀ l c s2, p.phase = .saving l c → s.saveReady p = true → (drained s).writeAreas v p.slot ((drained s).members p) = (s2, none) →
        ∃ u, exec .saveComplete s = .next u ∧ saved u ∧ u.mem = s2.mem) ∧
      (∀ l c, p.phase = .saving l c → s.saveReady p = false → exec .saveComplete s = .next s) ∧
      (∀ l c s2 f, p.phase = .saving l c → s.saveReady p = true → (drained s).writeAreas v p.slot ((drained s).members p) = (s2, some f) →
        ∃ u, exec .saveComplete s = .next u ∧ u.points = s2.points ∧ u.mem = s2.mem ∧
          ({ kind := .saveWriteFault, a := p.slot, point := p.point, b := f.cause.code, c := f.gpa } : Event) ∈ u.agenda) ∧
      (∀ s2, p.phase = .suspended → (drained repaired).writeAreas v p.slot ((drained repaired).members p) = (s2, none) →
        ∃ u, exec .saveRetry s = .next u ∧ saved u) ∧
      (∀ l c, p.phase = .saving l c →
        (s.ev.b = 0x0D → ∃ u w j e, exec .saveWriteFault s = .next u ∧ (∃ q ∈ u.points, q.slot = p.slot ∧ q.point = p.point ∧ q.phase = .suspended) ∧
          u.vdis.find p.vdi = some w ∧ w.saveHold = true ∧ u.due = s.due ++ [(j, e)] ∧ (e.kind = .saveRetry ∨ e.kind = .stage2CannotRepair)) ∧
        (s.ev.b ≠ 0x0D → ∃ u, exec .saveWriteFault s = .next u ∧ faulted u)) ∧
      (p.phase = .suspended → ∃ u, exec .stage2CannotRepair s = .next u ∧ faulted u)) ∧
    (∀ sp, s.evPoint = none → s.nests.find s.ev.a = some n → s.vdis.find n.vdi = some v →
      n.saved.find? (fun x => x.suspended && decide (x.point = s.ev.point)) = some sp →
      ∃ u m w, exec .stage2CannotRepair s = .next u ∧ u.points = s.points ∧ u.nests.find s.ev.a = some m ∧
        m.saved = n.saved.filter (fun x => x.point ≠ sp.point) ∧ m.flushed = n.flushed ++ [(sp.point, sp.resume)] ∧ u.vdis.find n.vdi = some w ∧
        w.partFault = true ∧ u.mem = s.mem) ∧
    (∀ sp, s.nests.find s.ev.a = some n → s.vdis.find n.vdi = some v → n.saved.find? (fun x => decide (x.point = s.ev.point)) = some sp →
      n.stopped = false → v.held = false →
      let without := n.saved.filter (fun x => x.point ≠ sp.point)
      let choice := s.choosePosition v (nShape n.record) (nGang n.record)
      let abandons := ∃ u m, exec .restorePoint s = .next u ∧ u.points = s.points ∧ u.nests.find s.ev.a = some m ∧ m.saved = without ∧
        m.flushed = n.flushed ++ [(sp.point, sp.resume)]
      (choice = none → exec .restorePoint s = .next (s.later s.ev)) ∧
      ∀ pos, choice = some pos →
        let areas := if sp.image = [] then sp.areas else positionAreas v pos
        let gpas := areas.map (fun a => a.2.2)
        let clear := sp.image = [] ∨ ∀ g ∈ gpas, s.areaHeld n.vdi g = false
        (¬ clear → exec .restorePoint s = .next (s.later s.ev)) ∧
        (∀ f, clear → s.unmappedPage v gpas = some f →
          (f.cause = .stage2Fault → ∃ u m w j e, exec .restorePoint s = .next u ∧ u.points = s.points ∧ u.nests.find s.ev.a = some m ∧
            m.saved = n.saved.map (fun x => if x.point = sp.point then { x with suspended := true } else x) ∧ u.vdis.find n.vdi = some w ∧
            w.saveHold = true ∧ u.due = s.due ++ [(j, e)] ∧ e.a = s.ev.a ∧ e.point = sp.point ∧
            (e.kind = .restorePoint ∨ e.kind = .stage2CannotRepair ∧ e.c = f.gpa ∧ u.mem = s.mem)) ∧
          (f.cause ≠ .stage2Fault → abandons)) ∧
        ∀ s1 bad, clear → s.unmappedPage v gpas = none → (if sp.image = [] then (s, none) else s.writeImage v s.ev.a sp areas) = (s1, bad) →
          (bad = none → (∀ g ∈ gpas, s1.areaPoisoned v g = false ∧ leNat (s1.readArea v g 8) % 2 = 1) →
            ∃ u m, exec .restorePoint s = .next u ∧ (∃ q ∈ u.points, q.slot = s.ev.a ∧ q.point = sp.point ∧ q.resume = sp.resume ∧ q.phase = .starting ∧
              q.valid = gpas) ∧ u.nests.find s.ev.a = some m ∧ m.saved = without ∧ m.flushed = n.flushed) ∧
          (bad ≠ none ∨ (∃ g ∈ gpas, s1.areaPoisoned v g = true ∨ leNat (s1.readArea v g 8) % 2 = 0) → abandons))

/-- R329, R330, R332, R333, R360 and R361: sensors give the bands of their blocks, whose clocks stop at 110 °C and start below
100 °C and skip cycles in between as their power managers ask; expanders come into and leave their port's window; the
reference clock changes over; a correctable error is counted, and an uncorrectable one poisons its granule. That the poison of a ring or
a barrier stops the point when a word uses it is the model's choice of log entry 18, that a removed expander's bytes read 0 that of log
entries 58, 3 and 56. -/
def Obligations.ModuleEvents : Prop :=
  ∀ (s : State),
    let k := s.ev.a
    let becomes := fun (i : Instr) (t : State) => exec i s = .next t
    let temp := (BitVec.ofNat 16 s.ev.dword.toNat).toInt
    let left := s.skipping.filter (fun e => !(decide (e.1 = k) && decide (e.2.1 ≤ s.cycle)))
    let limit := (s.limits.find k).getD 0
    let poisons := fun (P : State → Prop) => ∃ u, exec .uncorrectableError s = .next u ∧ P u
    (k < 256 ∨ 512 ≤ k ∧ k < 529 → s.cycle % 4096 = 0 → ∃ u x, exec .sensorRefresh s = .next u ∧ u.sensors.find k = some x ∧
      x.toNat % 2 ^ 30 = s.ev.dword.toNat % 2 ^ 30 ∧ x.toNat / 2 ^ 32 = 0 ∧
      x.toNat / 2 ^ 30 = (if 1680 ≤ temp then 3 else if 1520 ≤ temp then 2 else if 1360 ≤ temp then 1 else 0) ∧
      (∀ j, j ≠ k → u.sensors.find j = s.sensors.find j) ∧ u.mem = s.mem) ∧
    (limit < s.ev.b → ∃ j, s.cycle < j ∧ becomes .powerDidtSkip { s with skipping := left ++ [(k, j, false)], fresh := s.fresh + 1 }) ∧
    (s.ev.b ≤ limit → becomes .powerDidtSkip { s with skipping := left }) ∧
    becomes .droopSkipEnd { s with skipping := left } ∧
    (1760 ≤ s.heat k → k ∉ s.stopped → becomes .clockStopOvertemp { s with stopped := k :: s.stopped }) ∧
    (s.heat k < 1600 → becomes .clockRestart { s with stopped := s.stopped.filter (fun b => b ≠ k) }) ∧
    (1600 ≤ s.heat k → becomes .clockRestart s) ∧
    (s.ev.flag = true → 0 < s.ev.b → (∃ w, w < 4 ∧ 2 ^ 40 + w * 2 ^ 41 ≤ k ∧ k + s.ev.b ≤ 2 ^ 40 + (w + 1) * 2 ^ 41) →
      (∀ e ∈ s.expanders, e.1 + e.2 ≤ k ∨ k + s.ev.b ≤ e.1) → becomes .expanderAddedOrRemoved { s with expanders := s.expanders ++ [(k, s.ev.b)] }) ∧
    (s.ev.flag = false → (k, s.ev.b) ∈ s.expanders → s.mem.wf = true → ∃ u, exec .expanderAddedOrRemoved s = .next u ∧
      u.expanders = s.expanders.filter (fun e => e ≠ (k, s.ev.b)) ∧ ∀ a, u.mem.read a = if k ≤ a ∧ a < k + s.ev.b then 0#8 else s.mem.read a) ∧
    becomes .referenceClockLoss { s with refLost := s.ev.flag } ∧
    becomes .correctableError { s with corrected := s.corrected.put k ((s.corrected.find k).getD 0 + 1) } ∧
    (∀ pa, s.ev.place = .line pa → poisons (fun u => pa / 64 ∈ u.poison ∧ (∀ l, l ≠ pa / 64 → (l ∈ u.poison ↔ l ∈ s.poison)) ∧ u.mem = s.mem)) ∧
    (∀ a, s.ev.place = .scratch a → s.troupeAt (a / 2 ^ 22) (a / 2 ^ 20 % 4) = none →
      poisons (fun u => a / 4 ∈ u.scratchPoison ∧ (∀ w, w ≠ a / 4 → (w ∈ u.scratchPoison ↔ w ∈ s.scratchPoison)) ∧ u.scratch = s.scratch)) ∧
    (∀ w r c, s.ev.place = .sreg w r → r < 48 → s.ctxs.find w = some c → s.troupeOf w = none →
      poisons (fun u => ∃ c', u.ctxs.find w = some c' ∧ r ∈ c'.poisonS ∧ c'.s = c.s)) ∧
    ((∀ p ∈ s.points, p.phase = .running) → ∀ t, s.troupes.find k = some t →
      let struck := fun (n : Nat) => poisons (fun u => u.points = s.points ∧ ∃ t', u.troupes.find k = some t' ∧ t'.rings = t.rings ∧ t'.bars = t.bars ∧
        t'.cues = t.cues ∧ n ∈ t'.badSync ∧ ∀ m, m ≠ n → (m ∈ t'.badSync ↔ m ∈ t.badSync))
      (∀ n, n < 16 → s.ev.place = .ring k n → struck n) ∧ (s.ev.place = .barrier k → struck 16)) ∧
    (∀ q m w, s.ev.place = .control q m w → s.troupes = [] →
      poisons (fun u => (m, w) ∈ (u.quad q).badMacros ∧ (∀ x, x ≠ (m, w) → (x ∈ (u.quad q).badMacros ↔ x ∈ (s.quad q).badMacros)) ∧
        (u.quad q).macros = (s.quad q).macros)) ∧
    (∀ (c : Ctx) (j : Nat) (t : Troupe) (d a : Reg) (n : BitVec 4), s.issuing c → s.unit.kind = .cast → s.troupeOf s.unit = some (j, t) →
      let stops := fun (i : Instr) => exec i s = .next s.stopAtSync
      (n.toNat ∈ t.badSync → s.spilledAt t (.ringTicket d n) = [] → s.spilledAt t (.ringTake d n) = [] →
        stops (.ringTicket d n) ∧ stops (.ringFill a n) ∧ stops (.ringTake d n) ∧ stops (.ringFree n)) ∧
      (16 ∈ t.badSync → s.castPaths s.unit ≤ 1 → stops (.barArv n)))

/-! ### The whole machine -/

/-- R10, R69, R144 to R146 and R157: a step runs the decoded instruction. With an event at hand, the step is the event's
meaning. A unit whose turn it is reads the word at its path's position: when the word decodes and passes the checks of R157, the
step is the instruction's meaning in the state in which the path stands after the word, and what follows a group; a word that traps as a
whole runs in the state before its group. A word whose check an engine answers leads its group, which issues once the answer has come.
A word that holds its path is run again, and a stagehand runs what its decoder reads at its pc. An event that needs a stopped clock
waits. With no event and no turn left, the units are chosen, the Nest Release Unit works, or the next cycle begins. The order of a
step's parts is the model's choice of log entry 1, the cycle by which an event waits for a stopped clock that of log entry 77, and the
group that waits for its leader that of log entry 68. -/
def Obligations.StepRunsDecoded : Prop :=
  (∀ s e es, s.agenda = e :: es → (s.waitsForClock e = false → step s = exec e.kind { s with agenda := es, ev := e }) ∧
    (s.waitsForClock e = true → step s = .next { s with agenda := es, due := s.due ++ [(s.cycle + 1, e)] })) ∧
  (∀ s, s.agenda = [] → s.issueQ = [] → step s = .next (if s.scheduled = false then s.schedule else if s.nestTurn = false then s.beginNests else s.tick)) ∧
  ∀ (s : State) (t : Turn) (ts : List Turn), s.agenda = [] → s.issueQ = t :: ts →
    let s0 : State := { s with issueQ := ts }
    let held : Ctx → Held → State := fun c h =>
      let p := c.path t.slotB
      let cur : Cur :=
        { turn := t, pos := h.pos, mstep := h.mstep, word := h.word, nextPos := h.nextPos, after := h.after, afterStep := h.afterStep, em := h.em, fm := h.fm,
          win := p.win, group := s0.stamp + 1, stamp := s0.stamp + 1, tag := h.tag, vals := if h.vals = [] then none else some h.vals, trap := none,
          demote := false, late := false }
      ({ s0 with cur := cur, stamp := s0.stamp + 1 }).setCtx t.unit
        (c.setPath t.slotB { p with held := none, also := [], readyAt := max p.readyAt (s0.cycle + 1) })
    -- What a group of one word does in the state `x`, with the answer of its leader, as what `Q` says of the state after it.
    let issues := fun (x : State) (c : Ctx) (i : Instr) (ans : Option Held) (Q : State → Prop) =>
      let r := x.clearValid t.unit
      let p := c.path t.slotB
      let code := r.code t.unit
      let w := codeWord code p.pc
      let nxt := if p.pc % 4 = 2 then 0 else codeWord code (p.pc + 1)
      let q := r.pathIssue t.unit t.slotB p
      let next := if 3 ≤ p.pc % 4 + (if fMaj w = 3 then 2 else 1) then 4 * (p.pc / 4 + 1) else p.pc + (if fMaj w = 3 then 2 else 1)
      let g : Gw := { pos := p.pc, mstep := none, word := w, nxt := nxt, after := next, afterStep := none }
      let base : Bool → Cur := fun late =>
        { turn := t, pos := p.pc, mstep := none, word := 0, nextPos := next, after := next, afterStep := none, em := p.em, fm := p.fm, win := p.win,
          group := r.stamp + 1, stamp := r.stamp + 1, tag := r.stamp + 1, vals := none, trap := none, demote := false, late := late }
      let before : State := { r with cur := base false }
      let after := (before.advance t.unit t.slotB p next none (fld w 28 3).toNat).count (r.vdiOf t.unit)
        (if t.unit.kind = Kind.cue then 2 else 1) (if t.unit.kind = Kind.board then 0 else 1)
      let word := fun (y : State) => y.forWord (base (faultsWhole i)) ans g i
      let ends := fun (u : State) => if u.led t then u else u.afterGroup t p.pid (x.vdiOf t.unit) p.em (x.nextWords t.unit t.slotB c)
      p.mstep = none → p.also = [] → p.pc % 4 < 3 → p.pc / 4 < code.length / 12 → w.getLsbD 31 = false →
      (codeWord code (4 * (p.pc / 4) + 2)).getLsbD 31 = false → (fMaj w = 3 → p.pc % 4 ≠ 2) → r.badFetch t.unit [g] = false →
      (∀ v, r.vdis.find (r.vdiOf t.unit) = some v → v.img.codeVa = none) →
      decode t.unit.kind w nxt = .ok i → (∀ n, i ≠ .pool n) → (∀ d, i ≠ .csrr d 0x20A) → levelNeeded i ≤ p.plvl.toNat → badShape c q i = false →
      t.unit.kind ≠ .cast ∨ c.cctl.getLsbD 0 = false ∨ readsEarly c q i = false → readsPoison c q i = false → r.mayFault t.unit p = false →
      (word after).waitsInGroup i = false →
      ∀ u, exec i (word after) = .next u →
        (u.cur.trap = some false → leadsGroup i = false → ∀ u', exec i (word before) = .next u' → Q (ends u')) ∧
        (u.cur.trap = none ∧ u.matrixWaits t = false ∨ u.cur.trap = some true →
          (leadsGroup i = false ∨ ans.isSome = true ∨ p.em = 0#32 ∧ fMaj w ≠ 0x3F → Q (ends u)) ∧
          (leadsGroup i = true → ans = none → p.em ≠ 0#32 ∨ fMaj w = 0x3F → ∀ u3, exec i (before.atWord (base false) g) = .next u3 →
            (u3.holdersAt t = [] → Q (ends u)) ∧ (u3.holdersAt t ≠ [] → (u3.markLead t).led t = true → Q (u3.markLead t))))
    (∀ c i, s0.ctxs.find t.unit = some c → t.resume = false → s0.eligible t.unit t.slotB = true → issues s0 c i none (fun u => step s = .next u)) ∧
    (∀ c h, s0.ctxs.find t.unit = some c → t.resume = true → s0.unitRuns t.unit = true → s0.resumes t.unit t.slotB c = true →
      let p := c.path t.slotB
      let p1 : Path := { p with held := none, also := [] }
      let c1 := c.setPath t.slotB p1
      let s1 := s0.setCtx t.unit c1
      p.entry = none → p.held = some h →
      (h.leads = false → heldForFar h.instr = true → s0.pathFar t.unit p = true → step s = .next s0) ∧
      ∀ u, exec h.instr (held c h) = .next u →
        (h.leads = false → heldForFar h.instr = false ∨ s0.pathFar t.unit p = false → u.cur.trap = none → step s = .next (u.keepHolders t p.pid p.also)) ∧
        (h.leads = true → u.cur.trap = some false → step s = .next (if s0.mayFault t.unit p then s0 else u)) ∧
        (h.leads = true → u.cur.trap = none → (∃ k ∈ u.holdersAt t, k.answered = false) → step s = .next (u.markLead t)) ∧
        (h.leads = true → u.cur.trap = none → (∀ k ∈ u.holdersAt t, k.answered = true) →
          (s1.groupHeld t.unit c1 (s1.pathIssue t.unit t.slotB p1) p1 (s1.nextWords t.unit t.slotB c1) = true → step s = .next s0) ∧
          (s1.groupHeld t.unit c1 (s1.pathIssue t.unit t.slotB p1) p1 (s1.nextWords t.unit t.slotB c1) = false → s1.mayFault t.unit p1 = false →
            issues s1 c1 h.instr (some h) (fun u => step s = .next u)))) ∧
    (∀ h, s0.ctxs.find t.unit = none → s0.hands.find t.unit = some h → h.started = true → h.exited = false →
      let r := s0.clearValid t.unit
      let w := h.instrs.word h.pc.toNat
      let n := h.scratchBytes (decodeHand w)
      let cur := fun (tag : Nat) => ({ Cur.idle with turn := t, pos := h.pc.toNat, word := w, stamp := r.stamp + 1, tag := tag } : Cur)
      (h.held = none → h.pc.toNat + (if fld w 0 2 = 3#2 then 4 else 2) ≤ 0x8000 → h.consumes w (decodeHand w) = false →
        ∀ u, exec (decodeHand w) { r with stamp := r.stamp + 1, cur := cur (r.stamp + 1) } = .next u →
          step s = .next (if n = 0 then u else u.count (s0.vdiOf t.unit) 32 n)) ∧
      (∀ i, h.held = some i → ∀ u, exec i { r with stamp := r.stamp + 1, cur := cur h.tag, hands := r.hands.put t.unit { h with held := none } } = .next u →
        step s = .next u))

/-- R155 to R158, R244 and R245: the words that are no instruction for their unit, or for their level, take an exception at
issue, with the word as its value and its position as the place to resume: ReservedEncoding, CueMisuse, IllegalInstr,
ExecData or PrivViolation. The path enters the handler of the level above its own, and memory is as it was. -/
def Obligations.IssueExceptions : Prop :=
  ∀ (s : State) (t : Turn) (ts : List Turn) (c : Ctx) (l : Nat), s.agenda = [] → s.issueQ = t :: ts →
    let s0 : State := { s with issueQ := ts }
    let r := s0.clearValid t.unit
    let p := c.path t.slotB
    let code := r.code t.unit
    let w := codeWord code p.pc
    let nxt := if p.pc % 4 = 2 then 0 else codeWord code (p.pc + 1)
    s0.ctxs.find t.unit = some c → t.resume = false → s0.eligible t.unit t.slotB = true → p.mstep = none →
    p.pc % 4 < 3 → p.pc / 4 < code.length / 12 → w.getLsbD 31 = false → (codeWord code (4 * (p.pc / 4) + 2)).getLsbD 31 = false →
    (fMaj w = 3 → p.pc % 4 ≠ 2) → (∀ v, r.vdis.find (r.vdiOf t.unit) = some v → p.pc ∉ v.badCode ∧ v.img.codeVa = none) → r.mayFault t.unit p = false → t.unit.kind = .cast →
    p.plvl = 0#2 ∧ l = 1 ∨ p.plvl = 1#2 ∧ l = 2 → (c.levelRegs l).busy = none ∨ (c.levelRegs l).busy = some p.pid →
    let traps := fun (cause : Nat) => ∃ u c', step s = .next u ∧ u.ctxs.find t.unit = some c' ∧
      c.Entered c' t.slotB s.cycle l cause (w.setWidth 64) p.pc none ∧ u.mem = r.mem ∧ u.scratch = s.scratch ∧ u.fars = s.fars ∧ u.troupes = s.troupes
    let d := decode .cast w nxt
    (d = .error .unassignedMajor ∨ d = .error .reserved → traps 0x02) ∧ (d = .error .cueMisuse → traps 0x12) ∧ (d = .error .illegalMajor → traps 0x01) ∧
    (∀ n, d = .ok (.pool n) → traps 0x03) ∧
    (∀ i, d = .ok i → (∀ n, i ≠ .pool n) → p.plvl.toNat < levelNeeded i → traps 0x05) ∧
    (levelNeeded .eret = 1 ∧ levelNeeded .tlbinvAll = 1 ∧ levelNeeded .halt = 2 ∧ levelNeeded .tlbinvS2All = 2 ∧ ∀ a b e, levelNeeded (.mappg a b e) = 1 ∧
      levelNeeded (.mdef a b) = 1 ∧ levelNeeded (.frec a b e) = 1 ∧ levelNeeded (.unpark a) = 1 ∧ levelNeeded (.smsg a b) = 2 ∧ levelNeeded (.tlbinv a) = 1 ∧
      levelNeeded (.tlbinvS2 a) = 2)

/-- R255, R273, R280, R320, R335, R349, R374 and R378: what the spec says that reset leaves: no tenant and so no unit at work,
device time, semaphores, bins and generation counters zero, the measurement registers zero, no flash command in progress. -/
def Obligations.ResetState : Prop :=
  let s := State.reset
  s.dt = 0#64 ∧ s.vdis = [] ∧ s.troupes = [] ∧ s.nests = [] ∧ s.points = [] ∧ s.ctxs = [] ∧ s.hands = [] ∧ s.fars = [] ∧
  (∀ k : Nat, s.gens[k]?.getD 0 = 0#10) ∧ (∀ k, (s.sems.find k).getD 0 = 0#64) ∧ (∀ k, (s.bins.find k).getD 0 = 0#64) ∧
  (∀ k : Nat, k < 8 → s.secure.meas[k]? = some (List.replicate 48 0#8)) ∧ s.secure.recovery = false ∧ s.secure.failedBoots = 0 ∧ s.flash.busy = false ∧
  s.flash.err = false ∧ s.flash.res = 0#8 ∧ (∀ k, s.sensors.find k = none) ∧ s.tlb = [] ∧ s.moves = [] ∧ s.engines = [] ∧ s.coll.posts = [] ∧
  s.fabric.state = 0#2 ∧ s.stopped = [] ∧ s.skipping = [] ∧ s.records = [] ∧ s.sending = []

/-- R144, R146 and R150 to R153 (a sanity statement): words written out from the encoding tables decode to the instructions that
they stand for, and words that the tables reserve do not decode. -/
def Obligations.DecodeSanity : Prop :=
  decode .cast 0x01030420 0 = .ok (.add 3 1 2) ∧ decode .cast 0x0044FFFF 0 = .ok (.movi 4 0xFFFF) ∧
  decode .cast 0x00C50001 0x3F800000 = .ok (.limmN32 5 0x3F800000) ∧ decode .cast 0x041FFFFF 0 = .ok (.bra 0x1FFFFF) ∧
  decode .cast 0x06070823 0 = .ok (.vmulh 7 2 2) ∧ decode .cast 0x0CC20528 0 = .ok (.ldg 2 1 2 1 1) ∧
  decode .cue 0x0F030422 0 = .ok (.mmao 3 1 2) ∧ decode .cast 0x0FC10062 0 = .ok (.csrr 1 0x006) ∧
  decode .board 0x0F8001F3 0 = .ok (.cbIrq 0x1F) ∧ decode .cast 0x0FC0005F 0 = .ok (.pool 5) ∧
  decode .cast 0x02800000 0 = .error .unassignedMajor ∧ decode .cast 0x0F030422 0 = .error .cueMisuse ∧ decode .cast 0x00000002 0 = .error .reserved ∧
  decodeHand 0x00B5B00B = .stagehandInstruction .illegal false ∧ decodeHand 0x0005B00B = .xwait 11

/-- R2, R3: byte memory in its canonical form. A byte that has been written reads as written and every other byte as
before, cleared bytes read as the unlisted byte, and two memories that read alike are the same data. -/
def Obligations.MemoryReads : Prop :=
  (∀ (m : Memory) (a : Nat) (bs : List Byte) (x : Nat), m.wf = true →
    (m.putBytes a bs).read x = if a ≤ x ∧ x < a + bs.length then bs.getD (x - a) 0 else m.read x) ∧
  (∀ (m : Memory) (a n x : Nat), m.wf = true → (m.clear a n).read x = if a ≤ x ∧ x < a + n then Config.unlisted else m.read x) ∧
  ∀ (m k : Memory), m.wf = true → k.wf = true → (∀ x, m.read x = k.read x) → m = k

/-- R2: the state after reset has global memory, the scratchpads, host memory, the flash and its buffer in their canonical form. -/
def Obligations.ResetCanonical : Prop := State.reset.canonical

/-- R2: every step keeps global memory, the scratchpads, host memory, the flash and its buffer in their canonical form, whatever unit,
engine or event it is the step of; of the private stores of the stagehands it says nothing. -/
def Obligations.StepKeepsCanonical : Prop :=
  ∀ (s t : State), s.canonical → step s = .next t → t.canonical

/-- R144, R146, R150 to R154 and R263: decoding and encoding agree. Every instruction of a cast, a cue stream or a Callboard
context that is well formed for its unit, at every value of its operands, is what the unit's decoder reads from its words,
whatever C and STALL are; an Xstage instruction is what the stagehands' decoder reads from its word; and a word that decodes
is, but for C and STALL, the encoding of the instruction. -/
def Obligations.RoundTrip : Prop :=
  (∀ (k : Kind) (i : Instr) (w : Word) (rest : List Word) (c : Bool) (stall : BitVec 3), encode i = w :: rest → i.wf k = true →
    i.isXstage = false → majorExecuted k w = true → decode k (framed c stall w) (rest.headD 0) = .ok i) ∧
  (∀ (i : Instr) (w : Word), i.isXstage = true → encode i = [w] → decodeHand w = i) ∧
  ∀ (k : Kind) (i : Instr) (w nxt : Word), decode k w nxt = .ok i → i.wf k = true ∧ (encode i = [unframed w] ∨ encode i = [unframed w, nxt])

/-- R96 to R98: an exact nonzero value that is no larger than the largest finite value of a floating format is rounded, under every mode and
whatever fm.SAT holds, to a finite value that the mode admits, and to none that lies farther from it than another such value; of two that
lie equally near, RNE takes the one whose last mantissa bit is 0. NX says that the result is inexact, and UF that it is also smaller
than the smallest normal; no other flag is set. -/
def Obligations.RoundingRule : Prop :=
  ∀ f ∈ [fp32, bf16, fp16, e4m3, e5m2, e3m2, e2m3, e2m1], ∀ (mode : Mode) (sat neg : Bool) (m : Nat) (e : Int), m ≠ 0 →
    let rat := fun (neg : Bool) (m : Nat) (e : Int) => (if neg then -(m : Rat) else m) * (2 : Rat) ^ e
    let x := rat neg m e
    let value := fun (code : Nat) (v : Rat) => ∃ g n k, f.decode code = .fin g n k ∧ v = rat g n k
    let admits := fun (v : Rat) => match mode with | .rne => True | .rz => |v| ≤ |x| | .rdn => v ≤ x | .rup => x ≤ v
    let r := f.encode mode sat (.fin neg m e)
    |x| ≤ f.maxM * (2 : Rat) ^ f.maxE →
    ∃ v, r.1 < 2 ^ f.width ∧ value r.1 v ∧ admits v ∧
      (∀ code w, code < 2 ^ f.width → value code w → admits w → |x - v| ≤ |x - w|) ∧
      (∀ code w, code < 2 ^ f.width → value code w → mode = .rne → w ≠ v → |x - v| = |x - w| → r.1 % 2 = 0) ∧
      r.2 = (if v = x then 0 else 0x08#7) ||| (if v ≠ x ∧ |x| < (2 : Rat) ^ (1 - (f.bias : Int)) then 0x04#7 else 0)
end

