-- ==== Sys2Proof/Laws/Dispatch.lean ====
section
/-! SUPPORT. What the dispatch does with each constructor: it calls its one meaning. -/

namespace Sys2Proof.Machine

theorem exec_stall {n s} : exec (.stall n) s = execStall n s := rfl
theorem exec_movi {d i s} : exec (.movi d i) s = execMovi d i s := rfl
theorem exec_movhi {d i s} : exec (.movhi d i) s = execMovhi d i s := rfl
theorem exec_limmI32 {d imm s} : exec (.limmI32 d imm) s = execLimmI32 d imm s := rfl
theorem exec_limmN32 {d imm s} : exec (.limmN32 d imm) s = execLimmN32 d imm s := rfl
theorem exec_add {d a b s} : exec (.add d a b) s = execAdd d a b s := rfl
theorem exec_sub {d a b s} : exec (.sub d a b) s = execSub d a b s := rfl
theorem exec_and {d a b s} : exec (.and d a b) s = execAnd d a b s := rfl
theorem exec_or {d a b s} : exec (.or d a b) s = execOr d a b s := rfl
theorem exec_xor {d a b s} : exec (.xor d a b) s = execXor d a b s := rfl
theorem exec_andn {d a b s} : exec (.andn d a b) s = execAndn d a b s := rfl
theorem exec_shl {d a b s} : exec (.shl d a b) s = execShl d a b s := rfl
theorem exec_shr {d a b s} : exec (.shr d a b) s = execShr d a b s := rfl
theorem exec_sra {d a b s} : exec (.sra d a b) s = execSra d a b s := rfl
theorem exec_rotl {d a b s} : exec (.rotl d a b) s = execRotl d a b s := rfl
theorem exec_min {d a b s} : exec (.min d a b) s = execMin d a b s := rfl
theorem exec_max {d a b s} : exec (.max d a b) s = execMax d a b s := rfl
theorem exec_minu {d a b s} : exec (.minu d a b) s = execMinu d a b s := rfl
theorem exec_maxu {d a b s} : exec (.maxu d a b) s = execMaxu d a b s := rfl
theorem exec_addc {d a b s} : exec (.addc d a b) s = execAddc d a b s := rfl
theorem exec_subc {d a b s} : exec (.subc d a b) s = execSubc d a b s := rfl
theorem exec_addImm {d a i s} : exec (.addImm d a i) s = execAddImm d a i s := rfl
theorem exec_subImm {d a i s} : exec (.subImm d a i) s = execSubImm d a i s := rfl
theorem exec_andImm {d a i s} : exec (.andImm d a i) s = execAndImm d a i s := rfl
theorem exec_orImm {d a i s} : exec (.orImm d a i) s = execOrImm d a i s := rfl
theorem exec_xorImm {d a i s} : exec (.xorImm d a i) s = execXorImm d a i s := rfl
theorem exec_andnImm {d a i s} : exec (.andnImm d a i) s = execAndnImm d a i s := rfl
theorem exec_shlImm {d a i s} : exec (.shlImm d a i) s = execShlImm d a i s := rfl
theorem exec_shrImm {d a i s} : exec (.shrImm d a i) s = execShrImm d a i s := rfl
theorem exec_sraImm {d a i s} : exec (.sraImm d a i) s = execSraImm d a i s := rfl
theorem exec_rotlImm {d a i s} : exec (.rotlImm d a i) s = execRotlImm d a i s := rfl
theorem exec_minImm {d a i s} : exec (.minImm d a i) s = execMinImm d a i s := rfl
theorem exec_maxImm {d a i s} : exec (.maxImm d a i) s = execMaxImm d a i s := rfl
theorem exec_minuImm {d a i s} : exec (.minuImm d a i) s = execMinuImm d a i s := rfl
theorem exec_maxuImm {d a i s} : exec (.maxuImm d a i) s = execMaxuImm d a i s := rfl
theorem exec_mul {d a b s} : exec (.mul d a b) s = execMul d a b s := rfl
theorem exec_mulh {d a b s} : exec (.mulh d a b) s = execMulh d a b s := rfl
theorem exec_mulhu {d a b s} : exec (.mulhu d a b) s = execMulhu d a b s := rfl
theorem exec_div {d a b s} : exec (.div d a b) s = execDiv d a b s := rfl
theorem exec_divu {d a b s} : exec (.divu d a b) s = execDivu d a b s := rfl
theorem exec_rem {d a b s} : exec (.rem d a b) s = execRem d a b s := rfl
theorem exec_remu {d a b s} : exec (.remu d a b) s = execRemu d a b s := rfl
theorem exec_clz {d a s} : exec (.clz d a) s = execClz d a s := rfl
theorem exec_popc {d a s} : exec (.popc d a) s = execPopc d a s := rfl
theorem exec_brev {d a s} : exec (.brev d a) s = execBrev d a s := rfl
theorem exec_sext {d a n s} : exec (.sext d a n) s = execSext d a n s := rfl
theorem exec_zext {d a n s} : exec (.zext d a n) s = execZext d a n s := rfl
theorem exec_cmp {d a b f s} : exec (.cmp d a b f) s = execCmp d a b f s := rfl
theorem exec_sel {d a b x s} : exec (.sel d a b x) s = execSel d a b x s := rfl
theorem exec_bra {o s} : exec (.bra o) s = execBra o s := rfl
theorem exec_call {o s} : exec (.call o) s = execCall o s := rfl
theorem exec_brcNz {a o s} : exec (.brcNz a o) s = execBrcNz a o s := rfl
theorem exec_brcZ {a o s} : exec (.brcZ a o) s = execBrcZ a o s := rfl
theorem exec_brmNone {o s} : exec (.brmNone o) s = execBrmNone o s := rfl
theorem exec_brmAny {o s} : exec (.brmAny o) s = execBrmAny o s := rfl
theorem exec_brmAll {o s} : exec (.brmAll o) s = execBrmAll o s := rfl
theorem exec_ret {a s} : exec (.ret a) s = execRet a s := rfl
theorem exec_fork {a o s} : exec (.fork a o) s = execFork a o s := rfl
theorem exec_mcall {m x y z s} : exec (.mcall m x y z) s = execMcall m x y z s := rfl
theorem exec_setem {a s} : exec (.setem a) s = execSetem a s := rfl
theorem exec_getem {d s} : exec (.getem d) s = execGetem d s := rfl
theorem exec_setfmt {a s} : exec (.setfmt a) s = execSetfmt a s := rfl
theorem exec_getfmt {d s} : exec (.getfmt d) s = execGetfmt d s := rfl
theorem exec_scene {a n s} : exec (.scene a n) s = execScene a n s := rfl
theorem exec_vadd {d a b s} : exec (.vadd d a b) s = execVadd d a b s := rfl
theorem exec_vsub {d a b s} : exec (.vsub d a b) s = execVsub d a b s := rfl
theorem exec_vmul {d a b s} : exec (.vmul d a b) s = execVmul d a b s := rfl
theorem exec_vmulh {d a b s} : exec (.vmulh d a b) s = execVmulh d a b s := rfl
theorem exec_vand {d a b s} : exec (.vand d a b) s = execVand d a b s := rfl
theorem exec_vor {d a b s} : exec (.vor d a b) s = execVor d a b s := rfl
theorem exec_vxor {d a b s} : exec (.vxor d a b) s = execVxor d a b s := rfl
theorem exec_vshl {d a b s} : exec (.vshl d a b) s = execVshl d a b s := rfl
theorem exec_vshr {d a b s} : exec (.vshr d a b) s = execVshr d a b s := rfl
theorem exec_vsra {d a b s} : exec (.vsra d a b) s = execVsra d a b s := rfl
theorem exec_vmin {d a b s} : exec (.vmin d a b) s = execVmin d a b s := rfl
theorem exec_vmax {d a b s} : exec (.vmax d a b) s = execVmax d a b s := rfl
theorem exec_vminu {d a b s} : exec (.vminu d a b) s = execVminu d a b s := rfl
theorem exec_vmaxu {d a b s} : exec (.vmaxu d a b) s = execVmaxu d a b s := rfl
theorem exec_vaddsat {d a b s} : exec (.vaddsat d a b) s = execVaddsat d a b s := rfl
theorem exec_vsubsat {d a b s} : exec (.vsubsat d a b) s = execVsubsat d a b s := rfl
theorem exec_vaddImm {d a i s} : exec (.vaddImm d a i) s = execVaddImm d a i s := rfl
theorem exec_vsubImm {d a i s} : exec (.vsubImm d a i) s = execVsubImm d a i s := rfl
theorem exec_vmulImm {d a i s} : exec (.vmulImm d a i) s = execVmulImm d a i s := rfl
theorem exec_vandImm {d a i s} : exec (.vandImm d a i) s = execVandImm d a i s := rfl
theorem exec_vorImm {d a i s} : exec (.vorImm d a i) s = execVorImm d a i s := rfl
theorem exec_vshlImm {d a i s} : exec (.vshlImm d a i) s = execVshlImm d a i s := rfl
theorem exec_vshrImm {d a i s} : exec (.vshrImm d a i) s = execVshrImm d a i s := rfl
theorem exec_vsraImm {d a i s} : exec (.vsraImm d a i) s = execVsraImm d a i s := rfl
theorem exec_vmad {d a b s} : exec (.vmad d a b) s = execVmad d a b s := rfl
theorem exec_vabs {d a s} : exec (.vabs d a) s = execVabs d a s := rfl
theorem exec_vneg {d a s} : exec (.vneg d a) s = execVneg d a s := rfl
theorem exec_vclz {d a s} : exec (.vclz d a) s = execVclz d a s := rfl
theorem exec_vpopc {d a s} : exec (.vpopc d a) s = execVpopc d a s := rfl
theorem exec_vdot4I8 {d a b s} : exec (.vdot4I8 d a b) s = execVdot4I8 d a b s := rfl
theorem exec_vdot4N8 {d a b s} : exec (.vdot4N8 d a b) s = execVdot4N8 d a b s := rfl
theorem exec_vcmp {d a b f s} : exec (.vcmp d a b f) s = execVcmp d a b f s := rfl
theorem exec_vfadd {d a b s} : exec (.vfadd d a b) s = execVfadd d a b s := rfl
theorem exec_vfsub {d a b s} : exec (.vfsub d a b) s = execVfsub d a b s := rfl
theorem exec_vfmul {d a b s} : exec (.vfmul d a b) s = execVfmul d a b s := rfl
theorem exec_vfmin {d a b s} : exec (.vfmin d a b) s = execVfmin d a b s := rfl
theorem exec_vfmax {d a b s} : exec (.vfmax d a b) s = execVfmax d a b s := rfl
theorem exec_vfcopysign {d a b s} : exec (.vfcopysign d a b) s = execVfcopysign d a b s := rfl
theorem exec_vfma {d a b s} : exec (.vfma d a b) s = execVfma d a b s := rfl
theorem exec_vfms {d a b s} : exec (.vfms d a b) s = execVfms d a b s := rfl
theorem exec_vfnma {d a b s} : exec (.vfnma d a b) s = execVfnma d a b s := rfl
theorem exec_vfcmp {d a b f s} : exec (.vfcmp d a b f) s = execVfcmp d a b f s := rfl
theorem exec_vfrcp {d a s} : exec (.vfrcp d a) s = execVfrcp d a s := rfl
theorem exec_vfrsq {d a s} : exec (.vfrsq d a) s = execVfrsq d a s := rfl
theorem exec_vfsqrt {d a s} : exec (.vfsqrt d a) s = execVfsqrt d a s := rfl
theorem exec_vfexp2 {d a s} : exec (.vfexp2 d a) s = execVfexp2 d a s := rfl
theorem exec_vflog2 {d a s} : exec (.vflog2 d a) s = execVflog2 d a s := rfl
theorem exec_vftanh {d a s} : exec (.vftanh d a) s = execVftanh d a s := rfl
theorem exec_vfsig {d a s} : exec (.vfsig d a) s = execVfsig d a s := rfl
theorem exec_vfabs {d a s} : exec (.vfabs d a) s = execVfabs d a s := rfl
theorem exec_vfneg {d a s} : exec (.vfneg d a) s = execVfneg d a s := rfl
theorem exec_vcvt {d a x y r s} : exec (.vcvt d a x y r) s = execVcvt d a x y r s := rfl
theorem exec_vpack {d a b w s} : exec (.vpack d a b w) s = execVpack d a b w s := rfl
theorem exec_vunpack {d a k w s} : exec (.vunpack d a k w) s = execVunpack d a k w s := rfl
theorem exec_vsel {d a b x s} : exec (.vsel d a b x) s = execVsel d a b x s := rfl
theorem exec_vshuf {d a b s} : exec (.vshuf d a b) s = execVshuf d a b s := rfl
theorem exec_vbcast {d a k s} : exec (.vbcast d a k) s = execVbcast d a k s := rfl
theorem exec_vlaneid {d s} : exec (.vlaneid d) s = execVlaneid d s := rfl
theorem exec_vaff {d a b s} : exec (.vaff d a b) s = execVaff d a b s := rfl
theorem exec_vaffImm {d i j s} : exec (.vaffImm d i j) s = execVaffImm d i j s := rfl
theorem exec_vreduce {d a p s} : exec (.vreduce d a p) s = execVreduce d a p s := rfl
theorem exec_vscanInclusive {d a p s} : exec (.vscanInclusive d a p) s = execVscanInclusive d a p s := rfl
theorem exec_vscanExclusive {d a p s} : exec (.vscanExclusive d a p) s = execVscanExclusive d a p s := rfl
theorem exec_ballot {d a s} : exec (.ballot d a) s = execBallot d a s := rfl
theorem exec_vrng {d a b s} : exec (.vrng d a b) s = execVrng d a b s := rfl
theorem exec_vmovs {d a s} : exec (.vmovs d a) s = execVmovs d a s := rfl
theorem exec_smovv {d a k s} : exec (.smovv d a k) s = execSmovv d a k s := rfl
theorem exec_lds {d a b z s} : exec (.lds d a b z) s = execLds d a b z s := rfl
theorem exec_sts {d a b z s} : exec (.sts d a b z) s = execSts d a b z s := rfl
theorem exec_ldsx {d a x y o s} : exec (.ldsx d a x y o) s = execLdsx d a x y o s := rfl
theorem exec_stsx {d a x y o s} : exec (.stsx d a x y o) s = execStsx d a x y o s := rfl
theorem exec_atoms {d a p o e x s} : exec (.atoms d a p o e x) s = execAtoms d a p o e x s := rfl
theorem exec_ldg {d a t o e s} : exec (.ldg d a t o e) s = execLdg d a t o e s := rfl
theorem exec_ldgN16 {d a t o e s} : exec (.ldgN16 d a t o e) s = execLdgN16 d a t o e s := rfl
theorem exec_ldgN8 {d a t o e s} : exec (.ldgN8 d a t o e) s = execLdgN8 d a t o e s := rfl
theorem exec_stg {d a t o e s} : exec (.stg d a t o e) s = execStg d a t o e s := rfl
theorem exec_stg16 {d a t o e s} : exec (.stg16 d a t o e) s = execStg16 d a t o e s := rfl
theorem exec_stg8 {d a t o e s} : exec (.stg8 d a t o e) s = execStg8 d a t o e s := rfl
theorem exec_poll {d a t o e s} : exec (.poll d a t o e) s = execPoll d a t o e s := rfl
theorem exec_atom {d a t o e p s} : exec (.atom d a t o e p) s = execAtom d a t o e p s := rfl
theorem exec_fence {e s} : exec (.fence e) s = execFence e s := rfl
theorem exec_waitc {n l s} : exec (.waitc n l) s = execWaitc n l s := rfl
theorem exec_txl {t a s} : exec (.txl t a) s = execTxl t a s := rfl
theorem exec_ringTicket {d n s} : exec (.ringTicket d n) s = execRingTicket d n s := rfl
theorem exec_ringFill {a n s} : exec (.ringFill a n) s = execRingFill a n s := rfl
theorem exec_ringTake {d n s} : exec (.ringTake d n) s = execRingTake d n s := rfl
theorem exec_ringFree {n s} : exec (.ringFree n) s = execRingFree n s := rfl
theorem exec_thset {r n q h s} : exec (.thset r n q h) s = execThset r n q h s := rfl
theorem exec_thget {d n q h s} : exec (.thget d n q h) s = execThget d n q h s := rfl
theorem exec_tld {a b h s} : exec (.tld a b h) s = execTld a b h s := rfl
theorem exec_tst {a b h s} : exec (.tst a b h) s = execTst a b h s := rfl
theorem exec_barArv {n s} : exec (.barArv n) s = execBarArv n s := rfl
theorem exec_barWait {n s} : exec (.barWait n) s = execBarWait n s := rfl
theorem exec_cueBar {n s} : exec (.cueBar n) s = execCueBar n s := rfl
theorem exec_semadd {a k s} : exec (.semadd a k) s = execSemadd a k s := rfl
theorem exec_semwait {a k s} : exec (.semwait a k) s = execSemwait a k s := rfl
theorem exec_nestLaunch {a s} : exec (.nestLaunch a) s = execNestLaunch a s := rfl
theorem exec_nestBound {a b s} : exec (.nestBound a b) s = execNestBound a b s := rfl
theorem exec_spawn {d a b s} : exec (.spawn d a b) s = execSpawn d a b s := rfl
theorem exec_bin {a b s} : exec (.bin a b) s = execBin a b s := rfl
theorem exec_collPost {d a s} : exec (.collPost d a) s = execCollPost d a s := rfl
theorem exec_collTest {d a s} : exec (.collTest d a) s = execCollTest d a s := rfl
theorem exec_collLeave {a s} : exec (.collLeave a) s = execCollLeave a s := rfl
theorem exec_mldw {d s} : exec (.mldw d) s = execMldw d s := rfl
theorem exec_mldwH {d s} : exec (.mldwH d) s = execMldwH d s := rfl
theorem exec_mmao {d a b s} : exec (.mmao d a b) s = execMmao d a b s := rfl
theorem exec_mmaoH {d a b s} : exec (.mmaoH d a b) s = execMmaoH d a b s := rfl
theorem exec_mmaw {d a b s} : exec (.mmaw d a b) s = execMmaw d a b s := rfl
theorem exec_mmawH {d a b s} : exec (.mmawH d a b) s = execMmawH d a b s := rfl
theorem exec_msho {d s} : exec (.msho d) s = execMsho d s := rfl
theorem exec_macq {d a s} : exec (.macq d a) s = execMacq d a s := rfl
theorem exec_mrel {d s} : exec (.mrel d) s = execMrel d s := rfl
theorem exec_mfuse {d s} : exec (.mfuse d) s = execMfuse d s := rfl
theorem exec_gcfg {d s} : exec (.gcfg d) s = execGcfg d s := rfl
theorem exec_lscan {d a b s} : exec (.lscan d a b) s = execLscan d a b s := rfl
theorem exec_mstatSt {d s} : exec (.mstatSt d) s = execMstatSt d s := rfl
theorem exec_mstatClr {d s} : exec (.mstatClr d) s = execMstatClr d s := rfl
theorem exec_mstatSetfmt {d s} : exec (.mstatSetfmt d) s = execMstatSetfmt d s := rfl
theorem exec_mstatGetfmt {d s} : exec (.mstatGetfmt d) s = execMstatGetfmt d s := rfl
theorem exec_mstatState {d s} : exec (.mstatState d) s = execMstatState d s := rfl
theorem exec_cbSubmit {a b s} : exec (.cbSubmit a b) s = execCbSubmit a b s := rfl
theorem exec_cbSemwait {a k s} : exec (.cbSemwait a k) s = execCbSemwait a k s := rfl
theorem exec_cbSemadd {a k s} : exec (.cbSemadd a k) s = execCbSemadd a k s := rfl
theorem exec_cbIrq {v s} : exec (.cbIrq v) s = execCbIrq v s := rfl
theorem exec_trap {k s} : exec (.trap k) s = execTrap k s := rfl
theorem exec_csrr {d n s} : exec (.csrr d n) s = execCsrr d n s := rfl
theorem exec_csrw {a n s} : exec (.csrw a n) s = execCsrw a n s := rfl
theorem exec_hmsgRead {d s} : exec (.hmsgRead d) s = execHmsgRead d s := rfl
theorem exec_tlbinv {a s} : exec (.tlbinv a) s = execTlbinv a s := rfl
theorem exec_tlbinvS2 {a s} : exec (.tlbinvS2 a) s = execTlbinvS2 a s := rfl
theorem exec_mappg {d a b s} : exec (.mappg d a b) s = execMappg d a b s := rfl
theorem exec_mdef {a b s} : exec (.mdef a b) s = execMdef a b s := rfl
theorem exec_time {d s} : exec (.time d) s = execTime d s := rfl
theorem exec_perfr {d a s} : exec (.perfr d a) s = execPerfr d a s := rfl
theorem exec_frec {d a b s} : exec (.frec d a b) s = execFrec d a b s := rfl
theorem exec_unpark {a s} : exec (.unpark a) s = execUnpark a s := rfl
theorem exec_smsg {a b s} : exec (.smsg a b) s = execSmsg a b s := rfl
theorem exec_pool {n s} : exec (.pool n) s = execPool n s := rfl
theorem exec_tcopyIn {h b a s} : exec (.tcopyIn h b a) s = execTcopyIn h b a s := rfl
theorem exec_tcopyOut {h b a s} : exec (.tcopyOut h b a) s = execTcopyOut h b a s := rfl
theorem exec_xhSet {k h b a s} : exec (.xhSet k h b a) s = execXhSet k h b a s := rfl
theorem exec_xwait {a s} : exec (.xwait a) s = execXwait a s := rfl
theorem exec_xfence {e s} : exec (.xfence e) s = execXfence e s := rfl
theorem exec_xbin {b a s} : exec (.xbin b a) s = execXbin b a s := rfl
theorem exec_xsemAdd {b a s} : exec (.xsemAdd b a) s = execXsemAdd b a s := rfl
theorem exec_xsemWait {b a s} : exec (.xsemWait b a) s = execXsemWait b a s := rfl
theorem exec_rngTkt {n d s} : exec (.rngTkt n d) s = execRngTkt n d s := rfl
theorem exec_rngPut {n a s} : exec (.rngPut n a) s = execRngPut n a s := rfl
theorem exec_rngGet {n d s} : exec (.rngGet n d) s = execRngGet n d s := rfl
theorem exec_rngRel {n s} : exec (.rngRel n) s = execRngRel n s := rfl
theorem exec_stagehandInstruction {i compressed s} : exec (.stagehandInstruction i compressed) s = execStagehandInstruction i compressed s := rfl
theorem exec_reservedEncodingWord {w s} : exec (.reservedEncodingWord w) s = execReservedEncodingWord w s := rfl
theorem exec_nop {s} : exec .nop s = execNop s := rfl
theorem exec_exit {s} : exec .exit s = execExit s := rfl
theorem exec_join {s} : exec .join s = execJoin s := rfl
theorem exec_yield {s} : exec .yield s = execYield s := rfl
theorem exec_sceneCommitComplete {s} : exec .sceneCommitComplete s = execSceneCommitComplete s := rfl
theorem exec_mflip {s} : exec .mflip s = execMflip s := rfl
theorem exec_mzero {s} : exec .mzero s = execMzero s := rfl
theorem exec_matrixWordComplete {s} : exec .matrixWordComplete s = execMatrixWordComplete s := rfl
theorem exec_handleFetchComplete {s} : exec .handleFetchComplete s = execHandleFetchComplete s := rfl
theorem exec_eret {s} : exec .eret s = execEret s := rfl
theorem exec_tlbinvAll {s} : exec .tlbinvAll s = execTlbinvAll s := rfl
theorem exec_tlbinvS2All {s} : exec .tlbinvS2All s = execTlbinvS2All s := rfl
theorem exec_smsgDeliver {s} : exec .smsgDeliver s = execSmsgDeliver s := rfl
theorem exec_halt {s} : exec .halt s = execHalt s := rfl
theorem exec_xexit {s} : exec .xexit s = execXexit s := rfl
theorem exec_stagehandTranslationFault {s} : exec .stagehandTranslationFault s = execStagehandTranslationFault s := rfl
theorem exec_usherWindowClose {s} : exec .usherWindowClose s = execUsherWindowClose s := rfl
theorem exec_coalesceEntryAgeDrain {s} : exec .coalesceEntryAgeDrain s = execCoalesceEntryAgeDrain s := rfl
theorem exec_farLoadReturn {s} : exec .farLoadReturn s = execFarLoadReturn s := rfl
theorem exec_farStorePerform {s} : exec .farStorePerform s = execFarStorePerform s := rfl
theorem exec_atomResultReturn {s} : exec .atomResultReturn s = execAtomResultReturn s := rfl
theorem exec_remoteAtomsReturn {s} : exec .remoteAtomsReturn s = execRemoteAtomsReturn s := rfl
theorem exec_tileCopyComplete {s} : exec .tileCopyComplete s = execTileCopyComplete s := rfl
theorem exec_translationWalkComplete {s} : exec .translationWalkComplete s = execTranslationWalkComplete s := rfl
theorem exec_farAccessFault {s} : exec .farAccessFault s = execFarAccessFault s := rfl
theorem exec_heldWriteRetranslate {s} : exec .heldWriteRetranslate s = execHeldWriteRetranslate s := rfl
theorem exec_queueEnable {s} : exec .queueEnable s = execQueueEnable s := rfl
theorem exec_queueDisable {s} : exec .queueDisable s = execQueueDisable s := rfl
theorem exec_qcfgConfigure {s} : exec .qcfgConfigure s = execQcfgConfigure s := rfl
theorem exec_qtailWrite {s} : exec .qtailWrite s = execQtailWrite s := rfl
theorem exec_entryAccept {s} : exec .entryAccept s = execEntryAccept s := rfl
theorem exec_qcackWrite {s} : exec .qcackWrite s = execQcackWrite s := rfl
theorem exec_completionWrite {s} : exec .completionWrite s = execCompletionWrite s := rfl
theorem exec_contextDispatch {s} : exec .contextDispatch s = execContextDispatch s := rfl
theorem exec_contextPriorityAging {s} : exec .contextPriorityAging s = execContextPriorityAging s := rfl
theorem exec_semaphoreHostWrite {s} : exec .semaphoreHostWrite s = execSemaphoreHostWrite s := rfl
theorem exec_registerWrite {s} : exec .registerWrite s = execRegisterWrite s := rfl
theorem exec_fllostClear {s} : exec .fllostClear s = execFllostClear s := rfl
theorem exec_fpstatClearDrops {s} : exec .fpstatClearDrops s = execFpstatClearDrops s := rfl
theorem exec_cpostWrite {s} : exec .cpostWrite s = execCpostWrite s := rfl
theorem exec_flashErase {s} : exec .flashErase s = execFlashErase s := rfl
theorem exec_flashProgram {s} : exec .flashProgram s = execFlashProgram s := rfl
theorem exec_flashVerify {s} : exec .flashVerify s = execFlashVerify s := rfl
theorem exec_flashResetModule {s} : exec .flashResetModule s = execFlashResetModule s := rfl
theorem exec_enterRecovery {s} : exec .enterRecovery s = execEnterRecovery s := rfl
theorem exec_flashCommandComplete {s} : exec .flashCommandComplete s = execFlashCommandComplete s := rfl
theorem exec_functionLevelReset {s} : exec .functionLevelReset s = execFunctionLevelReset s := rfl
theorem exec_busMasterEnable {s} : exec .busMasterEnable s = execBusMasterEnable s := rfl
theorem exec_moduleReset {s} : exec .moduleReset s = execModuleReset s := rfl
theorem exec_prosceniumTimeout {s} : exec .prosceniumTimeout s = execProsceniumTimeout s := rfl
theorem exec_getVersion {s} : exec .getVersion s = execGetVersion s := rfl
theorem exec_getCapabilities {s} : exec .getCapabilities s = execGetCapabilities s := rfl
theorem exec_negotiateAlgorithms {s} : exec .negotiateAlgorithms s = execNegotiateAlgorithms s := rfl
theorem exec_getDigests {s} : exec .getDigests s = execGetDigests s := rfl
theorem exec_getCertificate {s} : exec .getCertificate s = execGetCertificate s := rfl
theorem exec_challenge {s} : exec .challenge s = execChallenge s := rfl
theorem exec_getMeasurements {s} : exec .getMeasurements s = execGetMeasurements s := rfl
theorem exec_keyExchange {s} : exec .keyExchange s = execKeyExchange s := rfl
theorem exec_finish {s} : exec .finish s = execFinish s := rfl
theorem exec_endSession {s} : exec .endSession s = execEndSession s := rfl
theorem exec_tenantLoad {s} : exec .tenantLoad s = execTenantLoad s := rfl
theorem exec_partitionAddQuadrant {s} : exec .partitionAddQuadrant s = execPartitionAddQuadrant s := rfl
theorem exec_sealRequest {s} : exec .sealRequest s = execSealRequest s := rfl
theorem exec_restoreImage {s} : exec .restoreImage s = execRestoreImage s := rfl
theorem exec_authorityTimeout {s} : exec .authorityTimeout s = execAuthorityTimeout s := rfl
theorem exec_flitResend {s} : exec .flitResend s = execFlitResend s := rfl
theorem exec_dataFlit {s} : exec .dataFlit s = execDataFlit s := rfl
theorem exec_ticketFlit {s} : exec .ticketFlit s = execTicketFlit s := rfl
theorem exec_horizonFlit {s} : exec .horizonFlit s = execHorizonFlit s := rfl
theorem exec_ackFlit {s} : exec .ackFlit s = execAckFlit s := rfl
theorem exec_counterAuthorityFlit {s} : exec .counterAuthorityFlit s = execCounterAuthorityFlit s := rfl
theorem exec_managementFlit {s} : exec .managementFlit s = execManagementFlit s := rfl
theorem exec_reservedTypeFlit {s} : exec .reservedTypeFlit s = execReservedTypeFlit s := rfl
theorem exec_linkUp {s} : exec .linkUp s = execLinkUp s := rfl
theorem exec_linkDown {s} : exec .linkDown s = execLinkDown s := rfl
theorem exec_routeSwitchover {s} : exec .routeSwitchover s = execRouteSwitchover s := rfl
theorem exec_routeRetire {s} : exec .routeRetire s = execRouteRetire s := rfl
theorem exec_remapTimeout {s} : exec .remapTimeout s = execRemapTimeout s := rfl
theorem exec_forceRouteRetire {s} : exec .forceRouteRetire s = execForceRouteRetire s := rfl
theorem exec_collectiveStart {s} : exec .collectiveStart s = execCollectiveStart s := rfl
theorem exec_collectiveComplete {s} : exec .collectiveComplete s = execCollectiveComplete s := rfl
theorem exec_collectiveAbort {s} : exec .collectiveAbort s = execCollectiveAbort s := rfl
theorem exec_collectiveTimeout {s} : exec .collectiveTimeout s = execCollectiveTimeout s := rfl
theorem exec_homeSwitchTimeout {s} : exec .homeSwitchTimeout s = execHomeSwitchTimeout s := rfl
theorem exec_nestSlotEntry {s} : exec .nestSlotEntry s = execNestSlotEntry s := rfl
theorem exec_rowActivate {s} : exec .rowActivate s = execRowActivate s := rfl
theorem exec_pointRelease {s} : exec .pointRelease s = execPointRelease s := rfl
theorem exec_stagehandStart {s} : exec .stagehandStart s = execStagehandStart s := rfl
theorem exec_pointRetire {s} : exec .pointRetire s = execPointRetire s := rfl
theorem exec_nestStopSlotFree {s} : exec .nestStopSlotFree s = execNestStopSlotFree s := rfl
theorem exec_preemptRequest {s} : exec .preemptRequest s = execPreemptRequest s := rfl
theorem exec_saveComplete {s} : exec .saveComplete s = execSaveComplete s := rfl
theorem exec_saveWriteFault {s} : exec .saveWriteFault s = execSaveWriteFault s := rfl
theorem exec_saveRetry {s} : exec .saveRetry s = execSaveRetry s := rfl
theorem exec_drainTimeout {s} : exec .drainTimeout s = execDrainTimeout s := rfl
theorem exec_restorePoint {s} : exec .restorePoint s = execRestorePoint s := rfl
theorem exec_budgetTick {s} : exec .budgetTick s = execBudgetTick s := rfl
theorem exec_watchdogExpire {s} : exec .watchdogExpire s = execWatchdogExpire s := rfl
theorem exec_sensorRefresh {s} : exec .sensorRefresh s = execSensorRefresh s := rfl
theorem exec_powerDidtSkip {s} : exec .powerDidtSkip s = execPowerDidtSkip s := rfl
theorem exec_clockStopOvertemp {s} : exec .clockStopOvertemp s = execClockStopOvertemp s := rfl
theorem exec_clockRestart {s} : exec .clockRestart s = execClockRestart s := rfl
theorem exec_droopSkipEnd {s} : exec .droopSkipEnd s = execDroopSkipEnd s := rfl
theorem exec_copyStart {s} : exec .copyStart s = execCopyStart s := rfl
theorem exec_copyComplete {s} : exec .copyComplete s = execCopyComplete s := rfl
theorem exec_copyFault {s} : exec .copyFault s = execCopyFault s := rfl
theorem exec_correctableError {s} : exec .correctableError s = execCorrectableError s := rfl
theorem exec_uncorrectableError {s} : exec .uncorrectableError s = execUncorrectableError s := rfl
theorem exec_binAdditionPerformed {s} : exec .binAdditionPerformed s = execBinAdditionPerformed s := rfl
theorem exec_semaphoreAddAcknowledge {s} : exec .semaphoreAddAcknowledge s = execSemaphoreAddAcknowledge s := rfl
theorem exec_recordPresented {s} : exec .recordPresented s = execRecordPresented s := rfl
theorem exec_mappgComplete {s} : exec .mappgComplete s = execMappgComplete s := rfl
theorem exec_mdefComplete {s} : exec .mdefComplete s = execMdefComplete s := rfl
theorem exec_pageMoveStart {s} : exec .pageMoveStart s = execPageMoveStart s := rfl
theorem exec_partitionFaultClear {s} : exec .partitionFaultClear s = execPartitionFaultClear s := rfl
theorem exec_stage2CannotRepair {s} : exec .stage2CannotRepair s = execStage2CannotRepair s := rfl
theorem exec_sliceStart {s} : exec .sliceStart s = execSliceStart s := rfl
theorem exec_expanderAddedOrRemoved {s} : exec .expanderAddedOrRemoved s = execExpanderAddedOrRemoved s := rfl
theorem exec_referenceClockLoss {s} : exec .referenceClockLoss s = execReferenceClockLoss s := rfl

end Sys2Proof.Machine
end

