-- ==== Sys2Proof/Laws/State.lean ====
section
/-! SUPPORT. What each update of the state leaves as it is, one lemma for each field, and what the tables hold after a
change. -/

namespace Sys2Proof

/-! ### Tables -/

section Tables

variable {κ α : Type} [DecidableEq κ]

@[simp] theorem Map.find_put (k : κ) (x : α) (m : Map κ α) : (m.put k x).find k = some x := by
  induction m with
  | nil => simp [Map.put, Map.find]
  | cons e m ih =>
    rw [Map.put]
    split
    · simp [Map.find]
    · rename_i h
      rw [Map.find, if_neg h, ih]

theorem Map.find_put_ne {j k : κ} (h : j ≠ k) (x : α) (m : Map κ α) : (m.put k x).find j = m.find j := by
  induction m with
  | nil => simp [Map.put, Map.find, Ne.symm h]
  | cons e m ih =>
    rw [Map.put]
    split
    · rename_i hk
      rw [Map.find, Map.find, if_neg (Ne.symm h), if_neg (hk ▸ Ne.symm h)]
    · rw [Map.find, Map.find, ih]

theorem Map.find_drop (k : κ) (m : Map κ α) : (m.drop k).find k = none := by
  induction m with
  | nil => rfl
  | cons e m ih =>
    rw [Map.drop]
    split
    · exact ih
    · rename_i h
      rw [Map.find, if_neg h, ih]

theorem Map.find_drop_ne {j k : κ} (h : j ≠ k) (m : Map κ α) : (m.drop k).find j = m.find j := by
  induction m with
  | nil => rfl
  | cons e m ih =>
    rw [Map.drop]
    split
    · rename_i hk
      rw [Map.find, if_neg (hk ▸ Ne.symm h), ih]
    · rw [Map.find, Map.find, ih]

end Tables

end Sys2Proof

namespace Sys2Proof.Machine

variable (s : State)


/-! ### State.setCtx -/

@[simp] theorem State.setCtx_cycle (u : UnitId) (c : Ctx) : (s.setCtx u c).cycle = s.cycle := rfl
@[simp] theorem State.setCtx_dt (u : UnitId) (c : Ctx) : (s.setCtx u c).dt = s.dt := rfl
@[simp] theorem State.setCtx_cur (u : UnitId) (c : Ctx) : (s.setCtx u c).cur = s.cur := rfl
@[simp] theorem State.setCtx_agenda (u : UnitId) (c : Ctx) : (s.setCtx u c).agenda = s.agenda := rfl
@[simp] theorem State.setCtx_ev (u : UnitId) (c : Ctx) : (s.setCtx u c).ev = s.ev := rfl
@[simp] theorem State.setCtx_issueQ (u : UnitId) (c : Ctx) : (s.setCtx u c).issueQ = s.issueQ := rfl
@[simp] theorem State.setCtx_scheduled (u : UnitId) (c : Ctx) : (s.setCtx u c).scheduled = s.scheduled := rfl
@[simp] theorem State.setCtx_nestTurn (u : UnitId) (c : Ctx) : (s.setCtx u c).nestTurn = s.nestTurn := rfl
@[simp] theorem State.setCtx_inputs (u : UnitId) (c : Ctx) : (s.setCtx u c).inputs = s.inputs := rfl
@[simp] theorem State.setCtx_due (u : UnitId) (c : Ctx) : (s.setCtx u c).due = s.due := rfl
@[simp] theorem State.setCtx_fresh (u : UnitId) (c : Ctx) : (s.setCtx u c).fresh = s.fresh := rfl
@[simp] theorem State.setCtx_stamp (u : UnitId) (c : Ctx) : (s.setCtx u c).stamp = s.stamp := rfl
@[simp] theorem State.setCtx_hands (u : UnitId) (c : Ctx) : (s.setCtx u c).hands = s.hands := rfl
@[simp] theorem State.setCtx_troupes (u : UnitId) (c : Ctx) : (s.setCtx u c).troupes = s.troupes := rfl
@[simp] theorem State.setCtx_quads (u : UnitId) (c : Ctx) : (s.setCtx u c).quads = s.quads := rfl
@[simp] theorem State.setCtx_fars (u : UnitId) (c : Ctx) : (s.setCtx u c).fars = s.fars := rfl
@[simp] theorem State.setCtx_vdis (u : UnitId) (c : Ctx) : (s.setCtx u c).vdis = s.vdis := rfl
@[simp] theorem State.setCtx_nests (u : UnitId) (c : Ctx) : (s.setCtx u c).nests = s.nests := rfl
@[simp] theorem State.setCtx_gens (u : UnitId) (c : Ctx) : (s.setCtx u c).gens = s.gens := rfl
@[simp] theorem State.setCtx_rr (u : UnitId) (c : Ctx) : (s.setCtx u c).rr = s.rr := rfl
@[simp] theorem State.setCtx_points (u : UnitId) (c : Ctx) : (s.setCtx u c).points = s.points := rfl
@[simp] theorem State.setCtx_sems (u : UnitId) (c : Ctx) : (s.setCtx u c).sems = s.sems := rfl
@[simp] theorem State.setCtx_bins (u : UnitId) (c : Ctx) : (s.setCtx u c).bins = s.bins := rfl
@[simp] theorem State.setCtx_mem (u : UnitId) (c : Ctx) : (s.setCtx u c).mem = s.mem := rfl
@[simp] theorem State.setCtx_scratch (u : UnitId) (c : Ctx) : (s.setCtx u c).scratch = s.scratch := rfl
@[simp] theorem State.setCtx_hostMem (u : UnitId) (c : Ctx) : (s.setCtx u c).hostMem = s.hostMem := rfl
@[simp] theorem State.setCtx_poison (u : UnitId) (c : Ctx) : (s.setCtx u c).poison = s.poison := rfl
@[simp] theorem State.setCtx_scratchPoison (u : UnitId) (c : Ctx) : (s.setCtx u c).scratchPoison = s.scratchPoison := rfl
@[simp] theorem State.setCtx_corrected (u : UnitId) (c : Ctx) : (s.setCtx u c).corrected = s.corrected := rfl
@[simp] theorem State.setCtx_tlb (u : UnitId) (c : Ctx) : (s.setCtx u c).tlb = s.tlb := rfl
@[simp] theorem State.setCtx_moves (u : UnitId) (c : Ctx) : (s.setCtx u c).moves = s.moves := rfl
@[simp] theorem State.setCtx_engines (u : UnitId) (c : Ctx) : (s.setCtx u c).engines = s.engines := rfl
@[simp] theorem State.setCtx_coll (u : UnitId) (c : Ctx) : (s.setCtx u c).coll = s.coll := rfl
@[simp] theorem State.setCtx_fabric (u : UnitId) (c : Ctx) : (s.setCtx u c).fabric = s.fabric := rfl
@[simp] theorem State.setCtx_secure (u : UnitId) (c : Ctx) : (s.setCtx u c).secure = s.secure := rfl
@[simp] theorem State.setCtx_flash (u : UnitId) (c : Ctx) : (s.setCtx u c).flash = s.flash := rfl
@[simp] theorem State.setCtx_sensors (u : UnitId) (c : Ctx) : (s.setCtx u c).sensors = s.sensors := rfl
@[simp] theorem State.setCtx_stopped (u : UnitId) (c : Ctx) : (s.setCtx u c).stopped = s.stopped := rfl
@[simp] theorem State.setCtx_skipping (u : UnitId) (c : Ctx) : (s.setCtx u c).skipping = s.skipping := rfl
@[simp] theorem State.setCtx_limits (u : UnitId) (c : Ctx) : (s.setCtx u c).limits = s.limits := rfl
@[simp] theorem State.setCtx_expanders (u : UnitId) (c : Ctx) : (s.setCtx u c).expanders = s.expanders := rfl
@[simp] theorem State.setCtx_refLost (u : UnitId) (c : Ctx) : (s.setCtx u c).refLost = s.refLost := rfl
@[simp] theorem State.setCtx_sending (u : UnitId) (c : Ctx) : (s.setCtx u c).sending = s.sending := rfl
@[simp] theorem State.setCtx_records (u : UnitId) (c : Ctx) : (s.setCtx u c).records = s.records := rfl

/-! ### State.setQuad -/

@[simp] theorem State.setQuad_cycle (k : Nat) (q : Quad) : (s.setQuad k q).cycle = s.cycle := rfl
@[simp] theorem State.setQuad_dt (k : Nat) (q : Quad) : (s.setQuad k q).dt = s.dt := rfl
@[simp] theorem State.setQuad_cur (k : Nat) (q : Quad) : (s.setQuad k q).cur = s.cur := rfl
@[simp] theorem State.setQuad_agenda (k : Nat) (q : Quad) : (s.setQuad k q).agenda = s.agenda := rfl
@[simp] theorem State.setQuad_ev (k : Nat) (q : Quad) : (s.setQuad k q).ev = s.ev := rfl
@[simp] theorem State.setQuad_issueQ (k : Nat) (q : Quad) : (s.setQuad k q).issueQ = s.issueQ := rfl
@[simp] theorem State.setQuad_scheduled (k : Nat) (q : Quad) : (s.setQuad k q).scheduled = s.scheduled := rfl
@[simp] theorem State.setQuad_nestTurn (k : Nat) (q : Quad) : (s.setQuad k q).nestTurn = s.nestTurn := rfl
@[simp] theorem State.setQuad_inputs (k : Nat) (q : Quad) : (s.setQuad k q).inputs = s.inputs := rfl
@[simp] theorem State.setQuad_due (k : Nat) (q : Quad) : (s.setQuad k q).due = s.due := rfl
@[simp] theorem State.setQuad_fresh (k : Nat) (q : Quad) : (s.setQuad k q).fresh = s.fresh := rfl
@[simp] theorem State.setQuad_stamp (k : Nat) (q : Quad) : (s.setQuad k q).stamp = s.stamp := rfl
@[simp] theorem State.setQuad_ctxs (k : Nat) (q : Quad) : (s.setQuad k q).ctxs = s.ctxs := rfl
@[simp] theorem State.setQuad_hands (k : Nat) (q : Quad) : (s.setQuad k q).hands = s.hands := rfl
@[simp] theorem State.setQuad_troupes (k : Nat) (q : Quad) : (s.setQuad k q).troupes = s.troupes := rfl
@[simp] theorem State.setQuad_fars (k : Nat) (q : Quad) : (s.setQuad k q).fars = s.fars := rfl
@[simp] theorem State.setQuad_vdis (k : Nat) (q : Quad) : (s.setQuad k q).vdis = s.vdis := rfl
@[simp] theorem State.setQuad_nests (k : Nat) (q : Quad) : (s.setQuad k q).nests = s.nests := rfl
@[simp] theorem State.setQuad_gens (k : Nat) (q : Quad) : (s.setQuad k q).gens = s.gens := rfl
@[simp] theorem State.setQuad_rr (k : Nat) (q : Quad) : (s.setQuad k q).rr = s.rr := rfl
@[simp] theorem State.setQuad_points (k : Nat) (q : Quad) : (s.setQuad k q).points = s.points := rfl
@[simp] theorem State.setQuad_sems (k : Nat) (q : Quad) : (s.setQuad k q).sems = s.sems := rfl
@[simp] theorem State.setQuad_bins (k : Nat) (q : Quad) : (s.setQuad k q).bins = s.bins := rfl
@[simp] theorem State.setQuad_mem (k : Nat) (q : Quad) : (s.setQuad k q).mem = s.mem := rfl
@[simp] theorem State.setQuad_scratch (k : Nat) (q : Quad) : (s.setQuad k q).scratch = s.scratch := rfl
@[simp] theorem State.setQuad_hostMem (k : Nat) (q : Quad) : (s.setQuad k q).hostMem = s.hostMem := rfl
@[simp] theorem State.setQuad_poison (k : Nat) (q : Quad) : (s.setQuad k q).poison = s.poison := rfl
@[simp] theorem State.setQuad_scratchPoison (k : Nat) (q : Quad) : (s.setQuad k q).scratchPoison = s.scratchPoison := rfl
@[simp] theorem State.setQuad_corrected (k : Nat) (q : Quad) : (s.setQuad k q).corrected = s.corrected := rfl
@[simp] theorem State.setQuad_tlb (k : Nat) (q : Quad) : (s.setQuad k q).tlb = s.tlb := rfl
@[simp] theorem State.setQuad_moves (k : Nat) (q : Quad) : (s.setQuad k q).moves = s.moves := rfl
@[simp] theorem State.setQuad_engines (k : Nat) (q : Quad) : (s.setQuad k q).engines = s.engines := rfl
@[simp] theorem State.setQuad_coll (k : Nat) (q : Quad) : (s.setQuad k q).coll = s.coll := rfl
@[simp] theorem State.setQuad_fabric (k : Nat) (q : Quad) : (s.setQuad k q).fabric = s.fabric := rfl
@[simp] theorem State.setQuad_secure (k : Nat) (q : Quad) : (s.setQuad k q).secure = s.secure := rfl
@[simp] theorem State.setQuad_flash (k : Nat) (q : Quad) : (s.setQuad k q).flash = s.flash := rfl
@[simp] theorem State.setQuad_sensors (k : Nat) (q : Quad) : (s.setQuad k q).sensors = s.sensors := rfl
@[simp] theorem State.setQuad_stopped (k : Nat) (q : Quad) : (s.setQuad k q).stopped = s.stopped := rfl
@[simp] theorem State.setQuad_skipping (k : Nat) (q : Quad) : (s.setQuad k q).skipping = s.skipping := rfl
@[simp] theorem State.setQuad_limits (k : Nat) (q : Quad) : (s.setQuad k q).limits = s.limits := rfl
@[simp] theorem State.setQuad_expanders (k : Nat) (q : Quad) : (s.setQuad k q).expanders = s.expanders := rfl
@[simp] theorem State.setQuad_refLost (k : Nat) (q : Quad) : (s.setQuad k q).refLost = s.refLost := rfl
@[simp] theorem State.setQuad_sending (k : Nat) (q : Quad) : (s.setQuad k q).sending = s.sending := rfl
@[simp] theorem State.setQuad_records (k : Nat) (q : Quad) : (s.setQuad k q).records = s.records := rfl

/-! ### State.soon -/

@[simp] theorem State.soon_cycle (e : Event) : (s.soon e).cycle = s.cycle := rfl
@[simp] theorem State.soon_dt (e : Event) : (s.soon e).dt = s.dt := rfl
@[simp] theorem State.soon_cur (e : Event) : (s.soon e).cur = s.cur := rfl
@[simp] theorem State.soon_ev (e : Event) : (s.soon e).ev = s.ev := rfl
@[simp] theorem State.soon_issueQ (e : Event) : (s.soon e).issueQ = s.issueQ := rfl
@[simp] theorem State.soon_scheduled (e : Event) : (s.soon e).scheduled = s.scheduled := rfl
@[simp] theorem State.soon_nestTurn (e : Event) : (s.soon e).nestTurn = s.nestTurn := rfl
@[simp] theorem State.soon_inputs (e : Event) : (s.soon e).inputs = s.inputs := rfl
@[simp] theorem State.soon_due (e : Event) : (s.soon e).due = s.due := rfl
@[simp] theorem State.soon_fresh (e : Event) : (s.soon e).fresh = s.fresh := rfl
@[simp] theorem State.soon_stamp (e : Event) : (s.soon e).stamp = s.stamp := rfl
@[simp] theorem State.soon_ctxs (e : Event) : (s.soon e).ctxs = s.ctxs := rfl
@[simp] theorem State.soon_hands (e : Event) : (s.soon e).hands = s.hands := rfl
@[simp] theorem State.soon_troupes (e : Event) : (s.soon e).troupes = s.troupes := rfl
@[simp] theorem State.soon_quads (e : Event) : (s.soon e).quads = s.quads := rfl
@[simp] theorem State.soon_fars (e : Event) : (s.soon e).fars = s.fars := rfl
@[simp] theorem State.soon_vdis (e : Event) : (s.soon e).vdis = s.vdis := rfl
@[simp] theorem State.soon_nests (e : Event) : (s.soon e).nests = s.nests := rfl
@[simp] theorem State.soon_gens (e : Event) : (s.soon e).gens = s.gens := rfl
@[simp] theorem State.soon_rr (e : Event) : (s.soon e).rr = s.rr := rfl
@[simp] theorem State.soon_points (e : Event) : (s.soon e).points = s.points := rfl
@[simp] theorem State.soon_sems (e : Event) : (s.soon e).sems = s.sems := rfl
@[simp] theorem State.soon_bins (e : Event) : (s.soon e).bins = s.bins := rfl
@[simp] theorem State.soon_mem (e : Event) : (s.soon e).mem = s.mem := rfl
@[simp] theorem State.soon_scratch (e : Event) : (s.soon e).scratch = s.scratch := rfl
@[simp] theorem State.soon_hostMem (e : Event) : (s.soon e).hostMem = s.hostMem := rfl
@[simp] theorem State.soon_poison (e : Event) : (s.soon e).poison = s.poison := rfl
@[simp] theorem State.soon_scratchPoison (e : Event) : (s.soon e).scratchPoison = s.scratchPoison := rfl
@[simp] theorem State.soon_corrected (e : Event) : (s.soon e).corrected = s.corrected := rfl
@[simp] theorem State.soon_tlb (e : Event) : (s.soon e).tlb = s.tlb := rfl
@[simp] theorem State.soon_moves (e : Event) : (s.soon e).moves = s.moves := rfl
@[simp] theorem State.soon_engines (e : Event) : (s.soon e).engines = s.engines := rfl
@[simp] theorem State.soon_coll (e : Event) : (s.soon e).coll = s.coll := rfl
@[simp] theorem State.soon_fabric (e : Event) : (s.soon e).fabric = s.fabric := rfl
@[simp] theorem State.soon_secure (e : Event) : (s.soon e).secure = s.secure := rfl
@[simp] theorem State.soon_flash (e : Event) : (s.soon e).flash = s.flash := rfl
@[simp] theorem State.soon_sensors (e : Event) : (s.soon e).sensors = s.sensors := rfl
@[simp] theorem State.soon_stopped (e : Event) : (s.soon e).stopped = s.stopped := rfl
@[simp] theorem State.soon_skipping (e : Event) : (s.soon e).skipping = s.skipping := rfl
@[simp] theorem State.soon_limits (e : Event) : (s.soon e).limits = s.limits := rfl
@[simp] theorem State.soon_expanders (e : Event) : (s.soon e).expanders = s.expanders := rfl
@[simp] theorem State.soon_refLost (e : Event) : (s.soon e).refLost = s.refLost := rfl
@[simp] theorem State.soon_sending (e : Event) : (s.soon e).sending = s.sending := rfl
@[simp] theorem State.soon_records (e : Event) : (s.soon e).records = s.records := rfl

/-! ### State.later -/

@[simp] theorem State.later_cycle (e : Event) : (s.later e).cycle = s.cycle := rfl
@[simp] theorem State.later_dt (e : Event) : (s.later e).dt = s.dt := rfl
@[simp] theorem State.later_cur (e : Event) : (s.later e).cur = s.cur := rfl
@[simp] theorem State.later_agenda (e : Event) : (s.later e).agenda = s.agenda := rfl
@[simp] theorem State.later_ev (e : Event) : (s.later e).ev = s.ev := rfl
@[simp] theorem State.later_issueQ (e : Event) : (s.later e).issueQ = s.issueQ := rfl
@[simp] theorem State.later_scheduled (e : Event) : (s.later e).scheduled = s.scheduled := rfl
@[simp] theorem State.later_nestTurn (e : Event) : (s.later e).nestTurn = s.nestTurn := rfl
@[simp] theorem State.later_inputs (e : Event) : (s.later e).inputs = s.inputs := rfl
@[simp] theorem State.later_stamp (e : Event) : (s.later e).stamp = s.stamp := rfl
@[simp] theorem State.later_ctxs (e : Event) : (s.later e).ctxs = s.ctxs := rfl
@[simp] theorem State.later_hands (e : Event) : (s.later e).hands = s.hands := rfl
@[simp] theorem State.later_troupes (e : Event) : (s.later e).troupes = s.troupes := rfl
@[simp] theorem State.later_quads (e : Event) : (s.later e).quads = s.quads := rfl
@[simp] theorem State.later_fars (e : Event) : (s.later e).fars = s.fars := rfl
@[simp] theorem State.later_vdis (e : Event) : (s.later e).vdis = s.vdis := rfl
@[simp] theorem State.later_nests (e : Event) : (s.later e).nests = s.nests := rfl
@[simp] theorem State.later_gens (e : Event) : (s.later e).gens = s.gens := rfl
@[simp] theorem State.later_rr (e : Event) : (s.later e).rr = s.rr := rfl
@[simp] theorem State.later_points (e : Event) : (s.later e).points = s.points := rfl
@[simp] theorem State.later_sems (e : Event) : (s.later e).sems = s.sems := rfl
@[simp] theorem State.later_bins (e : Event) : (s.later e).bins = s.bins := rfl
@[simp] theorem State.later_mem (e : Event) : (s.later e).mem = s.mem := rfl
@[simp] theorem State.later_scratch (e : Event) : (s.later e).scratch = s.scratch := rfl
@[simp] theorem State.later_hostMem (e : Event) : (s.later e).hostMem = s.hostMem := rfl
@[simp] theorem State.later_poison (e : Event) : (s.later e).poison = s.poison := rfl
@[simp] theorem State.later_scratchPoison (e : Event) : (s.later e).scratchPoison = s.scratchPoison := rfl
@[simp] theorem State.later_corrected (e : Event) : (s.later e).corrected = s.corrected := rfl
@[simp] theorem State.later_tlb (e : Event) : (s.later e).tlb = s.tlb := rfl
@[simp] theorem State.later_moves (e : Event) : (s.later e).moves = s.moves := rfl
@[simp] theorem State.later_engines (e : Event) : (s.later e).engines = s.engines := rfl
@[simp] theorem State.later_coll (e : Event) : (s.later e).coll = s.coll := rfl
@[simp] theorem State.later_fabric (e : Event) : (s.later e).fabric = s.fabric := rfl
@[simp] theorem State.later_secure (e : Event) : (s.later e).secure = s.secure := rfl
@[simp] theorem State.later_flash (e : Event) : (s.later e).flash = s.flash := rfl
@[simp] theorem State.later_sensors (e : Event) : (s.later e).sensors = s.sensors := rfl
@[simp] theorem State.later_stopped (e : Event) : (s.later e).stopped = s.stopped := rfl
@[simp] theorem State.later_skipping (e : Event) : (s.later e).skipping = s.skipping := rfl
@[simp] theorem State.later_limits (e : Event) : (s.later e).limits = s.limits := rfl
@[simp] theorem State.later_expanders (e : Event) : (s.later e).expanders = s.expanders := rfl
@[simp] theorem State.later_refLost (e : Event) : (s.later e).refLost = s.refLost := rfl
@[simp] theorem State.later_sending (e : Event) : (s.later e).sending = s.sending := rfl
@[simp] theorem State.later_records (e : Event) : (s.later e).records = s.records := rfl

/-! ### State.atCycle -/

@[simp] theorem State.atCycle_cycle (k : Nat) (e : Event) : (s.atCycle k e).cycle = s.cycle := rfl
@[simp] theorem State.atCycle_dt (k : Nat) (e : Event) : (s.atCycle k e).dt = s.dt := rfl
@[simp] theorem State.atCycle_cur (k : Nat) (e : Event) : (s.atCycle k e).cur = s.cur := rfl
@[simp] theorem State.atCycle_agenda (k : Nat) (e : Event) : (s.atCycle k e).agenda = s.agenda := rfl
@[simp] theorem State.atCycle_ev (k : Nat) (e : Event) : (s.atCycle k e).ev = s.ev := rfl
@[simp] theorem State.atCycle_issueQ (k : Nat) (e : Event) : (s.atCycle k e).issueQ = s.issueQ := rfl
@[simp] theorem State.atCycle_scheduled (k : Nat) (e : Event) : (s.atCycle k e).scheduled = s.scheduled := rfl
@[simp] theorem State.atCycle_nestTurn (k : Nat) (e : Event) : (s.atCycle k e).nestTurn = s.nestTurn := rfl
@[simp] theorem State.atCycle_inputs (k : Nat) (e : Event) : (s.atCycle k e).inputs = s.inputs := rfl
@[simp] theorem State.atCycle_fresh (k : Nat) (e : Event) : (s.atCycle k e).fresh = s.fresh := rfl
@[simp] theorem State.atCycle_stamp (k : Nat) (e : Event) : (s.atCycle k e).stamp = s.stamp := rfl
@[simp] theorem State.atCycle_ctxs (k : Nat) (e : Event) : (s.atCycle k e).ctxs = s.ctxs := rfl
@[simp] theorem State.atCycle_hands (k : Nat) (e : Event) : (s.atCycle k e).hands = s.hands := rfl
@[simp] theorem State.atCycle_troupes (k : Nat) (e : Event) : (s.atCycle k e).troupes = s.troupes := rfl
@[simp] theorem State.atCycle_quads (k : Nat) (e : Event) : (s.atCycle k e).quads = s.quads := rfl
@[simp] theorem State.atCycle_fars (k : Nat) (e : Event) : (s.atCycle k e).fars = s.fars := rfl
@[simp] theorem State.atCycle_vdis (k : Nat) (e : Event) : (s.atCycle k e).vdis = s.vdis := rfl
@[simp] theorem State.atCycle_nests (k : Nat) (e : Event) : (s.atCycle k e).nests = s.nests := rfl
@[simp] theorem State.atCycle_gens (k : Nat) (e : Event) : (s.atCycle k e).gens = s.gens := rfl
@[simp] theorem State.atCycle_rr (k : Nat) (e : Event) : (s.atCycle k e).rr = s.rr := rfl
@[simp] theorem State.atCycle_points (k : Nat) (e : Event) : (s.atCycle k e).points = s.points := rfl
@[simp] theorem State.atCycle_sems (k : Nat) (e : Event) : (s.atCycle k e).sems = s.sems := rfl
@[simp] theorem State.atCycle_bins (k : Nat) (e : Event) : (s.atCycle k e).bins = s.bins := rfl
@[simp] theorem State.atCycle_mem (k : Nat) (e : Event) : (s.atCycle k e).mem = s.mem := rfl
@[simp] theorem State.atCycle_scratch (k : Nat) (e : Event) : (s.atCycle k e).scratch = s.scratch := rfl
@[simp] theorem State.atCycle_hostMem (k : Nat) (e : Event) : (s.atCycle k e).hostMem = s.hostMem := rfl
@[simp] theorem State.atCycle_poison (k : Nat) (e : Event) : (s.atCycle k e).poison = s.poison := rfl
@[simp] theorem State.atCycle_scratchPoison (k : Nat) (e : Event) : (s.atCycle k e).scratchPoison = s.scratchPoison := rfl
@[simp] theorem State.atCycle_corrected (k : Nat) (e : Event) : (s.atCycle k e).corrected = s.corrected := rfl
@[simp] theorem State.atCycle_tlb (k : Nat) (e : Event) : (s.atCycle k e).tlb = s.tlb := rfl
@[simp] theorem State.atCycle_moves (k : Nat) (e : Event) : (s.atCycle k e).moves = s.moves := rfl
@[simp] theorem State.atCycle_engines (k : Nat) (e : Event) : (s.atCycle k e).engines = s.engines := rfl
@[simp] theorem State.atCycle_coll (k : Nat) (e : Event) : (s.atCycle k e).coll = s.coll := rfl
@[simp] theorem State.atCycle_fabric (k : Nat) (e : Event) : (s.atCycle k e).fabric = s.fabric := rfl
@[simp] theorem State.atCycle_secure (k : Nat) (e : Event) : (s.atCycle k e).secure = s.secure := rfl
@[simp] theorem State.atCycle_flash (k : Nat) (e : Event) : (s.atCycle k e).flash = s.flash := rfl
@[simp] theorem State.atCycle_sensors (k : Nat) (e : Event) : (s.atCycle k e).sensors = s.sensors := rfl
@[simp] theorem State.atCycle_stopped (k : Nat) (e : Event) : (s.atCycle k e).stopped = s.stopped := rfl
@[simp] theorem State.atCycle_skipping (k : Nat) (e : Event) : (s.atCycle k e).skipping = s.skipping := rfl
@[simp] theorem State.atCycle_limits (k : Nat) (e : Event) : (s.atCycle k e).limits = s.limits := rfl
@[simp] theorem State.atCycle_expanders (k : Nat) (e : Event) : (s.atCycle k e).expanders = s.expanders := rfl
@[simp] theorem State.atCycle_refLost (k : Nat) (e : Event) : (s.atCycle k e).refLost = s.refLost := rfl
@[simp] theorem State.atCycle_sending (k : Nat) (e : Event) : (s.atCycle k e).sending = s.sending := rfl
@[simp] theorem State.atCycle_records (k : Nat) (e : Event) : (s.atCycle k e).records = s.records := rfl

/-! ### State.onFar -/

@[simp] theorem State.onFar_cycle (k : Nat) (f : FarOp → FarOp) : (s.onFar k f).cycle = s.cycle := rfl
@[simp] theorem State.onFar_dt (k : Nat) (f : FarOp → FarOp) : (s.onFar k f).dt = s.dt := rfl
@[simp] theorem State.onFar_cur (k : Nat) (f : FarOp → FarOp) : (s.onFar k f).cur = s.cur := rfl
@[simp] theorem State.onFar_agenda (k : Nat) (f : FarOp → FarOp) : (s.onFar k f).agenda = s.agenda := rfl
@[simp] theorem State.onFar_ev (k : Nat) (f : FarOp → FarOp) : (s.onFar k f).ev = s.ev := rfl
@[simp] theorem State.onFar_issueQ (k : Nat) (f : FarOp → FarOp) : (s.onFar k f).issueQ = s.issueQ := rfl
@[simp] theorem State.onFar_scheduled (k : Nat) (f : FarOp → FarOp) : (s.onFar k f).scheduled = s.scheduled := rfl
@[simp] theorem State.onFar_nestTurn (k : Nat) (f : FarOp → FarOp) : (s.onFar k f).nestTurn = s.nestTurn := rfl
@[simp] theorem State.onFar_inputs (k : Nat) (f : FarOp → FarOp) : (s.onFar k f).inputs = s.inputs := rfl
@[simp] theorem State.onFar_due (k : Nat) (f : FarOp → FarOp) : (s.onFar k f).due = s.due := rfl
@[simp] theorem State.onFar_fresh (k : Nat) (f : FarOp → FarOp) : (s.onFar k f).fresh = s.fresh := rfl
@[simp] theorem State.onFar_stamp (k : Nat) (f : FarOp → FarOp) : (s.onFar k f).stamp = s.stamp := rfl
@[simp] theorem State.onFar_ctxs (k : Nat) (f : FarOp → FarOp) : (s.onFar k f).ctxs = s.ctxs := rfl
@[simp] theorem State.onFar_hands (k : Nat) (f : FarOp → FarOp) : (s.onFar k f).hands = s.hands := rfl
@[simp] theorem State.onFar_troupes (k : Nat) (f : FarOp → FarOp) : (s.onFar k f).troupes = s.troupes := rfl
@[simp] theorem State.onFar_quads (k : Nat) (f : FarOp → FarOp) : (s.onFar k f).quads = s.quads := rfl
@[simp] theorem State.onFar_vdis (k : Nat) (f : FarOp → FarOp) : (s.onFar k f).vdis = s.vdis := rfl
@[simp] theorem State.onFar_nests (k : Nat) (f : FarOp → FarOp) : (s.onFar k f).nests = s.nests := rfl
@[simp] theorem State.onFar_gens (k : Nat) (f : FarOp → FarOp) : (s.onFar k f).gens = s.gens := rfl
@[simp] theorem State.onFar_rr (k : Nat) (f : FarOp → FarOp) : (s.onFar k f).rr = s.rr := rfl
@[simp] theorem State.onFar_points (k : Nat) (f : FarOp → FarOp) : (s.onFar k f).points = s.points := rfl
@[simp] theorem State.onFar_sems (k : Nat) (f : FarOp → FarOp) : (s.onFar k f).sems = s.sems := rfl
@[simp] theorem State.onFar_bins (k : Nat) (f : FarOp → FarOp) : (s.onFar k f).bins = s.bins := rfl
@[simp] theorem State.onFar_mem (k : Nat) (f : FarOp → FarOp) : (s.onFar k f).mem = s.mem := rfl
@[simp] theorem State.onFar_scratch (k : Nat) (f : FarOp → FarOp) : (s.onFar k f).scratch = s.scratch := rfl
@[simp] theorem State.onFar_hostMem (k : Nat) (f : FarOp → FarOp) : (s.onFar k f).hostMem = s.hostMem := rfl
@[simp] theorem State.onFar_poison (k : Nat) (f : FarOp → FarOp) : (s.onFar k f).poison = s.poison := rfl
@[simp] theorem State.onFar_scratchPoison (k : Nat) (f : FarOp → FarOp) : (s.onFar k f).scratchPoison = s.scratchPoison := rfl
@[simp] theorem State.onFar_corrected (k : Nat) (f : FarOp → FarOp) : (s.onFar k f).corrected = s.corrected := rfl
@[simp] theorem State.onFar_tlb (k : Nat) (f : FarOp → FarOp) : (s.onFar k f).tlb = s.tlb := rfl
@[simp] theorem State.onFar_moves (k : Nat) (f : FarOp → FarOp) : (s.onFar k f).moves = s.moves := rfl
@[simp] theorem State.onFar_engines (k : Nat) (f : FarOp → FarOp) : (s.onFar k f).engines = s.engines := rfl
@[simp] theorem State.onFar_coll (k : Nat) (f : FarOp → FarOp) : (s.onFar k f).coll = s.coll := rfl
@[simp] theorem State.onFar_fabric (k : Nat) (f : FarOp → FarOp) : (s.onFar k f).fabric = s.fabric := rfl
@[simp] theorem State.onFar_secure (k : Nat) (f : FarOp → FarOp) : (s.onFar k f).secure = s.secure := rfl
@[simp] theorem State.onFar_flash (k : Nat) (f : FarOp → FarOp) : (s.onFar k f).flash = s.flash := rfl
@[simp] theorem State.onFar_sensors (k : Nat) (f : FarOp → FarOp) : (s.onFar k f).sensors = s.sensors := rfl
@[simp] theorem State.onFar_stopped (k : Nat) (f : FarOp → FarOp) : (s.onFar k f).stopped = s.stopped := rfl
@[simp] theorem State.onFar_skipping (k : Nat) (f : FarOp → FarOp) : (s.onFar k f).skipping = s.skipping := rfl
@[simp] theorem State.onFar_limits (k : Nat) (f : FarOp → FarOp) : (s.onFar k f).limits = s.limits := rfl
@[simp] theorem State.onFar_expanders (k : Nat) (f : FarOp → FarOp) : (s.onFar k f).expanders = s.expanders := rfl
@[simp] theorem State.onFar_refLost (k : Nat) (f : FarOp → FarOp) : (s.onFar k f).refLost = s.refLost := rfl
@[simp] theorem State.onFar_sending (k : Nat) (f : FarOp → FarOp) : (s.onFar k f).sending = s.sending := rfl
@[simp] theorem State.onFar_records (k : Nat) (f : FarOp → FarOp) : (s.onFar k f).records = s.records := rfl

/-! ### State.onPoint -/

@[simp] theorem State.onPoint_cycle (k : Nat) (p : List Int) (f : Point → Point) : (s.onPoint k p f).cycle = s.cycle := rfl
@[simp] theorem State.onPoint_dt (k : Nat) (p : List Int) (f : Point → Point) : (s.onPoint k p f).dt = s.dt := rfl
@[simp] theorem State.onPoint_cur (k : Nat) (p : List Int) (f : Point → Point) : (s.onPoint k p f).cur = s.cur := rfl
@[simp] theorem State.onPoint_agenda (k : Nat) (p : List Int) (f : Point → Point) : (s.onPoint k p f).agenda = s.agenda := rfl
@[simp] theorem State.onPoint_ev (k : Nat) (p : List Int) (f : Point → Point) : (s.onPoint k p f).ev = s.ev := rfl
@[simp] theorem State.onPoint_issueQ (k : Nat) (p : List Int) (f : Point → Point) : (s.onPoint k p f).issueQ = s.issueQ := rfl
@[simp] theorem State.onPoint_scheduled (k : Nat) (p : List Int) (f : Point → Point) : (s.onPoint k p f).scheduled = s.scheduled := rfl
@[simp] theorem State.onPoint_nestTurn (k : Nat) (p : List Int) (f : Point → Point) : (s.onPoint k p f).nestTurn = s.nestTurn := rfl
@[simp] theorem State.onPoint_inputs (k : Nat) (p : List Int) (f : Point → Point) : (s.onPoint k p f).inputs = s.inputs := rfl
@[simp] theorem State.onPoint_due (k : Nat) (p : List Int) (f : Point → Point) : (s.onPoint k p f).due = s.due := rfl
@[simp] theorem State.onPoint_fresh (k : Nat) (p : List Int) (f : Point → Point) : (s.onPoint k p f).fresh = s.fresh := rfl
@[simp] theorem State.onPoint_stamp (k : Nat) (p : List Int) (f : Point → Point) : (s.onPoint k p f).stamp = s.stamp := rfl
@[simp] theorem State.onPoint_ctxs (k : Nat) (p : List Int) (f : Point → Point) : (s.onPoint k p f).ctxs = s.ctxs := rfl
@[simp] theorem State.onPoint_hands (k : Nat) (p : List Int) (f : Point → Point) : (s.onPoint k p f).hands = s.hands := rfl
@[simp] theorem State.onPoint_troupes (k : Nat) (p : List Int) (f : Point → Point) : (s.onPoint k p f).troupes = s.troupes := rfl
@[simp] theorem State.onPoint_quads (k : Nat) (p : List Int) (f : Point → Point) : (s.onPoint k p f).quads = s.quads := rfl
@[simp] theorem State.onPoint_fars (k : Nat) (p : List Int) (f : Point → Point) : (s.onPoint k p f).fars = s.fars := rfl
@[simp] theorem State.onPoint_vdis (k : Nat) (p : List Int) (f : Point → Point) : (s.onPoint k p f).vdis = s.vdis := rfl
@[simp] theorem State.onPoint_nests (k : Nat) (p : List Int) (f : Point → Point) : (s.onPoint k p f).nests = s.nests := rfl
@[simp] theorem State.onPoint_gens (k : Nat) (p : List Int) (f : Point → Point) : (s.onPoint k p f).gens = s.gens := rfl
@[simp] theorem State.onPoint_rr (k : Nat) (p : List Int) (f : Point → Point) : (s.onPoint k p f).rr = s.rr := rfl
@[simp] theorem State.onPoint_sems (k : Nat) (p : List Int) (f : Point → Point) : (s.onPoint k p f).sems = s.sems := rfl
@[simp] theorem State.onPoint_bins (k : Nat) (p : List Int) (f : Point → Point) : (s.onPoint k p f).bins = s.bins := rfl
@[simp] theorem State.onPoint_mem (k : Nat) (p : List Int) (f : Point → Point) : (s.onPoint k p f).mem = s.mem := rfl
@[simp] theorem State.onPoint_scratch (k : Nat) (p : List Int) (f : Point → Point) : (s.onPoint k p f).scratch = s.scratch := rfl
@[simp] theorem State.onPoint_hostMem (k : Nat) (p : List Int) (f : Point → Point) : (s.onPoint k p f).hostMem = s.hostMem := rfl
@[simp] theorem State.onPoint_poison (k : Nat) (p : List Int) (f : Point → Point) : (s.onPoint k p f).poison = s.poison := rfl
@[simp] theorem State.onPoint_scratchPoison (k : Nat) (p : List Int) (f : Point → Point) : (s.onPoint k p f).scratchPoison = s.scratchPoison := rfl
@[simp] theorem State.onPoint_corrected (k : Nat) (p : List Int) (f : Point → Point) : (s.onPoint k p f).corrected = s.corrected := rfl
@[simp] theorem State.onPoint_tlb (k : Nat) (p : List Int) (f : Point → Point) : (s.onPoint k p f).tlb = s.tlb := rfl
@[simp] theorem State.onPoint_moves (k : Nat) (p : List Int) (f : Point → Point) : (s.onPoint k p f).moves = s.moves := rfl
@[simp] theorem State.onPoint_engines (k : Nat) (p : List Int) (f : Point → Point) : (s.onPoint k p f).engines = s.engines := rfl
@[simp] theorem State.onPoint_coll (k : Nat) (p : List Int) (f : Point → Point) : (s.onPoint k p f).coll = s.coll := rfl
@[simp] theorem State.onPoint_fabric (k : Nat) (p : List Int) (f : Point → Point) : (s.onPoint k p f).fabric = s.fabric := rfl
@[simp] theorem State.onPoint_secure (k : Nat) (p : List Int) (f : Point → Point) : (s.onPoint k p f).secure = s.secure := rfl
@[simp] theorem State.onPoint_flash (k : Nat) (p : List Int) (f : Point → Point) : (s.onPoint k p f).flash = s.flash := rfl
@[simp] theorem State.onPoint_sensors (k : Nat) (p : List Int) (f : Point → Point) : (s.onPoint k p f).sensors = s.sensors := rfl
@[simp] theorem State.onPoint_stopped (k : Nat) (p : List Int) (f : Point → Point) : (s.onPoint k p f).stopped = s.stopped := rfl
@[simp] theorem State.onPoint_skipping (k : Nat) (p : List Int) (f : Point → Point) : (s.onPoint k p f).skipping = s.skipping := rfl
@[simp] theorem State.onPoint_limits (k : Nat) (p : List Int) (f : Point → Point) : (s.onPoint k p f).limits = s.limits := rfl
@[simp] theorem State.onPoint_expanders (k : Nat) (p : List Int) (f : Point → Point) : (s.onPoint k p f).expanders = s.expanders := rfl
@[simp] theorem State.onPoint_refLost (k : Nat) (p : List Int) (f : Point → Point) : (s.onPoint k p f).refLost = s.refLost := rfl
@[simp] theorem State.onPoint_sending (k : Nat) (p : List Int) (f : Point → Point) : (s.onPoint k p f).sending = s.sending := rfl
@[simp] theorem State.onPoint_records (k : Nat) (p : List Int) (f : Point → Point) : (s.onPoint k p f).records = s.records := rfl

/-! ### State.onCtx -/

@[simp] theorem State.onCtx_cycle (u : UnitId) (f : Ctx → Ctx) : (s.onCtx u f).cycle = s.cycle := by
  unfold State.onCtx; split <;> rfl
@[simp] theorem State.onCtx_dt (u : UnitId) (f : Ctx → Ctx) : (s.onCtx u f).dt = s.dt := by
  unfold State.onCtx; split <;> rfl
@[simp] theorem State.onCtx_cur (u : UnitId) (f : Ctx → Ctx) : (s.onCtx u f).cur = s.cur := by
  unfold State.onCtx; split <;> rfl
@[simp] theorem State.onCtx_agenda (u : UnitId) (f : Ctx → Ctx) : (s.onCtx u f).agenda = s.agenda := by
  unfold State.onCtx; split <;> rfl
@[simp] theorem State.onCtx_ev (u : UnitId) (f : Ctx → Ctx) : (s.onCtx u f).ev = s.ev := by
  unfold State.onCtx; split <;> rfl
@[simp] theorem State.onCtx_issueQ (u : UnitId) (f : Ctx → Ctx) : (s.onCtx u f).issueQ = s.issueQ := by
  unfold State.onCtx; split <;> rfl
@[simp] theorem State.onCtx_scheduled (u : UnitId) (f : Ctx → Ctx) : (s.onCtx u f).scheduled = s.scheduled := by
  unfold State.onCtx; split <;> rfl
@[simp] theorem State.onCtx_nestTurn (u : UnitId) (f : Ctx → Ctx) : (s.onCtx u f).nestTurn = s.nestTurn := by
  unfold State.onCtx; split <;> rfl
@[simp] theorem State.onCtx_inputs (u : UnitId) (f : Ctx → Ctx) : (s.onCtx u f).inputs = s.inputs := by
  unfold State.onCtx; split <;> rfl
@[simp] theorem State.onCtx_due (u : UnitId) (f : Ctx → Ctx) : (s.onCtx u f).due = s.due := by
  unfold State.onCtx; split <;> rfl
@[simp] theorem State.onCtx_fresh (u : UnitId) (f : Ctx → Ctx) : (s.onCtx u f).fresh = s.fresh := by
  unfold State.onCtx; split <;> rfl
@[simp] theorem State.onCtx_stamp (u : UnitId) (f : Ctx → Ctx) : (s.onCtx u f).stamp = s.stamp := by
  unfold State.onCtx; split <;> rfl
@[simp] theorem State.onCtx_hands (u : UnitId) (f : Ctx → Ctx) : (s.onCtx u f).hands = s.hands := by
  unfold State.onCtx; split <;> rfl
@[simp] theorem State.onCtx_troupes (u : UnitId) (f : Ctx → Ctx) : (s.onCtx u f).troupes = s.troupes := by
  unfold State.onCtx; split <;> rfl
@[simp] theorem State.onCtx_quads (u : UnitId) (f : Ctx → Ctx) : (s.onCtx u f).quads = s.quads := by
  unfold State.onCtx; split <;> rfl
@[simp] theorem State.onCtx_fars (u : UnitId) (f : Ctx → Ctx) : (s.onCtx u f).fars = s.fars := by
  unfold State.onCtx; split <;> rfl
@[simp] theorem State.onCtx_vdis (u : UnitId) (f : Ctx → Ctx) : (s.onCtx u f).vdis = s.vdis := by
  unfold State.onCtx; split <;> rfl
@[simp] theorem State.onCtx_nests (u : UnitId) (f : Ctx → Ctx) : (s.onCtx u f).nests = s.nests := by
  unfold State.onCtx; split <;> rfl
@[simp] theorem State.onCtx_gens (u : UnitId) (f : Ctx → Ctx) : (s.onCtx u f).gens = s.gens := by
  unfold State.onCtx; split <;> rfl
@[simp] theorem State.onCtx_rr (u : UnitId) (f : Ctx → Ctx) : (s.onCtx u f).rr = s.rr := by
  unfold State.onCtx; split <;> rfl
@[simp] theorem State.onCtx_points (u : UnitId) (f : Ctx → Ctx) : (s.onCtx u f).points = s.points := by
  unfold State.onCtx; split <;> rfl
@[simp] theorem State.onCtx_sems (u : UnitId) (f : Ctx → Ctx) : (s.onCtx u f).sems = s.sems := by
  unfold State.onCtx; split <;> rfl
@[simp] theorem State.onCtx_bins (u : UnitId) (f : Ctx → Ctx) : (s.onCtx u f).bins = s.bins := by
  unfold State.onCtx; split <;> rfl
@[simp] theorem State.onCtx_mem (u : UnitId) (f : Ctx → Ctx) : (s.onCtx u f).mem = s.mem := by
  unfold State.onCtx; split <;> rfl
@[simp] theorem State.onCtx_scratch (u : UnitId) (f : Ctx → Ctx) : (s.onCtx u f).scratch = s.scratch := by
  unfold State.onCtx; split <;> rfl
@[simp] theorem State.onCtx_hostMem (u : UnitId) (f : Ctx → Ctx) : (s.onCtx u f).hostMem = s.hostMem := by
  unfold State.onCtx; split <;> rfl
@[simp] theorem State.onCtx_poison (u : UnitId) (f : Ctx → Ctx) : (s.onCtx u f).poison = s.poison := by
  unfold State.onCtx; split <;> rfl
@[simp] theorem State.onCtx_scratchPoison (u : UnitId) (f : Ctx → Ctx) : (s.onCtx u f).scratchPoison = s.scratchPoison := by
  unfold State.onCtx; split <;> rfl
@[simp] theorem State.onCtx_corrected (u : UnitId) (f : Ctx → Ctx) : (s.onCtx u f).corrected = s.corrected := by
  unfold State.onCtx; split <;> rfl
@[simp] theorem State.onCtx_tlb (u : UnitId) (f : Ctx → Ctx) : (s.onCtx u f).tlb = s.tlb := by
  unfold State.onCtx; split <;> rfl
@[simp] theorem State.onCtx_moves (u : UnitId) (f : Ctx → Ctx) : (s.onCtx u f).moves = s.moves := by
  unfold State.onCtx; split <;> rfl
@[simp] theorem State.onCtx_engines (u : UnitId) (f : Ctx → Ctx) : (s.onCtx u f).engines = s.engines := by
  unfold State.onCtx; split <;> rfl
@[simp] theorem State.onCtx_coll (u : UnitId) (f : Ctx → Ctx) : (s.onCtx u f).coll = s.coll := by
  unfold State.onCtx; split <;> rfl
@[simp] theorem State.onCtx_fabric (u : UnitId) (f : Ctx → Ctx) : (s.onCtx u f).fabric = s.fabric := by
  unfold State.onCtx; split <;> rfl
@[simp] theorem State.onCtx_secure (u : UnitId) (f : Ctx → Ctx) : (s.onCtx u f).secure = s.secure := by
  unfold State.onCtx; split <;> rfl
@[simp] theorem State.onCtx_flash (u : UnitId) (f : Ctx → Ctx) : (s.onCtx u f).flash = s.flash := by
  unfold State.onCtx; split <;> rfl
@[simp] theorem State.onCtx_sensors (u : UnitId) (f : Ctx → Ctx) : (s.onCtx u f).sensors = s.sensors := by
  unfold State.onCtx; split <;> rfl
@[simp] theorem State.onCtx_stopped (u : UnitId) (f : Ctx → Ctx) : (s.onCtx u f).stopped = s.stopped := by
  unfold State.onCtx; split <;> rfl
@[simp] theorem State.onCtx_skipping (u : UnitId) (f : Ctx → Ctx) : (s.onCtx u f).skipping = s.skipping := by
  unfold State.onCtx; split <;> rfl
@[simp] theorem State.onCtx_limits (u : UnitId) (f : Ctx → Ctx) : (s.onCtx u f).limits = s.limits := by
  unfold State.onCtx; split <;> rfl
@[simp] theorem State.onCtx_expanders (u : UnitId) (f : Ctx → Ctx) : (s.onCtx u f).expanders = s.expanders := by
  unfold State.onCtx; split <;> rfl
@[simp] theorem State.onCtx_refLost (u : UnitId) (f : Ctx → Ctx) : (s.onCtx u f).refLost = s.refLost := by
  unfold State.onCtx; split <;> rfl
@[simp] theorem State.onCtx_sending (u : UnitId) (f : Ctx → Ctx) : (s.onCtx u f).sending = s.sending := by
  unfold State.onCtx; split <;> rfl
@[simp] theorem State.onCtx_records (u : UnitId) (f : Ctx → Ctx) : (s.onCtx u f).records = s.records := by
  unfold State.onCtx; split <;> rfl

/-! ### State.onHand -/

@[simp] theorem State.onHand_cycle (u : UnitId) (f : Hand → Hand) : (s.onHand u f).cycle = s.cycle := by
  unfold State.onHand; split <;> rfl
@[simp] theorem State.onHand_dt (u : UnitId) (f : Hand → Hand) : (s.onHand u f).dt = s.dt := by
  unfold State.onHand; split <;> rfl
@[simp] theorem State.onHand_cur (u : UnitId) (f : Hand → Hand) : (s.onHand u f).cur = s.cur := by
  unfold State.onHand; split <;> rfl
@[simp] theorem State.onHand_agenda (u : UnitId) (f : Hand → Hand) : (s.onHand u f).agenda = s.agenda := by
  unfold State.onHand; split <;> rfl
@[simp] theorem State.onHand_ev (u : UnitId) (f : Hand → Hand) : (s.onHand u f).ev = s.ev := by
  unfold State.onHand; split <;> rfl
@[simp] theorem State.onHand_issueQ (u : UnitId) (f : Hand → Hand) : (s.onHand u f).issueQ = s.issueQ := by
  unfold State.onHand; split <;> rfl
@[simp] theorem State.onHand_scheduled (u : UnitId) (f : Hand → Hand) : (s.onHand u f).scheduled = s.scheduled := by
  unfold State.onHand; split <;> rfl
@[simp] theorem State.onHand_nestTurn (u : UnitId) (f : Hand → Hand) : (s.onHand u f).nestTurn = s.nestTurn := by
  unfold State.onHand; split <;> rfl
@[simp] theorem State.onHand_inputs (u : UnitId) (f : Hand → Hand) : (s.onHand u f).inputs = s.inputs := by
  unfold State.onHand; split <;> rfl
@[simp] theorem State.onHand_due (u : UnitId) (f : Hand → Hand) : (s.onHand u f).due = s.due := by
  unfold State.onHand; split <;> rfl
@[simp] theorem State.onHand_fresh (u : UnitId) (f : Hand → Hand) : (s.onHand u f).fresh = s.fresh := by
  unfold State.onHand; split <;> rfl
@[simp] theorem State.onHand_stamp (u : UnitId) (f : Hand → Hand) : (s.onHand u f).stamp = s.stamp := by
  unfold State.onHand; split <;> rfl
@[simp] theorem State.onHand_ctxs (u : UnitId) (f : Hand → Hand) : (s.onHand u f).ctxs = s.ctxs := by
  unfold State.onHand; split <;> rfl
@[simp] theorem State.onHand_troupes (u : UnitId) (f : Hand → Hand) : (s.onHand u f).troupes = s.troupes := by
  unfold State.onHand; split <;> rfl
@[simp] theorem State.onHand_quads (u : UnitId) (f : Hand → Hand) : (s.onHand u f).quads = s.quads := by
  unfold State.onHand; split <;> rfl
@[simp] theorem State.onHand_fars (u : UnitId) (f : Hand → Hand) : (s.onHand u f).fars = s.fars := by
  unfold State.onHand; split <;> rfl
@[simp] theorem State.onHand_vdis (u : UnitId) (f : Hand → Hand) : (s.onHand u f).vdis = s.vdis := by
  unfold State.onHand; split <;> rfl
@[simp] theorem State.onHand_nests (u : UnitId) (f : Hand → Hand) : (s.onHand u f).nests = s.nests := by
  unfold State.onHand; split <;> rfl
@[simp] theorem State.onHand_gens (u : UnitId) (f : Hand → Hand) : (s.onHand u f).gens = s.gens := by
  unfold State.onHand; split <;> rfl
@[simp] theorem State.onHand_rr (u : UnitId) (f : Hand → Hand) : (s.onHand u f).rr = s.rr := by
  unfold State.onHand; split <;> rfl
@[simp] theorem State.onHand_points (u : UnitId) (f : Hand → Hand) : (s.onHand u f).points = s.points := by
  unfold State.onHand; split <;> rfl
@[simp] theorem State.onHand_sems (u : UnitId) (f : Hand → Hand) : (s.onHand u f).sems = s.sems := by
  unfold State.onHand; split <;> rfl
@[simp] theorem State.onHand_bins (u : UnitId) (f : Hand → Hand) : (s.onHand u f).bins = s.bins := by
  unfold State.onHand; split <;> rfl
@[simp] theorem State.onHand_mem (u : UnitId) (f : Hand → Hand) : (s.onHand u f).mem = s.mem := by
  unfold State.onHand; split <;> rfl
@[simp] theorem State.onHand_scratch (u : UnitId) (f : Hand → Hand) : (s.onHand u f).scratch = s.scratch := by
  unfold State.onHand; split <;> rfl
@[simp] theorem State.onHand_hostMem (u : UnitId) (f : Hand → Hand) : (s.onHand u f).hostMem = s.hostMem := by
  unfold State.onHand; split <;> rfl
@[simp] theorem State.onHand_poison (u : UnitId) (f : Hand → Hand) : (s.onHand u f).poison = s.poison := by
  unfold State.onHand; split <;> rfl
@[simp] theorem State.onHand_scratchPoison (u : UnitId) (f : Hand → Hand) : (s.onHand u f).scratchPoison = s.scratchPoison := by
  unfold State.onHand; split <;> rfl
@[simp] theorem State.onHand_corrected (u : UnitId) (f : Hand → Hand) : (s.onHand u f).corrected = s.corrected := by
  unfold State.onHand; split <;> rfl
@[simp] theorem State.onHand_tlb (u : UnitId) (f : Hand → Hand) : (s.onHand u f).tlb = s.tlb := by
  unfold State.onHand; split <;> rfl
@[simp] theorem State.onHand_moves (u : UnitId) (f : Hand → Hand) : (s.onHand u f).moves = s.moves := by
  unfold State.onHand; split <;> rfl
@[simp] theorem State.onHand_engines (u : UnitId) (f : Hand → Hand) : (s.onHand u f).engines = s.engines := by
  unfold State.onHand; split <;> rfl
@[simp] theorem State.onHand_coll (u : UnitId) (f : Hand → Hand) : (s.onHand u f).coll = s.coll := by
  unfold State.onHand; split <;> rfl
@[simp] theorem State.onHand_fabric (u : UnitId) (f : Hand → Hand) : (s.onHand u f).fabric = s.fabric := by
  unfold State.onHand; split <;> rfl
@[simp] theorem State.onHand_secure (u : UnitId) (f : Hand → Hand) : (s.onHand u f).secure = s.secure := by
  unfold State.onHand; split <;> rfl
@[simp] theorem State.onHand_flash (u : UnitId) (f : Hand → Hand) : (s.onHand u f).flash = s.flash := by
  unfold State.onHand; split <;> rfl
@[simp] theorem State.onHand_sensors (u : UnitId) (f : Hand → Hand) : (s.onHand u f).sensors = s.sensors := by
  unfold State.onHand; split <;> rfl
@[simp] theorem State.onHand_stopped (u : UnitId) (f : Hand → Hand) : (s.onHand u f).stopped = s.stopped := by
  unfold State.onHand; split <;> rfl
@[simp] theorem State.onHand_skipping (u : UnitId) (f : Hand → Hand) : (s.onHand u f).skipping = s.skipping := by
  unfold State.onHand; split <;> rfl
@[simp] theorem State.onHand_limits (u : UnitId) (f : Hand → Hand) : (s.onHand u f).limits = s.limits := by
  unfold State.onHand; split <;> rfl
@[simp] theorem State.onHand_expanders (u : UnitId) (f : Hand → Hand) : (s.onHand u f).expanders = s.expanders := by
  unfold State.onHand; split <;> rfl
@[simp] theorem State.onHand_refLost (u : UnitId) (f : Hand → Hand) : (s.onHand u f).refLost = s.refLost := by
  unfold State.onHand; split <;> rfl
@[simp] theorem State.onHand_sending (u : UnitId) (f : Hand → Hand) : (s.onHand u f).sending = s.sending := by
  unfold State.onHand; split <;> rfl
@[simp] theorem State.onHand_records (u : UnitId) (f : Hand → Hand) : (s.onHand u f).records = s.records := by
  unfold State.onHand; split <;> rfl

/-! ### State.onTroupe -/

@[simp] theorem State.onTroupe_cycle (k : Nat) (f : Troupe → Troupe) : (s.onTroupe k f).cycle = s.cycle := by
  unfold State.onTroupe; split <;> rfl
@[simp] theorem State.onTroupe_dt (k : Nat) (f : Troupe → Troupe) : (s.onTroupe k f).dt = s.dt := by
  unfold State.onTroupe; split <;> rfl
@[simp] theorem State.onTroupe_cur (k : Nat) (f : Troupe → Troupe) : (s.onTroupe k f).cur = s.cur := by
  unfold State.onTroupe; split <;> rfl
@[simp] theorem State.onTroupe_agenda (k : Nat) (f : Troupe → Troupe) : (s.onTroupe k f).agenda = s.agenda := by
  unfold State.onTroupe; split <;> rfl
@[simp] theorem State.onTroupe_ev (k : Nat) (f : Troupe → Troupe) : (s.onTroupe k f).ev = s.ev := by
  unfold State.onTroupe; split <;> rfl
@[simp] theorem State.onTroupe_issueQ (k : Nat) (f : Troupe → Troupe) : (s.onTroupe k f).issueQ = s.issueQ := by
  unfold State.onTroupe; split <;> rfl
@[simp] theorem State.onTroupe_scheduled (k : Nat) (f : Troupe → Troupe) : (s.onTroupe k f).scheduled = s.scheduled := by
  unfold State.onTroupe; split <;> rfl
@[simp] theorem State.onTroupe_nestTurn (k : Nat) (f : Troupe → Troupe) : (s.onTroupe k f).nestTurn = s.nestTurn := by
  unfold State.onTroupe; split <;> rfl
@[simp] theorem State.onTroupe_inputs (k : Nat) (f : Troupe → Troupe) : (s.onTroupe k f).inputs = s.inputs := by
  unfold State.onTroupe; split <;> rfl
@[simp] theorem State.onTroupe_due (k : Nat) (f : Troupe → Troupe) : (s.onTroupe k f).due = s.due := by
  unfold State.onTroupe; split <;> rfl
@[simp] theorem State.onTroupe_fresh (k : Nat) (f : Troupe → Troupe) : (s.onTroupe k f).fresh = s.fresh := by
  unfold State.onTroupe; split <;> rfl
@[simp] theorem State.onTroupe_stamp (k : Nat) (f : Troupe → Troupe) : (s.onTroupe k f).stamp = s.stamp := by
  unfold State.onTroupe; split <;> rfl
@[simp] theorem State.onTroupe_ctxs (k : Nat) (f : Troupe → Troupe) : (s.onTroupe k f).ctxs = s.ctxs := by
  unfold State.onTroupe; split <;> rfl
@[simp] theorem State.onTroupe_hands (k : Nat) (f : Troupe → Troupe) : (s.onTroupe k f).hands = s.hands := by
  unfold State.onTroupe; split <;> rfl
@[simp] theorem State.onTroupe_quads (k : Nat) (f : Troupe → Troupe) : (s.onTroupe k f).quads = s.quads := by
  unfold State.onTroupe; split <;> rfl
@[simp] theorem State.onTroupe_fars (k : Nat) (f : Troupe → Troupe) : (s.onTroupe k f).fars = s.fars := by
  unfold State.onTroupe; split <;> rfl
@[simp] theorem State.onTroupe_vdis (k : Nat) (f : Troupe → Troupe) : (s.onTroupe k f).vdis = s.vdis := by
  unfold State.onTroupe; split <;> rfl
@[simp] theorem State.onTroupe_nests (k : Nat) (f : Troupe → Troupe) : (s.onTroupe k f).nests = s.nests := by
  unfold State.onTroupe; split <;> rfl
@[simp] theorem State.onTroupe_gens (k : Nat) (f : Troupe → Troupe) : (s.onTroupe k f).gens = s.gens := by
  unfold State.onTroupe; split <;> rfl
@[simp] theorem State.onTroupe_rr (k : Nat) (f : Troupe → Troupe) : (s.onTroupe k f).rr = s.rr := by
  unfold State.onTroupe; split <;> rfl
@[simp] theorem State.onTroupe_points (k : Nat) (f : Troupe → Troupe) : (s.onTroupe k f).points = s.points := by
  unfold State.onTroupe; split <;> rfl
@[simp] theorem State.onTroupe_sems (k : Nat) (f : Troupe → Troupe) : (s.onTroupe k f).sems = s.sems := by
  unfold State.onTroupe; split <;> rfl
@[simp] theorem State.onTroupe_bins (k : Nat) (f : Troupe → Troupe) : (s.onTroupe k f).bins = s.bins := by
  unfold State.onTroupe; split <;> rfl
@[simp] theorem State.onTroupe_mem (k : Nat) (f : Troupe → Troupe) : (s.onTroupe k f).mem = s.mem := by
  unfold State.onTroupe; split <;> rfl
@[simp] theorem State.onTroupe_scratch (k : Nat) (f : Troupe → Troupe) : (s.onTroupe k f).scratch = s.scratch := by
  unfold State.onTroupe; split <;> rfl
@[simp] theorem State.onTroupe_hostMem (k : Nat) (f : Troupe → Troupe) : (s.onTroupe k f).hostMem = s.hostMem := by
  unfold State.onTroupe; split <;> rfl
@[simp] theorem State.onTroupe_poison (k : Nat) (f : Troupe → Troupe) : (s.onTroupe k f).poison = s.poison := by
  unfold State.onTroupe; split <;> rfl
@[simp] theorem State.onTroupe_scratchPoison (k : Nat) (f : Troupe → Troupe) : (s.onTroupe k f).scratchPoison = s.scratchPoison := by
  unfold State.onTroupe; split <;> rfl
@[simp] theorem State.onTroupe_corrected (k : Nat) (f : Troupe → Troupe) : (s.onTroupe k f).corrected = s.corrected := by
  unfold State.onTroupe; split <;> rfl
@[simp] theorem State.onTroupe_tlb (k : Nat) (f : Troupe → Troupe) : (s.onTroupe k f).tlb = s.tlb := by
  unfold State.onTroupe; split <;> rfl
@[simp] theorem State.onTroupe_moves (k : Nat) (f : Troupe → Troupe) : (s.onTroupe k f).moves = s.moves := by
  unfold State.onTroupe; split <;> rfl
@[simp] theorem State.onTroupe_engines (k : Nat) (f : Troupe → Troupe) : (s.onTroupe k f).engines = s.engines := by
  unfold State.onTroupe; split <;> rfl
@[simp] theorem State.onTroupe_coll (k : Nat) (f : Troupe → Troupe) : (s.onTroupe k f).coll = s.coll := by
  unfold State.onTroupe; split <;> rfl
@[simp] theorem State.onTroupe_fabric (k : Nat) (f : Troupe → Troupe) : (s.onTroupe k f).fabric = s.fabric := by
  unfold State.onTroupe; split <;> rfl
@[simp] theorem State.onTroupe_secure (k : Nat) (f : Troupe → Troupe) : (s.onTroupe k f).secure = s.secure := by
  unfold State.onTroupe; split <;> rfl
@[simp] theorem State.onTroupe_flash (k : Nat) (f : Troupe → Troupe) : (s.onTroupe k f).flash = s.flash := by
  unfold State.onTroupe; split <;> rfl
@[simp] theorem State.onTroupe_sensors (k : Nat) (f : Troupe → Troupe) : (s.onTroupe k f).sensors = s.sensors := by
  unfold State.onTroupe; split <;> rfl
@[simp] theorem State.onTroupe_stopped (k : Nat) (f : Troupe → Troupe) : (s.onTroupe k f).stopped = s.stopped := by
  unfold State.onTroupe; split <;> rfl
@[simp] theorem State.onTroupe_skipping (k : Nat) (f : Troupe → Troupe) : (s.onTroupe k f).skipping = s.skipping := by
  unfold State.onTroupe; split <;> rfl
@[simp] theorem State.onTroupe_limits (k : Nat) (f : Troupe → Troupe) : (s.onTroupe k f).limits = s.limits := by
  unfold State.onTroupe; split <;> rfl
@[simp] theorem State.onTroupe_expanders (k : Nat) (f : Troupe → Troupe) : (s.onTroupe k f).expanders = s.expanders := by
  unfold State.onTroupe; split <;> rfl
@[simp] theorem State.onTroupe_refLost (k : Nat) (f : Troupe → Troupe) : (s.onTroupe k f).refLost = s.refLost := by
  unfold State.onTroupe; split <;> rfl
@[simp] theorem State.onTroupe_sending (k : Nat) (f : Troupe → Troupe) : (s.onTroupe k f).sending = s.sending := by
  unfold State.onTroupe; split <;> rfl
@[simp] theorem State.onTroupe_records (k : Nat) (f : Troupe → Troupe) : (s.onTroupe k f).records = s.records := by
  unfold State.onTroupe; split <;> rfl

/-! ### State.onVdi -/

@[simp] theorem State.onVdi_cycle (k : Nat) (f : Vdi → Vdi) : (s.onVdi k f).cycle = s.cycle := by
  unfold State.onVdi; split <;> rfl
@[simp] theorem State.onVdi_dt (k : Nat) (f : Vdi → Vdi) : (s.onVdi k f).dt = s.dt := by
  unfold State.onVdi; split <;> rfl
@[simp] theorem State.onVdi_cur (k : Nat) (f : Vdi → Vdi) : (s.onVdi k f).cur = s.cur := by
  unfold State.onVdi; split <;> rfl
@[simp] theorem State.onVdi_agenda (k : Nat) (f : Vdi → Vdi) : (s.onVdi k f).agenda = s.agenda := by
  unfold State.onVdi; split <;> rfl
@[simp] theorem State.onVdi_ev (k : Nat) (f : Vdi → Vdi) : (s.onVdi k f).ev = s.ev := by
  unfold State.onVdi; split <;> rfl
@[simp] theorem State.onVdi_issueQ (k : Nat) (f : Vdi → Vdi) : (s.onVdi k f).issueQ = s.issueQ := by
  unfold State.onVdi; split <;> rfl
@[simp] theorem State.onVdi_scheduled (k : Nat) (f : Vdi → Vdi) : (s.onVdi k f).scheduled = s.scheduled := by
  unfold State.onVdi; split <;> rfl
@[simp] theorem State.onVdi_nestTurn (k : Nat) (f : Vdi → Vdi) : (s.onVdi k f).nestTurn = s.nestTurn := by
  unfold State.onVdi; split <;> rfl
@[simp] theorem State.onVdi_inputs (k : Nat) (f : Vdi → Vdi) : (s.onVdi k f).inputs = s.inputs := by
  unfold State.onVdi; split <;> rfl
@[simp] theorem State.onVdi_due (k : Nat) (f : Vdi → Vdi) : (s.onVdi k f).due = s.due := by
  unfold State.onVdi; split <;> rfl
@[simp] theorem State.onVdi_fresh (k : Nat) (f : Vdi → Vdi) : (s.onVdi k f).fresh = s.fresh := by
  unfold State.onVdi; split <;> rfl
@[simp] theorem State.onVdi_stamp (k : Nat) (f : Vdi → Vdi) : (s.onVdi k f).stamp = s.stamp := by
  unfold State.onVdi; split <;> rfl
@[simp] theorem State.onVdi_ctxs (k : Nat) (f : Vdi → Vdi) : (s.onVdi k f).ctxs = s.ctxs := by
  unfold State.onVdi; split <;> rfl
@[simp] theorem State.onVdi_hands (k : Nat) (f : Vdi → Vdi) : (s.onVdi k f).hands = s.hands := by
  unfold State.onVdi; split <;> rfl
@[simp] theorem State.onVdi_troupes (k : Nat) (f : Vdi → Vdi) : (s.onVdi k f).troupes = s.troupes := by
  unfold State.onVdi; split <;> rfl
@[simp] theorem State.onVdi_quads (k : Nat) (f : Vdi → Vdi) : (s.onVdi k f).quads = s.quads := by
  unfold State.onVdi; split <;> rfl
@[simp] theorem State.onVdi_fars (k : Nat) (f : Vdi → Vdi) : (s.onVdi k f).fars = s.fars := by
  unfold State.onVdi; split <;> rfl
@[simp] theorem State.onVdi_nests (k : Nat) (f : Vdi → Vdi) : (s.onVdi k f).nests = s.nests := by
  unfold State.onVdi; split <;> rfl
@[simp] theorem State.onVdi_gens (k : Nat) (f : Vdi → Vdi) : (s.onVdi k f).gens = s.gens := by
  unfold State.onVdi; split <;> rfl
@[simp] theorem State.onVdi_rr (k : Nat) (f : Vdi → Vdi) : (s.onVdi k f).rr = s.rr := by
  unfold State.onVdi; split <;> rfl
@[simp] theorem State.onVdi_points (k : Nat) (f : Vdi → Vdi) : (s.onVdi k f).points = s.points := by
  unfold State.onVdi; split <;> rfl
@[simp] theorem State.onVdi_sems (k : Nat) (f : Vdi → Vdi) : (s.onVdi k f).sems = s.sems := by
  unfold State.onVdi; split <;> rfl
@[simp] theorem State.onVdi_bins (k : Nat) (f : Vdi → Vdi) : (s.onVdi k f).bins = s.bins := by
  unfold State.onVdi; split <;> rfl
@[simp] theorem State.onVdi_mem (k : Nat) (f : Vdi → Vdi) : (s.onVdi k f).mem = s.mem := by
  unfold State.onVdi; split <;> rfl
@[simp] theorem State.onVdi_scratch (k : Nat) (f : Vdi → Vdi) : (s.onVdi k f).scratch = s.scratch := by
  unfold State.onVdi; split <;> rfl
@[simp] theorem State.onVdi_hostMem (k : Nat) (f : Vdi → Vdi) : (s.onVdi k f).hostMem = s.hostMem := by
  unfold State.onVdi; split <;> rfl
@[simp] theorem State.onVdi_poison (k : Nat) (f : Vdi → Vdi) : (s.onVdi k f).poison = s.poison := by
  unfold State.onVdi; split <;> rfl
@[simp] theorem State.onVdi_scratchPoison (k : Nat) (f : Vdi → Vdi) : (s.onVdi k f).scratchPoison = s.scratchPoison := by
  unfold State.onVdi; split <;> rfl
@[simp] theorem State.onVdi_corrected (k : Nat) (f : Vdi → Vdi) : (s.onVdi k f).corrected = s.corrected := by
  unfold State.onVdi; split <;> rfl
@[simp] theorem State.onVdi_tlb (k : Nat) (f : Vdi → Vdi) : (s.onVdi k f).tlb = s.tlb := by
  unfold State.onVdi; split <;> rfl
@[simp] theorem State.onVdi_moves (k : Nat) (f : Vdi → Vdi) : (s.onVdi k f).moves = s.moves := by
  unfold State.onVdi; split <;> rfl
@[simp] theorem State.onVdi_engines (k : Nat) (f : Vdi → Vdi) : (s.onVdi k f).engines = s.engines := by
  unfold State.onVdi; split <;> rfl
@[simp] theorem State.onVdi_coll (k : Nat) (f : Vdi → Vdi) : (s.onVdi k f).coll = s.coll := by
  unfold State.onVdi; split <;> rfl
@[simp] theorem State.onVdi_fabric (k : Nat) (f : Vdi → Vdi) : (s.onVdi k f).fabric = s.fabric := by
  unfold State.onVdi; split <;> rfl
@[simp] theorem State.onVdi_secure (k : Nat) (f : Vdi → Vdi) : (s.onVdi k f).secure = s.secure := by
  unfold State.onVdi; split <;> rfl
@[simp] theorem State.onVdi_flash (k : Nat) (f : Vdi → Vdi) : (s.onVdi k f).flash = s.flash := by
  unfold State.onVdi; split <;> rfl
@[simp] theorem State.onVdi_sensors (k : Nat) (f : Vdi → Vdi) : (s.onVdi k f).sensors = s.sensors := by
  unfold State.onVdi; split <;> rfl
@[simp] theorem State.onVdi_stopped (k : Nat) (f : Vdi → Vdi) : (s.onVdi k f).stopped = s.stopped := by
  unfold State.onVdi; split <;> rfl
@[simp] theorem State.onVdi_skipping (k : Nat) (f : Vdi → Vdi) : (s.onVdi k f).skipping = s.skipping := by
  unfold State.onVdi; split <;> rfl
@[simp] theorem State.onVdi_limits (k : Nat) (f : Vdi → Vdi) : (s.onVdi k f).limits = s.limits := by
  unfold State.onVdi; split <;> rfl
@[simp] theorem State.onVdi_expanders (k : Nat) (f : Vdi → Vdi) : (s.onVdi k f).expanders = s.expanders := by
  unfold State.onVdi; split <;> rfl
@[simp] theorem State.onVdi_refLost (k : Nat) (f : Vdi → Vdi) : (s.onVdi k f).refLost = s.refLost := by
  unfold State.onVdi; split <;> rfl
@[simp] theorem State.onVdi_sending (k : Nat) (f : Vdi → Vdi) : (s.onVdi k f).sending = s.sending := by
  unfold State.onVdi; split <;> rfl
@[simp] theorem State.onVdi_records (k : Nat) (f : Vdi → Vdi) : (s.onVdi k f).records = s.records := by
  unfold State.onVdi; split <;> rfl

/-! ### State.onNest -/

@[simp] theorem State.onNest_cycle (k : Nat) (f : Nest → Nest) : (s.onNest k f).cycle = s.cycle := by
  unfold State.onNest; split <;> rfl
@[simp] theorem State.onNest_dt (k : Nat) (f : Nest → Nest) : (s.onNest k f).dt = s.dt := by
  unfold State.onNest; split <;> rfl
@[simp] theorem State.onNest_cur (k : Nat) (f : Nest → Nest) : (s.onNest k f).cur = s.cur := by
  unfold State.onNest; split <;> rfl
@[simp] theorem State.onNest_agenda (k : Nat) (f : Nest → Nest) : (s.onNest k f).agenda = s.agenda := by
  unfold State.onNest; split <;> rfl
@[simp] theorem State.onNest_ev (k : Nat) (f : Nest → Nest) : (s.onNest k f).ev = s.ev := by
  unfold State.onNest; split <;> rfl
@[simp] theorem State.onNest_issueQ (k : Nat) (f : Nest → Nest) : (s.onNest k f).issueQ = s.issueQ := by
  unfold State.onNest; split <;> rfl
@[simp] theorem State.onNest_scheduled (k : Nat) (f : Nest → Nest) : (s.onNest k f).scheduled = s.scheduled := by
  unfold State.onNest; split <;> rfl
@[simp] theorem State.onNest_nestTurn (k : Nat) (f : Nest → Nest) : (s.onNest k f).nestTurn = s.nestTurn := by
  unfold State.onNest; split <;> rfl
@[simp] theorem State.onNest_inputs (k : Nat) (f : Nest → Nest) : (s.onNest k f).inputs = s.inputs := by
  unfold State.onNest; split <;> rfl
@[simp] theorem State.onNest_due (k : Nat) (f : Nest → Nest) : (s.onNest k f).due = s.due := by
  unfold State.onNest; split <;> rfl
@[simp] theorem State.onNest_fresh (k : Nat) (f : Nest → Nest) : (s.onNest k f).fresh = s.fresh := by
  unfold State.onNest; split <;> rfl
@[simp] theorem State.onNest_stamp (k : Nat) (f : Nest → Nest) : (s.onNest k f).stamp = s.stamp := by
  unfold State.onNest; split <;> rfl
@[simp] theorem State.onNest_ctxs (k : Nat) (f : Nest → Nest) : (s.onNest k f).ctxs = s.ctxs := by
  unfold State.onNest; split <;> rfl
@[simp] theorem State.onNest_hands (k : Nat) (f : Nest → Nest) : (s.onNest k f).hands = s.hands := by
  unfold State.onNest; split <;> rfl
@[simp] theorem State.onNest_troupes (k : Nat) (f : Nest → Nest) : (s.onNest k f).troupes = s.troupes := by
  unfold State.onNest; split <;> rfl
@[simp] theorem State.onNest_quads (k : Nat) (f : Nest → Nest) : (s.onNest k f).quads = s.quads := by
  unfold State.onNest; split <;> rfl
@[simp] theorem State.onNest_fars (k : Nat) (f : Nest → Nest) : (s.onNest k f).fars = s.fars := by
  unfold State.onNest; split <;> rfl
@[simp] theorem State.onNest_vdis (k : Nat) (f : Nest → Nest) : (s.onNest k f).vdis = s.vdis := by
  unfold State.onNest; split <;> rfl
@[simp] theorem State.onNest_gens (k : Nat) (f : Nest → Nest) : (s.onNest k f).gens = s.gens := by
  unfold State.onNest; split <;> rfl
@[simp] theorem State.onNest_rr (k : Nat) (f : Nest → Nest) : (s.onNest k f).rr = s.rr := by
  unfold State.onNest; split <;> rfl
@[simp] theorem State.onNest_points (k : Nat) (f : Nest → Nest) : (s.onNest k f).points = s.points := by
  unfold State.onNest; split <;> rfl
@[simp] theorem State.onNest_sems (k : Nat) (f : Nest → Nest) : (s.onNest k f).sems = s.sems := by
  unfold State.onNest; split <;> rfl
@[simp] theorem State.onNest_bins (k : Nat) (f : Nest → Nest) : (s.onNest k f).bins = s.bins := by
  unfold State.onNest; split <;> rfl
@[simp] theorem State.onNest_mem (k : Nat) (f : Nest → Nest) : (s.onNest k f).mem = s.mem := by
  unfold State.onNest; split <;> rfl
@[simp] theorem State.onNest_scratch (k : Nat) (f : Nest → Nest) : (s.onNest k f).scratch = s.scratch := by
  unfold State.onNest; split <;> rfl
@[simp] theorem State.onNest_hostMem (k : Nat) (f : Nest → Nest) : (s.onNest k f).hostMem = s.hostMem := by
  unfold State.onNest; split <;> rfl
@[simp] theorem State.onNest_poison (k : Nat) (f : Nest → Nest) : (s.onNest k f).poison = s.poison := by
  unfold State.onNest; split <;> rfl
@[simp] theorem State.onNest_scratchPoison (k : Nat) (f : Nest → Nest) : (s.onNest k f).scratchPoison = s.scratchPoison := by
  unfold State.onNest; split <;> rfl
@[simp] theorem State.onNest_corrected (k : Nat) (f : Nest → Nest) : (s.onNest k f).corrected = s.corrected := by
  unfold State.onNest; split <;> rfl
@[simp] theorem State.onNest_tlb (k : Nat) (f : Nest → Nest) : (s.onNest k f).tlb = s.tlb := by
  unfold State.onNest; split <;> rfl
@[simp] theorem State.onNest_moves (k : Nat) (f : Nest → Nest) : (s.onNest k f).moves = s.moves := by
  unfold State.onNest; split <;> rfl
@[simp] theorem State.onNest_engines (k : Nat) (f : Nest → Nest) : (s.onNest k f).engines = s.engines := by
  unfold State.onNest; split <;> rfl
@[simp] theorem State.onNest_coll (k : Nat) (f : Nest → Nest) : (s.onNest k f).coll = s.coll := by
  unfold State.onNest; split <;> rfl
@[simp] theorem State.onNest_fabric (k : Nat) (f : Nest → Nest) : (s.onNest k f).fabric = s.fabric := by
  unfold State.onNest; split <;> rfl
@[simp] theorem State.onNest_secure (k : Nat) (f : Nest → Nest) : (s.onNest k f).secure = s.secure := by
  unfold State.onNest; split <;> rfl
@[simp] theorem State.onNest_flash (k : Nat) (f : Nest → Nest) : (s.onNest k f).flash = s.flash := by
  unfold State.onNest; split <;> rfl
@[simp] theorem State.onNest_sensors (k : Nat) (f : Nest → Nest) : (s.onNest k f).sensors = s.sensors := by
  unfold State.onNest; split <;> rfl
@[simp] theorem State.onNest_stopped (k : Nat) (f : Nest → Nest) : (s.onNest k f).stopped = s.stopped := by
  unfold State.onNest; split <;> rfl
@[simp] theorem State.onNest_skipping (k : Nat) (f : Nest → Nest) : (s.onNest k f).skipping = s.skipping := by
  unfold State.onNest; split <;> rfl
@[simp] theorem State.onNest_limits (k : Nat) (f : Nest → Nest) : (s.onNest k f).limits = s.limits := by
  unfold State.onNest; split <;> rfl
@[simp] theorem State.onNest_expanders (k : Nat) (f : Nest → Nest) : (s.onNest k f).expanders = s.expanders := by
  unfold State.onNest; split <;> rfl
@[simp] theorem State.onNest_refLost (k : Nat) (f : Nest → Nest) : (s.onNest k f).refLost = s.refLost := by
  unfold State.onNest; split <;> rfl
@[simp] theorem State.onNest_sending (k : Nat) (f : Nest → Nest) : (s.onNest k f).sending = s.sending := by
  unfold State.onNest; split <;> rfl
@[simp] theorem State.onNest_records (k : Nat) (f : Nest → Nest) : (s.onNest k f).records = s.records := by
  unfold State.onNest; split <;> rfl

/-! ### State.count -/

@[simp] theorem State.count_cycle (v n k : Nat) : (s.count v n k).cycle = s.cycle := State.onVdi_cycle ..
@[simp] theorem State.count_dt (v n k : Nat) : (s.count v n k).dt = s.dt := State.onVdi_dt ..
@[simp] theorem State.count_cur (v n k : Nat) : (s.count v n k).cur = s.cur := State.onVdi_cur ..
@[simp] theorem State.count_agenda (v n k : Nat) : (s.count v n k).agenda = s.agenda := State.onVdi_agenda ..
@[simp] theorem State.count_ev (v n k : Nat) : (s.count v n k).ev = s.ev := State.onVdi_ev ..
@[simp] theorem State.count_issueQ (v n k : Nat) : (s.count v n k).issueQ = s.issueQ := State.onVdi_issueQ ..
@[simp] theorem State.count_scheduled (v n k : Nat) : (s.count v n k).scheduled = s.scheduled := State.onVdi_scheduled ..
@[simp] theorem State.count_nestTurn (v n k : Nat) : (s.count v n k).nestTurn = s.nestTurn := State.onVdi_nestTurn ..
@[simp] theorem State.count_inputs (v n k : Nat) : (s.count v n k).inputs = s.inputs := State.onVdi_inputs ..
@[simp] theorem State.count_due (v n k : Nat) : (s.count v n k).due = s.due := State.onVdi_due ..
@[simp] theorem State.count_fresh (v n k : Nat) : (s.count v n k).fresh = s.fresh := State.onVdi_fresh ..
@[simp] theorem State.count_stamp (v n k : Nat) : (s.count v n k).stamp = s.stamp := State.onVdi_stamp ..
@[simp] theorem State.count_ctxs (v n k : Nat) : (s.count v n k).ctxs = s.ctxs := State.onVdi_ctxs ..
@[simp] theorem State.count_hands (v n k : Nat) : (s.count v n k).hands = s.hands := State.onVdi_hands ..
@[simp] theorem State.count_troupes (v n k : Nat) : (s.count v n k).troupes = s.troupes := State.onVdi_troupes ..
@[simp] theorem State.count_quads (v n k : Nat) : (s.count v n k).quads = s.quads := State.onVdi_quads ..
@[simp] theorem State.count_fars (v n k : Nat) : (s.count v n k).fars = s.fars := State.onVdi_fars ..
@[simp] theorem State.count_nests (v n k : Nat) : (s.count v n k).nests = s.nests := State.onVdi_nests ..
@[simp] theorem State.count_gens (v n k : Nat) : (s.count v n k).gens = s.gens := State.onVdi_gens ..
@[simp] theorem State.count_rr (v n k : Nat) : (s.count v n k).rr = s.rr := State.onVdi_rr ..
@[simp] theorem State.count_points (v n k : Nat) : (s.count v n k).points = s.points := State.onVdi_points ..
@[simp] theorem State.count_sems (v n k : Nat) : (s.count v n k).sems = s.sems := State.onVdi_sems ..
@[simp] theorem State.count_bins (v n k : Nat) : (s.count v n k).bins = s.bins := State.onVdi_bins ..
@[simp] theorem State.count_mem (v n k : Nat) : (s.count v n k).mem = s.mem := State.onVdi_mem ..
@[simp] theorem State.count_scratch (v n k : Nat) : (s.count v n k).scratch = s.scratch := State.onVdi_scratch ..
@[simp] theorem State.count_hostMem (v n k : Nat) : (s.count v n k).hostMem = s.hostMem := State.onVdi_hostMem ..
@[simp] theorem State.count_poison (v n k : Nat) : (s.count v n k).poison = s.poison := State.onVdi_poison ..
@[simp] theorem State.count_scratchPoison (v n k : Nat) : (s.count v n k).scratchPoison = s.scratchPoison := State.onVdi_scratchPoison ..
@[simp] theorem State.count_corrected (v n k : Nat) : (s.count v n k).corrected = s.corrected := State.onVdi_corrected ..
@[simp] theorem State.count_tlb (v n k : Nat) : (s.count v n k).tlb = s.tlb := State.onVdi_tlb ..
@[simp] theorem State.count_moves (v n k : Nat) : (s.count v n k).moves = s.moves := State.onVdi_moves ..
@[simp] theorem State.count_engines (v n k : Nat) : (s.count v n k).engines = s.engines := State.onVdi_engines ..
@[simp] theorem State.count_coll (v n k : Nat) : (s.count v n k).coll = s.coll := State.onVdi_coll ..
@[simp] theorem State.count_fabric (v n k : Nat) : (s.count v n k).fabric = s.fabric := State.onVdi_fabric ..
@[simp] theorem State.count_secure (v n k : Nat) : (s.count v n k).secure = s.secure := State.onVdi_secure ..
@[simp] theorem State.count_flash (v n k : Nat) : (s.count v n k).flash = s.flash := State.onVdi_flash ..
@[simp] theorem State.count_sensors (v n k : Nat) : (s.count v n k).sensors = s.sensors := State.onVdi_sensors ..
@[simp] theorem State.count_stopped (v n k : Nat) : (s.count v n k).stopped = s.stopped := State.onVdi_stopped ..
@[simp] theorem State.count_skipping (v n k : Nat) : (s.count v n k).skipping = s.skipping := State.onVdi_skipping ..
@[simp] theorem State.count_limits (v n k : Nat) : (s.count v n k).limits = s.limits := State.onVdi_limits ..
@[simp] theorem State.count_expanders (v n k : Nat) : (s.count v n k).expanders = s.expanders := State.onVdi_expanders ..
@[simp] theorem State.count_refLost (v n k : Nat) : (s.count v n k).refLost = s.refLost := State.onVdi_refLost ..
@[simp] theorem State.count_sending (v n k : Nat) : (s.count v n k).sending = s.sending := State.onVdi_sending ..
@[simp] theorem State.count_records (v n k : Nat) : (s.count v n k).records = s.records := State.onVdi_records ..

/-! ### State.onQueue -/

@[simp] theorem State.onQueue_cycle (v q : Nat) (f : Queue → Queue) : (s.onQueue v q f).cycle = s.cycle := State.onVdi_cycle ..
@[simp] theorem State.onQueue_dt (v q : Nat) (f : Queue → Queue) : (s.onQueue v q f).dt = s.dt := State.onVdi_dt ..
@[simp] theorem State.onQueue_cur (v q : Nat) (f : Queue → Queue) : (s.onQueue v q f).cur = s.cur := State.onVdi_cur ..
@[simp] theorem State.onQueue_agenda (v q : Nat) (f : Queue → Queue) : (s.onQueue v q f).agenda = s.agenda := State.onVdi_agenda ..
@[simp] theorem State.onQueue_ev (v q : Nat) (f : Queue → Queue) : (s.onQueue v q f).ev = s.ev := State.onVdi_ev ..
@[simp] theorem State.onQueue_issueQ (v q : Nat) (f : Queue → Queue) : (s.onQueue v q f).issueQ = s.issueQ := State.onVdi_issueQ ..
@[simp] theorem State.onQueue_scheduled (v q : Nat) (f : Queue → Queue) : (s.onQueue v q f).scheduled = s.scheduled := State.onVdi_scheduled ..
@[simp] theorem State.onQueue_nestTurn (v q : Nat) (f : Queue → Queue) : (s.onQueue v q f).nestTurn = s.nestTurn := State.onVdi_nestTurn ..
@[simp] theorem State.onQueue_inputs (v q : Nat) (f : Queue → Queue) : (s.onQueue v q f).inputs = s.inputs := State.onVdi_inputs ..
@[simp] theorem State.onQueue_due (v q : Nat) (f : Queue → Queue) : (s.onQueue v q f).due = s.due := State.onVdi_due ..
@[simp] theorem State.onQueue_fresh (v q : Nat) (f : Queue → Queue) : (s.onQueue v q f).fresh = s.fresh := State.onVdi_fresh ..
@[simp] theorem State.onQueue_stamp (v q : Nat) (f : Queue → Queue) : (s.onQueue v q f).stamp = s.stamp := State.onVdi_stamp ..
@[simp] theorem State.onQueue_ctxs (v q : Nat) (f : Queue → Queue) : (s.onQueue v q f).ctxs = s.ctxs := State.onVdi_ctxs ..
@[simp] theorem State.onQueue_hands (v q : Nat) (f : Queue → Queue) : (s.onQueue v q f).hands = s.hands := State.onVdi_hands ..
@[simp] theorem State.onQueue_troupes (v q : Nat) (f : Queue → Queue) : (s.onQueue v q f).troupes = s.troupes := State.onVdi_troupes ..
@[simp] theorem State.onQueue_quads (v q : Nat) (f : Queue → Queue) : (s.onQueue v q f).quads = s.quads := State.onVdi_quads ..
@[simp] theorem State.onQueue_fars (v q : Nat) (f : Queue → Queue) : (s.onQueue v q f).fars = s.fars := State.onVdi_fars ..
@[simp] theorem State.onQueue_nests (v q : Nat) (f : Queue → Queue) : (s.onQueue v q f).nests = s.nests := State.onVdi_nests ..
@[simp] theorem State.onQueue_gens (v q : Nat) (f : Queue → Queue) : (s.onQueue v q f).gens = s.gens := State.onVdi_gens ..
@[simp] theorem State.onQueue_rr (v q : Nat) (f : Queue → Queue) : (s.onQueue v q f).rr = s.rr := State.onVdi_rr ..
@[simp] theorem State.onQueue_points (v q : Nat) (f : Queue → Queue) : (s.onQueue v q f).points = s.points := State.onVdi_points ..
@[simp] theorem State.onQueue_sems (v q : Nat) (f : Queue → Queue) : (s.onQueue v q f).sems = s.sems := State.onVdi_sems ..
@[simp] theorem State.onQueue_bins (v q : Nat) (f : Queue → Queue) : (s.onQueue v q f).bins = s.bins := State.onVdi_bins ..
@[simp] theorem State.onQueue_mem (v q : Nat) (f : Queue → Queue) : (s.onQueue v q f).mem = s.mem := State.onVdi_mem ..
@[simp] theorem State.onQueue_scratch (v q : Nat) (f : Queue → Queue) : (s.onQueue v q f).scratch = s.scratch := State.onVdi_scratch ..
@[simp] theorem State.onQueue_hostMem (v q : Nat) (f : Queue → Queue) : (s.onQueue v q f).hostMem = s.hostMem := State.onVdi_hostMem ..
@[simp] theorem State.onQueue_poison (v q : Nat) (f : Queue → Queue) : (s.onQueue v q f).poison = s.poison := State.onVdi_poison ..
@[simp] theorem State.onQueue_scratchPoison (v q : Nat) (f : Queue → Queue) : (s.onQueue v q f).scratchPoison = s.scratchPoison := State.onVdi_scratchPoison ..
@[simp] theorem State.onQueue_corrected (v q : Nat) (f : Queue → Queue) : (s.onQueue v q f).corrected = s.corrected := State.onVdi_corrected ..
@[simp] theorem State.onQueue_tlb (v q : Nat) (f : Queue → Queue) : (s.onQueue v q f).tlb = s.tlb := State.onVdi_tlb ..
@[simp] theorem State.onQueue_moves (v q : Nat) (f : Queue → Queue) : (s.onQueue v q f).moves = s.moves := State.onVdi_moves ..
@[simp] theorem State.onQueue_engines (v q : Nat) (f : Queue → Queue) : (s.onQueue v q f).engines = s.engines := State.onVdi_engines ..
@[simp] theorem State.onQueue_coll (v q : Nat) (f : Queue → Queue) : (s.onQueue v q f).coll = s.coll := State.onVdi_coll ..
@[simp] theorem State.onQueue_fabric (v q : Nat) (f : Queue → Queue) : (s.onQueue v q f).fabric = s.fabric := State.onVdi_fabric ..
@[simp] theorem State.onQueue_secure (v q : Nat) (f : Queue → Queue) : (s.onQueue v q f).secure = s.secure := State.onVdi_secure ..
@[simp] theorem State.onQueue_flash (v q : Nat) (f : Queue → Queue) : (s.onQueue v q f).flash = s.flash := State.onVdi_flash ..
@[simp] theorem State.onQueue_sensors (v q : Nat) (f : Queue → Queue) : (s.onQueue v q f).sensors = s.sensors := State.onVdi_sensors ..
@[simp] theorem State.onQueue_stopped (v q : Nat) (f : Queue → Queue) : (s.onQueue v q f).stopped = s.stopped := State.onVdi_stopped ..
@[simp] theorem State.onQueue_skipping (v q : Nat) (f : Queue → Queue) : (s.onQueue v q f).skipping = s.skipping := State.onVdi_skipping ..
@[simp] theorem State.onQueue_limits (v q : Nat) (f : Queue → Queue) : (s.onQueue v q f).limits = s.limits := State.onVdi_limits ..
@[simp] theorem State.onQueue_expanders (v q : Nat) (f : Queue → Queue) : (s.onQueue v q f).expanders = s.expanders := State.onVdi_expanders ..
@[simp] theorem State.onQueue_refLost (v q : Nat) (f : Queue → Queue) : (s.onQueue v q f).refLost = s.refLost := State.onVdi_refLost ..
@[simp] theorem State.onQueue_sending (v q : Nat) (f : Queue → Queue) : (s.onQueue v q f).sending = s.sending := State.onVdi_sending ..
@[simp] theorem State.onQueue_records (v q : Nat) (f : Queue → Queue) : (s.onQueue v q f).records = s.records := State.onVdi_records ..

/-! ### State.msix -/

@[simp] theorem State.msix_cycle (v k : Nat) : (s.msix v k).cycle = s.cycle := State.onVdi_cycle ..
@[simp] theorem State.msix_dt (v k : Nat) : (s.msix v k).dt = s.dt := State.onVdi_dt ..
@[simp] theorem State.msix_cur (v k : Nat) : (s.msix v k).cur = s.cur := State.onVdi_cur ..
@[simp] theorem State.msix_agenda (v k : Nat) : (s.msix v k).agenda = s.agenda := State.onVdi_agenda ..
@[simp] theorem State.msix_ev (v k : Nat) : (s.msix v k).ev = s.ev := State.onVdi_ev ..
@[simp] theorem State.msix_issueQ (v k : Nat) : (s.msix v k).issueQ = s.issueQ := State.onVdi_issueQ ..
@[simp] theorem State.msix_scheduled (v k : Nat) : (s.msix v k).scheduled = s.scheduled := State.onVdi_scheduled ..
@[simp] theorem State.msix_nestTurn (v k : Nat) : (s.msix v k).nestTurn = s.nestTurn := State.onVdi_nestTurn ..
@[simp] theorem State.msix_inputs (v k : Nat) : (s.msix v k).inputs = s.inputs := State.onVdi_inputs ..
@[simp] theorem State.msix_due (v k : Nat) : (s.msix v k).due = s.due := State.onVdi_due ..
@[simp] theorem State.msix_fresh (v k : Nat) : (s.msix v k).fresh = s.fresh := State.onVdi_fresh ..
@[simp] theorem State.msix_stamp (v k : Nat) : (s.msix v k).stamp = s.stamp := State.onVdi_stamp ..
@[simp] theorem State.msix_ctxs (v k : Nat) : (s.msix v k).ctxs = s.ctxs := State.onVdi_ctxs ..
@[simp] theorem State.msix_hands (v k : Nat) : (s.msix v k).hands = s.hands := State.onVdi_hands ..
@[simp] theorem State.msix_troupes (v k : Nat) : (s.msix v k).troupes = s.troupes := State.onVdi_troupes ..
@[simp] theorem State.msix_quads (v k : Nat) : (s.msix v k).quads = s.quads := State.onVdi_quads ..
@[simp] theorem State.msix_fars (v k : Nat) : (s.msix v k).fars = s.fars := State.onVdi_fars ..
@[simp] theorem State.msix_nests (v k : Nat) : (s.msix v k).nests = s.nests := State.onVdi_nests ..
@[simp] theorem State.msix_gens (v k : Nat) : (s.msix v k).gens = s.gens := State.onVdi_gens ..
@[simp] theorem State.msix_rr (v k : Nat) : (s.msix v k).rr = s.rr := State.onVdi_rr ..
@[simp] theorem State.msix_points (v k : Nat) : (s.msix v k).points = s.points := State.onVdi_points ..
@[simp] theorem State.msix_sems (v k : Nat) : (s.msix v k).sems = s.sems := State.onVdi_sems ..
@[simp] theorem State.msix_bins (v k : Nat) : (s.msix v k).bins = s.bins := State.onVdi_bins ..
@[simp] theorem State.msix_mem (v k : Nat) : (s.msix v k).mem = s.mem := State.onVdi_mem ..
@[simp] theorem State.msix_scratch (v k : Nat) : (s.msix v k).scratch = s.scratch := State.onVdi_scratch ..
@[simp] theorem State.msix_hostMem (v k : Nat) : (s.msix v k).hostMem = s.hostMem := State.onVdi_hostMem ..
@[simp] theorem State.msix_poison (v k : Nat) : (s.msix v k).poison = s.poison := State.onVdi_poison ..
@[simp] theorem State.msix_scratchPoison (v k : Nat) : (s.msix v k).scratchPoison = s.scratchPoison := State.onVdi_scratchPoison ..
@[simp] theorem State.msix_corrected (v k : Nat) : (s.msix v k).corrected = s.corrected := State.onVdi_corrected ..
@[simp] theorem State.msix_tlb (v k : Nat) : (s.msix v k).tlb = s.tlb := State.onVdi_tlb ..
@[simp] theorem State.msix_moves (v k : Nat) : (s.msix v k).moves = s.moves := State.onVdi_moves ..
@[simp] theorem State.msix_engines (v k : Nat) : (s.msix v k).engines = s.engines := State.onVdi_engines ..
@[simp] theorem State.msix_coll (v k : Nat) : (s.msix v k).coll = s.coll := State.onVdi_coll ..
@[simp] theorem State.msix_fabric (v k : Nat) : (s.msix v k).fabric = s.fabric := State.onVdi_fabric ..
@[simp] theorem State.msix_secure (v k : Nat) : (s.msix v k).secure = s.secure := State.onVdi_secure ..
@[simp] theorem State.msix_flash (v k : Nat) : (s.msix v k).flash = s.flash := State.onVdi_flash ..
@[simp] theorem State.msix_sensors (v k : Nat) : (s.msix v k).sensors = s.sensors := State.onVdi_sensors ..
@[simp] theorem State.msix_stopped (v k : Nat) : (s.msix v k).stopped = s.stopped := State.onVdi_stopped ..
@[simp] theorem State.msix_skipping (v k : Nat) : (s.msix v k).skipping = s.skipping := State.onVdi_skipping ..
@[simp] theorem State.msix_limits (v k : Nat) : (s.msix v k).limits = s.limits := State.onVdi_limits ..
@[simp] theorem State.msix_expanders (v k : Nat) : (s.msix v k).expanders = s.expanders := State.onVdi_expanders ..
@[simp] theorem State.msix_refLost (v k : Nat) : (s.msix v k).refLost = s.refLost := State.onVdi_refLost ..
@[simp] theorem State.msix_sending (v k : Nat) : (s.msix v k).sending = s.sending := State.onVdi_sending ..
@[simp] theorem State.msix_records (v k : Nat) : (s.msix v k).records = s.records := State.onVdi_records ..

/-! ### What the updates put in place -/

@[simp] theorem State.setCtx_ctxs (u : UnitId) (c : Ctx) : (s.setCtx u c).ctxs = s.ctxs.put u c := rfl
@[simp] theorem State.setQuad_quads (k : Nat) (q : Quad) : (s.setQuad k q).quads = s.quads.put k q := rfl
@[simp] theorem State.soon_agenda (e : Event) : (s.soon e).agenda = s.agenda ++ [e] := rfl
@[simp] theorem State.later_due (e : Event) : (s.later e).due = s.due ++ [(s.cycle + 1 + Config.latency s.fresh, e)] := rfl
@[simp] theorem State.atCycle_due (k : Nat) (e : Event) : (s.atCycle k e).due = s.due ++ [(k, e)] := rfl

theorem State.onCtx_eq {s : State} {u : UnitId} {c : Ctx} (h : s.ctxs.find u = some c) (f : Ctx → Ctx) :
    s.onCtx u f = s.setCtx u (f c) := by
  simp only [State.onCtx, h]

theorem State.onHand_eq {s : State} {u : UnitId} {h : Hand} (e : s.hands.find u = some h) (f : Hand → Hand) :
    s.onHand u f = { s with hands := s.hands.put u (f h) } := by
  simp only [State.onHand, e]

theorem State.onTroupe_eq {s : State} {k : Nat} {t : Troupe} (h : s.troupes.find k = some t) (f : Troupe → Troupe) :
    s.onTroupe k f = { s with troupes := s.troupes.put k (f t) } := by
  simp only [State.onTroupe, h]

theorem State.onVdi_eq {s : State} {k : Nat} {v : Vdi} (h : s.vdis.find k = some v) (f : Vdi → Vdi) :
    s.onVdi k f = { s with vdis := s.vdis.put k (f v) } := by
  simp only [State.onVdi, h]

theorem State.onNest_eq {s : State} {k : Nat} {n : Nest} (h : s.nests.find k = some n) (f : Nest → Nest) :
    s.onNest k f = { s with nests := s.nests.put k (f n) } := by
  simp only [State.onNest, h]

end Sys2Proof.Machine
end

