-- ==== Sys2Proof/Laws/Ops.lean ====
section
/-! SUPPORT. What the shared operations over registers can do, said once for each. -/

namespace Sys2Proof.Machine

/-! ### Paths of a unit -/

@[simp] theorem Ctx.path_setPath (c : Ctx) (b : Bool) (p : Path) : (c.setPath b p).path b = p := by cases b <;> rfl

@[simp] theorem Ctx.path_setPath_not (c : Ctx) (b : Bool) (p : Path) : (c.setPath b p).path (!b) = c.path (!b) := by
  cases b <;> rfl

@[simp] theorem Ctx.path_onPath (c : Ctx) (b : Bool) (f : Path → Path) : (c.onPath b f).path b = f (c.path b) := by
  simp [Ctx.onPath]

@[simp] theorem Ctx.path_onPath_not (c : Ctx) (b : Bool) (f : Path → Path) : (c.onPath b f).path (!b) = c.path (!b) := by
  simp [Ctx.onPath]

@[simp] theorem Ctx.setPath_path (c : Ctx) (b : Bool) : c.setPath b (c.path b) = c := by cases b <;> rfl

/-! ### The undo log -/

/-- A logged write changes the undo log alone. -/
theorem Ctx.log_eq (c : Ctx) (i : Issue) (x : Saved) : ∃ u, c.log i x = { c with undo := u } := by
  unfold Ctx.log Ctx.logAs
  split
  · exact ⟨_, rfl⟩
  · exact ⟨c.undo, rfl⟩

/-! ### Results -/

/-- A shift into the window changes the path's window alone. -/
theorem Ctx.shift_eq (c : Ctx) (i : Issue) (lat : Nat) (x : WVal) :
    c.shift i lat x = c.onPath i.slotB (fun p => { p with win := pushed i lat x p.win }) := by
  unfold Ctx.shift pushed
  split
  · cases i.slotB <;> simp [Ctx.onPath, Ctx.path, Ctx.setPath]
  · rfl

@[simp] theorem Ctx.sreg_onPath (c : Ctx) (b : Bool) (f : Path → Path) (n : Nat) : (c.onPath b f).sreg n = c.sreg n := by
  cases b <;> rfl

@[simp] theorem Ctx.vreg_onPath (c : Ctx) (b : Bool) (f : Path → Path) (n : Nat) : (c.onPath b f).vreg n = c.vreg n := by
  cases b <;> rfl

/-- A register write that names register `n` changes it and the bookkeeping alone. -/
theorem Ctx.putS_eq (c : Ctx) (i : Issue) (lat n : Nat) (x : Dword) :
    ∃ p u q, c.putS i lat n x = { c with s := c.s.setIfInBounds n x, pend := p, undo := u, poisonS := q } := by
  obtain ⟨u, h⟩ := c.log_eq i (.s n (c.sreg n))
  rw [Ctx.log] at h
  exact ⟨_, u, _, by rw [Ctx.putS, Ctx.putSAs, h]⟩

/-- A vector register write changes register `n` and the bookkeeping alone. -/
theorem Ctx.putV_eq (c : Ctx) (i : Issue) (lat n : Nat) (x : VVal) :
    ∃ p u q, c.putV i lat n x = { c with v := c.v.setIfInBounds n x, pend := p, undo := u, poisonV := q } := by
  obtain ⟨u, h⟩ := c.log_eq i (.v n (c.vreg n))
  exact ⟨_, u, _, by rw [Ctx.putV, h]⟩

/-- A scalar write is a scalar result that keeps cf. -/
theorem Ctx.wrS_result (c : Ctx) (i : Issue) (lat : Nat) (d : Reg) (x : Dword) :
    c.ScalarResult (c.wrS i lat d x) i lat d x (c.path i.slotB).cf := by
  obtain ⟨p, u, q, h⟩ := c.putS_eq i lat d.toNat x
  by_cases hd : d.toNat < 48
  · rw [Ctx.wrS, if_pos hd, h, Ctx.shift_eq]
    refine ⟨fun _ => by rw [Ctx.sreg_onPath]; simp [Ctx.sreg, hd], fun n hn => ?_, ?_, ?_, ?_⟩
    · simp only [Ctx.sreg_onPath]
      simp [Ctx.sreg, Ne.symm hn]
    · rw [Ctx.path_onPath]; cases i.slotB <;> rfl
    · rw [Ctx.path_onPath_not]; cases i.slotB <;> rfl
    · cases i.slotB <;> rfl
  · rw [Ctx.wrS, if_neg hd, Ctx.shift_eq]
    refine ⟨fun h => absurd h hd, fun n _ => by simp, by simp, by simp, ?_⟩
    cases i.slotB <;> rfl

/-- A write of cf changes cf of the path, beside the undo log. -/
theorem Ctx.putCf_result {c c' : Ctx} {i : Issue} {lat : Nat} {d : Reg} {x : Dword} {k : Bool} (h : c.ScalarResult c' i lat d x k) (b : Bool) :
    c.ScalarResult (c'.putCf i b) i lat d x b := by
  obtain ⟨u, hu⟩ := c'.log_eq i (.cf (c'.path i.slotB).cf)
  rw [Ctx.putCf, hu]
  refine ⟨fun hd => ?_, fun n hn => ?_, ?_, ?_, ?_⟩
  · rw [Ctx.sreg_onPath]
    exact h.result hd
  · rw [Ctx.sreg_onPath]
    exact h.others n hn
  · have := h.path
    cases hb : i.slotB <;> simp_all [Ctx.onPath, Ctx.path, Ctx.setPath]
  · have := h.sibling
    cases hb : i.slotB <;> simp_all [Ctx.onPath, Ctx.path, Ctx.setPath]
  · rw [h.frame]
    cases i.slotB <;> rfl

/-! ### Lanes -/

theorem VVal.lane_ofFn (f : Nat → Word) (l : Nat) (h : l < 32) : (VVal.ofFn f).lane l = f l := by
  simp [VVal.ofFn, VVal.lane, h]

/-- A masked write: active lanes take the new value, the others keep the old one. -/
theorem merge_lane (em : Word) (old new : VVal) (l : Nat) (h : l < 32) :
    (merge em old new).lane l = if active em l then new.lane l else old.lane l := by
  unfold merge
  split
  · rename_i h0
    simp [h0, active]
  · split
    · rename_i h1
      have hb : active (BitVec.allOnes 32) l = true := by
        simp only [active, BitVec.getLsbD_allOnes, h, decide_true]
      rw [h1, if_pos hb]
    · exact VVal.lane_ofFn _ l h

/-- A vector write is a vector result that sets no bit of st. -/
theorem Ctx.wrV_result (c : Ctx) (i : Issue) (lat : Nat) (d : Reg) (x : VVal) :
    c.VectorResult (c.wrV i lat d x) i lat d x (c.st ||| 0#7) := by
  have hw (n : Nat) (h : n < 32) (ha : active i.em n = true) (o : VVal) : (merge i.em o x).lane n = x.lane n := by
    rw [merge_lane _ _ _ _ h, if_pos ha]
  by_cases hd : d.toNat < 56
  · obtain ⟨p, u, q, h⟩ := c.putV_eq i lat d.toNat (merge i.em (c.vreg d.toNat) x)
    by_cases he : i.em = 0#32
    · rw [Ctx.wrV, if_pos hd]
      simp only [he, if_true]
      rw [Ctx.shift_eq]
      refine ⟨fun _ l _ ha => ?_, fun l _ _ => by simp, fun n _ => by simp, fun _ => ⟨merge 0#32 (c.vreg d.toNat) x, by simp, fun l _ ha => ?_⟩, by simp, by simp, ?_⟩
      · rw [he] at ha
        simp [active] at ha
      · rw [he] at ha
        simp [active] at ha
      · cases i.slotB <;> simp [Ctx.onPath, Ctx.path, Ctx.setPath]
    · rw [Ctx.wrV, if_pos hd]
      simp only [if_neg he]
      rw [h, Ctx.shift_eq]
      have hv : (Vector.setIfInBounds c.v d.toNat (merge i.em (c.vreg d.toNat) x))[d.toNat]?.getD (.uni 0) = merge i.em (c.vreg d.toNat) x := by
        simp [hd]
      refine ⟨fun _ l hl ha => ?_, fun l hl ha => ?_, fun n hn => ?_, fun _ => ⟨merge i.em (c.vreg d.toNat) x, by rw [Ctx.path_onPath]; cases i.slotB <;> rfl, fun l hl ha => hw l hl ha _⟩, by rw [Ctx.path_onPath]; cases i.slotB <;> rfl, by rw [Ctx.path_onPath_not]; cases i.slotB <;> rfl, ?_⟩
      · rw [Ctx.vreg_onPath, Ctx.vreg, hv, hw l hl ha]
      · rw [Ctx.vreg_onPath]
        show ((Vector.setIfInBounds c.v d.toNat (merge i.em (c.vreg d.toNat) x))[d.toNat]?.getD (.uni 0)).lane l = _
        rw [hv, merge_lane _ _ _ _ hl, if_neg (by simp [ha])]
      · simp only [Ctx.vreg_onPath]
        simp [Ctx.vreg, Ne.symm hn]
      · cases i.slotB <;> simp [Ctx.onPath, Ctx.path, Ctx.setPath]
  · rw [Ctx.wrV, if_neg hd, Ctx.shift_eq]
    refine ⟨fun h => absurd h hd, fun l _ _ => by simp, fun n _ => by simp, fun _ => ⟨merge i.em (.uni 0) x, by simp, fun l hl ha => hw l hl ha _⟩, by simp, by simp, ?_⟩
    cases i.slotB <;> simp [Ctx.onPath, Ctx.path, Ctx.setPath]

/-- Setting bits of st changes st alone. -/
theorem Ctx.setSt_result {c c' : Ctx} {i : Issue} {lat : Nat} {d : Reg} {x : VVal} {st : BitVec 7}
    (h : c.VectorResult c' i lat d x st) (b : BitVec 7) : c.VectorResult (c'.setSt b) i lat d x (st ||| b) := by
  refine ⟨h.active_, h.inactive, h.others, h.window, h.path, h.sibling, ?_⟩
  rw [Ctx.setSt, h.frame]

/-! ### Words -/

/-- A word whose effect lies in its unit's registers alone completes when its unit is there. -/
theorem State.onCur_next {s : State} {c : Ctx} (h : s.issuing c) (f : Issue → Ctx → Ctx) :
    s.onCur f = .next (s.setCtx s.unit (f s.issue c)) := by
  unfold State.issuing State.unit at h
  simp only [State.onCur, State.unit, h]

/-- A word that acts on the machine completes when its unit is there. -/
theorem State.withCur_next {s : State} {c : Ctx} (h : s.issuing c) (f : Issue → Ctx → State) :
    s.withCur f = .next (f s.issue c) := by
  unfold State.issuing State.unit at h
  simp only [State.withCur, h]

end Sys2Proof.Machine
end

