-- ==== Sys2Proof/Laws/Control.lean ====
section
/-! SUPPORT. What taking an exception, returning from one and branching can do, said once for each. -/

namespace Sys2Proof.Machine

variable {s : State} {c : Ctx}

/-- A word that changes the path at issue alone. -/
theorem State.givesPath_of {j : Instr} {u : List Undo} {p : Path} (h : s.issuing c) {f : Issue → Ctx → Ctx}
    (he : exec j s = s.onCur f) (hf : f s.issue c = { c with undo := u }.setPath s.cur.turn.slotB p) : s.givesPath c j p :=
  ⟨u, by rw [he, State.onCur_next h, hf]⟩

/-- A branch to a packet of the code moves the path there. -/
theorem State.branchTo_in {t : Int} (h : s.issuing c) (h0 : 0 ≤ t) (h1 : t < codePackets (s.code s.unit)) :
    s.branchTo t = s.setCtx s.unit (c.setPath s.cur.turn.slotB { s.here c with pc := 4 * t.toNat, mstep := none }) := by
  unfold State.branchTo
  simp only
  have h2 : ¬ (t < 0 ∨ (codePackets (s.code s.cur.turn.unit) : Int) ≤ t) := by
    simp only [State.unit] at h1
    omega
  rw [if_neg h2, State.onCtx_eq h]
  rfl

/-- A branch that leaves the code takes an exception at its word. -/
theorem State.branchTo_out {t : Int} (h : t < 0 ∨ (codePackets (s.code s.unit) : Int) ≤ t) :
    s.branchTo t = s.raiseAfter .protFault (s.cur.word.setWidth 64) s.cur.pos := by
  unfold State.branchTo
  exact if_pos h

/-- Entering a handler with no lane parked. -/
theorem State.enterHandler_entered {t : Trap} (h : s.issuing c) (hl : t.level = 1 ∨ t.level = 2) (hp : t.park = 0#32) (hr : t.record = [])
    (hm : t.em = (s.here c).em) :
    ∃ c', s.enterHandler s.unit s.cur.turn.slotB t = (s.setCtx s.unit c').count (s.vdiOf s.unit) 6 1 ∧
      c.Entered c' s.cur.turn.slotB s.cycle t.level t.cause t.tval t.epc t.mstep := by
  unfold State.enterHandler
  rw [State.onCtx_eq h]
  refine ⟨_, rfl, ?_⟩
  obtain ⟨level, cause, tval, epc, mstep, em, park, record⟩ := t
  simp only at hl hp hr hm
  subst hp hr hm
  obtain rfl | rfl := hl <;> refine ⟨?_, ?_, ?_, ?_⟩ <;> unfold State.here <;> cases s.cur.turn.slotB <;> rfl

/-- Taking an exception enters its handler, when the level above the path's own is free. -/
theorem State.take_entered {l epc : Nat} {cause : Cause} {tval : Dword} (h : s.issuing c) (ha : s.handledAt c l)
    (hc : cause ≠ .stage2Fault) :
    ∃ c', s.take cause tval epc = (s.setCtx s.unit c').count (s.vdiOf s.unit) 6 1 ∧
      c.Entered c' s.cur.turn.slotB s.cycle l cause.code tval epc (if epc = s.cur.pos then s.cur.mstep else none) := by
  obtain ⟨hk, hl, hb⟩ := ha
  have hf : s.ctxs.find s.cur.turn.unit = some c := h
  let tr : Trap := { level := l, cause := cause.code, tval := tval, epc := epc, mstep := if epc = s.cur.pos then s.cur.mstep else none,
                     em := (s.here c).em, park := 0#32, record := [] }
  have hl2 : l = 1 ∨ l = 2 := by obtain h | h := hl <;> simp [h.2]
  suffices ht : s.take cause tval epc = s.enterHandler s.unit s.cur.turn.slotB tr from
    ht ▸ State.enterHandler_entered (t := tr) h hl2 rfl rfl rfl
  have ht : s.take cause tval epc = s.castTrap s.cur.turn.unit s.cur.turn.slotB cause tval epc
      (if epc = s.cur.pos then s.cur.mstep else none) (s.here c).em 0#32 [] := by
    unfold State.take
    simp only [hf]
    split
    · rename_i hu; simp [State.unit, hu, UnitId.kind] at hk
    · rename_i hu; simp [State.unit, hu, UnitId.kind] at hk
    · rfl
  rw [ht]
  unfold State.castTrap
  simp only [hf]
  obtain ⟨hp, rfl⟩ | ⟨hp, rfl⟩ := hl
  · have hp' : (c.path s.cur.turn.slotB).plvl = 0#2 := hp
    have hn : ¬ ((0#2 : BitVec 2) = 2#2) := by decide
    have hb' : c.sup.busy = none ∨ c.sup.busy = some (c.path s.cur.turn.slotB).pid := hb
    simp only [hp', hn, if_false, true_and, if_pos hc, if_true, if_pos hb']
    rfl
  · have hp' : (c.path s.cur.turn.slotB).plvl = 1#2 := hp
    have hn : ¬ ((1#2 : BitVec 2) = 2#2) := by decide
    have hn2 : ¬ ((1#2 : BitVec 2) = 0#2 ∧ cause ≠ .stage2Fault) := by simp
    have hn3 : ¬ ((2 : Nat) = 1) := by decide
    have hb' : c.hyp.busy = none ∨ c.hyp.busy = some (c.path s.cur.turn.slotB).pid := hb
    simp only [hp', hn, if_false, if_neg hn2, if_neg hn3, if_pos hb']
    rfl

/-- A word that raises an exception enters its handler with none of its group's effect. -/
theorem State.raise_traps {j : Instr} {l : Nat} {cause : Cause} (h : s.issuing c) (ha : s.handledAt c l) (hc : cause ≠ .stage2Fault)
    (he : exec j s = .next (s.raise cause)) : s.traps c j l cause.code (s.cur.word.setWidth 64) s.cur.pos false := by
  obtain ⟨c', h1, h2⟩ := State.take_entered (epc := s.cur.pos) (tval := s.cur.word.setWidth 64) h ha hc
  exact ⟨c', by rw [he, State.raise, h1], h2⟩

/-- No earlier word of the group holds a path that nothing holds. -/
theorem State.trapBehind_free (h : s.issuing c) (hf : (s.here c).held = none) : s.trapBehind = false := by
  have hc : s.ctxs.find s.cur.turn.unit = some c := h
  have hf' : (c.path s.cur.turn.slotB).held = none := hf
  simp [State.trapBehind, hc, hf']

/-- A word that raises an exception after its own place in the group, when no earlier word holds the path. -/
theorem State.raiseAfter_traps {j : Instr} {l epc : Nat} {cause : Cause} {tval : Dword} (h : s.issuing c) (hf : (s.here c).held = none)
    (ha : s.handledAt c l) (hc : cause ≠ .stage2Fault) (he : exec j s = .next (s.raiseAfter cause tval epc)) :
    s.traps c j l cause.code tval epc true := by
  obtain ⟨c', h1, h2⟩ := State.take_entered (epc := epc) (tval := tval) h ha hc
  exact ⟨c', by rw [he, State.raiseAfter, State.trapBehind_free h hf, if_neg Bool.false_ne_true, h1], h2⟩

end Sys2Proof.Machine
end

