-- ==== Sys2Proof/Laws/Decode.lean ====
section
/-! SUPPORT. The fields of an encoded word, and what the decoders read from one. -/

namespace Sys2Proof

/-! ### Fields -/

/-- A field is the quotient and remainder of the word's number. -/
theorem fld_of_nat (w : Word) (lo n : Nat) (x : BitVec n) (h : w.toNat / 2 ^ lo % 2 ^ n = x.toNat) : fld w lo n = x := by
  apply BitVec.eq_of_toNat_eq
  simp [fld, BitVec.extractLsb'_toNat, Nat.shiftRight_eq_div_pow, h]

/-- The number of a concatenation. -/
theorem append_nat {m n : Nat} (x : BitVec m) (y : BitVec n) : (x ++ y).toNat = x.toNat * 2 ^ n + y.toNat := by
  rw [BitVec.toNat_append, Nat.shiftLeft_eq, Nat.mul_comm, ← Nat.two_pow_add_eq_or_of_lt y.isLt]

/-- A word whose top four bits are zero has C = 0 and STALL = 0. -/
theorem unframed_of_top (w : Word) (h : fld w 28 4 = 0#4) : unframed w = w := by
  apply BitVec.eq_of_toNat_eq
  have := congrArg BitVec.toNat h
  simp only [fld, BitVec.extractLsb'_toNat, Nat.shiftRight_eq_div_pow] at this
  simp only [unframed, append_nat, BitVec.extractLsb'_toNat, Nat.shiftRight_eq_div_pow]
  simp at this ⊢
  omega

/-- The number of a framed word. -/
theorem framed_nat (c : Bool) (st : BitVec 3) (w : Word) : (framed c st w).toNat = c.toNat * 2 ^ 31 + st.toNat * 2 ^ 28 + w.toNat % 2 ^ 28 := by
  simp only [framed, append_nat, BitVec.extractLsb'_toNat, Nat.shiftRight_eq_div_pow]
  cases c
  · simp
  · simp
    omega

/-- C and STALL lie in no other field. -/
theorem fld_framed (c : Bool) (st : BitVec 3) (w : Word) (lo n : Nat) (h : lo + n ≤ 28) : fld (framed c st w) lo n = fld w lo n := by
  apply BitVec.eq_of_getLsbD_eq
  intro i hi
  simp only [fld, framed, BitVec.getLsbD_extractLsb', hi, decide_true, Bool.true_and, BitVec.getLsbD_append, show lo + i < 28 by omega, if_true,
    Nat.zero_add]

/-- The word without C and STALL does not depend on them. -/
theorem unframed_framed (c : Bool) (st : BitVec 3) (w : Word) : unframed (framed c st w) = unframed w := by
  have h := fld_framed c st w 0 28 (by omega)
  simp only [fld] at h
  rw [unframed, unframed, h]

theorem mkT_nat (m : BitVec 6) (d : BitVec 6) (a : BitVec 6) (b : BitVec 6) (f : BitVec 4) : (mkT m d a b f).toNat = m.toNat * 2 ^ 22 + d.toNat * 2 ^ 16 + a.toNat * 2 ^ 10 + b.toNat * 2 ^ 4 + f.toNat := by
  simp only [mkT, append_nat]
  simp
  omega

theorem mkT_m (m : BitVec 6) (d : BitVec 6) (a : BitVec 6) (b : BitVec 6) (f : BitVec 4) : fld (mkT m d a b f) 22 6 = m := by
  apply fld_of_nat; rw [mkT_nat]; omega

theorem mkT_d (m : BitVec 6) (d : BitVec 6) (a : BitVec 6) (b : BitVec 6) (f : BitVec 4) : fld (mkT m d a b f) 16 6 = d := by
  apply fld_of_nat; rw [mkT_nat]; omega

theorem mkT_a (m : BitVec 6) (d : BitVec 6) (a : BitVec 6) (b : BitVec 6) (f : BitVec 4) : fld (mkT m d a b f) 10 6 = a := by
  apply fld_of_nat; rw [mkT_nat]; omega

theorem mkT_b (m : BitVec 6) (d : BitVec 6) (a : BitVec 6) (b : BitVec 6) (f : BitVec 4) : fld (mkT m d a b f) 4 6 = b := by
  apply fld_of_nat; rw [mkT_nat]; omega

theorem mkT_f (m : BitVec 6) (d : BitVec 6) (a : BitVec 6) (b : BitVec 6) (f : BitVec 4) : fld (mkT m d a b f) 0 4 = f := by
  apply fld_of_nat; rw [mkT_nat]; omega

theorem mkT_top (m : BitVec 6) (d : BitVec 6) (a : BitVec 6) (b : BitVec 6) (f : BitVec 4) : fld (mkT m d a b f) 28 4 = 0#4 := by
  apply fld_of_nat; rw [mkT_nat]; simp; omega

theorem mkI_nat (m : BitVec 6) (d : BitVec 6) (i : BitVec 16) : (mkI m d i).toNat = m.toNat * 2 ^ 22 + d.toNat * 2 ^ 16 + i.toNat := by
  simp only [mkI, append_nat]
  simp
  omega

theorem mkI_m (m : BitVec 6) (d : BitVec 6) (i : BitVec 16) : fld (mkI m d i) 22 6 = m := by
  apply fld_of_nat; rw [mkI_nat]; omega

theorem mkI_d (m : BitVec 6) (d : BitVec 6) (i : BitVec 16) : fld (mkI m d i) 16 6 = d := by
  apply fld_of_nat; rw [mkI_nat]; omega

theorem mkI_i (m : BitVec 6) (d : BitVec 6) (i : BitVec 16) : fld (mkI m d i) 0 16 = i := by
  apply fld_of_nat; rw [mkI_nat]; omega

theorem mkI_top (m : BitVec 6) (d : BitVec 6) (i : BitVec 16) : fld (mkI m d i) 28 4 = 0#4 := by
  apply fld_of_nat; rw [mkI_nat]; simp; omega

theorem mkK_nat (m : BitVec 6) (g : BitVec 6) (i : BitVec 12) (f : BitVec 4) : (mkK m g i f).toNat = m.toNat * 2 ^ 22 + g.toNat * 2 ^ 16 + i.toNat * 2 ^ 4 + f.toNat := by
  simp only [mkK, append_nat]
  simp
  omega

theorem mkK_m (m : BitVec 6) (g : BitVec 6) (i : BitVec 12) (f : BitVec 4) : fld (mkK m g i f) 22 6 = m := by
  apply fld_of_nat; rw [mkK_nat]; omega

theorem mkK_g (m : BitVec 6) (g : BitVec 6) (i : BitVec 12) (f : BitVec 4) : fld (mkK m g i f) 16 6 = g := by
  apply fld_of_nat; rw [mkK_nat]; omega

theorem mkK_i (m : BitVec 6) (g : BitVec 6) (i : BitVec 12) (f : BitVec 4) : fld (mkK m g i f) 4 12 = i := by
  apply fld_of_nat; rw [mkK_nat]; omega

theorem mkK_f (m : BitVec 6) (g : BitVec 6) (i : BitVec 12) (f : BitVec 4) : fld (mkK m g i f) 0 4 = f := by
  apply fld_of_nat; rw [mkK_nat]; omega

theorem mkK_top (m : BitVec 6) (g : BitVec 6) (i : BitVec 12) (f : BitVec 4) : fld (mkK m g i f) 28 4 = 0#4 := by
  apply fld_of_nat; rw [mkK_nat]; simp; omega

theorem mkJ_nat (m : BitVec 6) (l : BitVec 1) (o : BitVec 21) : (mkJ m l o).toNat = m.toNat * 2 ^ 22 + l.toNat * 2 ^ 21 + o.toNat := by
  simp only [mkJ, append_nat]
  simp
  omega

theorem mkJ_m (m : BitVec 6) (l : BitVec 1) (o : BitVec 21) : fld (mkJ m l o) 22 6 = m := by
  apply fld_of_nat; rw [mkJ_nat]; omega

theorem mkJ_l (m : BitVec 6) (l : BitVec 1) (o : BitVec 21) : fld (mkJ m l o) 21 1 = l := by
  apply fld_of_nat; rw [mkJ_nat]; omega

theorem mkJ_o (m : BitVec 6) (l : BitVec 1) (o : BitVec 21) : fld (mkJ m l o) 0 21 = o := by
  apply fld_of_nat; rw [mkJ_nat]; omega

theorem mkJ_top (m : BitVec 6) (l : BitVec 1) (o : BitVec 21) : fld (mkJ m l o) 28 4 = 0#4 := by
  apply fld_of_nat; rw [mkJ_nat]; simp; omega

theorem mkBC_nat (m : BitVec 6) (a : BitVec 6) (z : BitVec 1) (o : BitVec 15) : (mkBC m a z o).toNat = m.toNat * 2 ^ 22 + a.toNat * 2 ^ 16 + z.toNat * 2 ^ 15 + o.toNat := by
  simp only [mkBC, append_nat]
  simp
  omega

theorem mkBC_m (m : BitVec 6) (a : BitVec 6) (z : BitVec 1) (o : BitVec 15) : fld (mkBC m a z o) 22 6 = m := by
  apply fld_of_nat; rw [mkBC_nat]; omega

theorem mkBC_a (m : BitVec 6) (a : BitVec 6) (z : BitVec 1) (o : BitVec 15) : fld (mkBC m a z o) 16 6 = a := by
  apply fld_of_nat; rw [mkBC_nat]; omega

theorem mkBC_z (m : BitVec 6) (a : BitVec 6) (z : BitVec 1) (o : BitVec 15) : fld (mkBC m a z o) 15 1 = z := by
  apply fld_of_nat; rw [mkBC_nat]; omega

theorem mkBC_o (m : BitVec 6) (a : BitVec 6) (z : BitVec 1) (o : BitVec 15) : fld (mkBC m a z o) 0 15 = o := by
  apply fld_of_nat; rw [mkBC_nat]; omega

theorem mkBC_top (m : BitVec 6) (a : BitVec 6) (z : BitVec 1) (o : BitVec 15) : fld (mkBC m a z o) 28 4 = 0#4 := by
  apply fld_of_nat; rw [mkBC_nat]; simp; omega

theorem mkBM_nat (m : BitVec 6) (c : BitVec 2) (o : BitVec 20) : (mkBM m c o).toNat = m.toNat * 2 ^ 22 + c.toNat * 2 ^ 20 + o.toNat := by
  simp only [mkBM, append_nat]
  simp
  omega

theorem mkBM_m (m : BitVec 6) (c : BitVec 2) (o : BitVec 20) : fld (mkBM m c o) 22 6 = m := by
  apply fld_of_nat; rw [mkBM_nat]; omega

theorem mkBM_c (m : BitVec 6) (c : BitVec 2) (o : BitVec 20) : fld (mkBM m c o) 20 2 = c := by
  apply fld_of_nat; rw [mkBM_nat]; omega

theorem mkBM_o (m : BitVec 6) (c : BitVec 2) (o : BitVec 20) : fld (mkBM m c o) 0 20 = o := by
  apply fld_of_nat; rw [mkBM_nat]; omega

theorem mkBM_top (m : BitVec 6) (c : BitVec 2) (o : BitVec 20) : fld (mkBM m c o) 28 4 = 0#4 := by
  apply fld_of_nat; rw [mkBM_nat]; simp; omega

theorem mkMC_nat (m : BitVec 6) (n : BitVec 7) (x : BitVec 5) (y : BitVec 5) (z : BitVec 5) : (mkMC m n x y z).toNat = m.toNat * 2 ^ 22 + n.toNat * 2 ^ 15 + x.toNat * 2 ^ 10 + y.toNat * 2 ^ 5 + z.toNat := by
  simp only [mkMC, append_nat]
  simp
  omega

theorem mkMC_m (m : BitVec 6) (n : BitVec 7) (x : BitVec 5) (y : BitVec 5) (z : BitVec 5) : fld (mkMC m n x y z) 22 6 = m := by
  apply fld_of_nat; rw [mkMC_nat]; omega

theorem mkMC_n (m : BitVec 6) (n : BitVec 7) (x : BitVec 5) (y : BitVec 5) (z : BitVec 5) : fld (mkMC m n x y z) 15 7 = n := by
  apply fld_of_nat; rw [mkMC_nat]; omega

theorem mkMC_x (m : BitVec 6) (n : BitVec 7) (x : BitVec 5) (y : BitVec 5) (z : BitVec 5) : fld (mkMC m n x y z) 10 5 = x := by
  apply fld_of_nat; rw [mkMC_nat]; omega

theorem mkMC_y (m : BitVec 6) (n : BitVec 7) (x : BitVec 5) (y : BitVec 5) (z : BitVec 5) : fld (mkMC m n x y z) 5 5 = y := by
  apply fld_of_nat; rw [mkMC_nat]; omega

theorem mkMC_z (m : BitVec 6) (n : BitVec 7) (x : BitVec 5) (y : BitVec 5) (z : BitVec 5) : fld (mkMC m n x y z) 0 5 = z := by
  apply fld_of_nat; rw [mkMC_nat]; omega

theorem mkMC_top (m : BitVec 6) (n : BitVec 7) (x : BitVec 5) (y : BitVec 5) (z : BitVec 5) : fld (mkMC m n x y z) 28 4 = 0#4 := by
  apply fld_of_nat; rw [mkMC_nat]; simp; omega

theorem mkVI_nat (m : BitVec 6) (d : BitVec 6) (a : BitVec 6) (f : BitVec 3) (i : BitVec 7) : (mkVI m d a f i).toNat = m.toNat * 2 ^ 22 + d.toNat * 2 ^ 16 + a.toNat * 2 ^ 10 + f.toNat * 2 ^ 7 + i.toNat := by
  simp only [mkVI, append_nat]
  simp
  omega

theorem mkVI_m (m : BitVec 6) (d : BitVec 6) (a : BitVec 6) (f : BitVec 3) (i : BitVec 7) : fld (mkVI m d a f i) 22 6 = m := by
  apply fld_of_nat; rw [mkVI_nat]; omega

theorem mkVI_d (m : BitVec 6) (d : BitVec 6) (a : BitVec 6) (f : BitVec 3) (i : BitVec 7) : fld (mkVI m d a f i) 16 6 = d := by
  apply fld_of_nat; rw [mkVI_nat]; omega

theorem mkVI_a (m : BitVec 6) (d : BitVec 6) (a : BitVec 6) (f : BitVec 3) (i : BitVec 7) : fld (mkVI m d a f i) 10 6 = a := by
  apply fld_of_nat; rw [mkVI_nat]; omega

theorem mkVI_f (m : BitVec 6) (d : BitVec 6) (a : BitVec 6) (f : BitVec 3) (i : BitVec 7) : fld (mkVI m d a f i) 7 3 = f := by
  apply fld_of_nat; rw [mkVI_nat]; omega

theorem mkVI_i (m : BitVec 6) (d : BitVec 6) (a : BitVec 6) (f : BitVec 3) (i : BitVec 7) : fld (mkVI m d a f i) 0 7 = i := by
  apply fld_of_nat; rw [mkVI_nat]; omega

theorem mkVI_top (m : BitVec 6) (d : BitVec 6) (a : BitVec 6) (f : BitVec 3) (i : BitVec 7) : fld (mkVI m d a f i) 28 4 = 0#4 := by
  apply fld_of_nat; rw [mkVI_nat]; simp; omega

theorem mkCV_nat (m : BitVec 6) (d : BitVec 6) (a : BitVec 6) (s : BitVec 4) (t : BitVec 4) (r : BitVec 2) : (mkCV m d a s t r).toNat = m.toNat * 2 ^ 22 + d.toNat * 2 ^ 16 + a.toNat * 2 ^ 10 + s.toNat * 2 ^ 6 + t.toNat * 2 ^ 2 + r.toNat := by
  simp only [mkCV, append_nat]
  simp
  omega

theorem mkCV_m (m : BitVec 6) (d : BitVec 6) (a : BitVec 6) (s : BitVec 4) (t : BitVec 4) (r : BitVec 2) : fld (mkCV m d a s t r) 22 6 = m := by
  apply fld_of_nat; rw [mkCV_nat]; omega

theorem mkCV_d (m : BitVec 6) (d : BitVec 6) (a : BitVec 6) (s : BitVec 4) (t : BitVec 4) (r : BitVec 2) : fld (mkCV m d a s t r) 16 6 = d := by
  apply fld_of_nat; rw [mkCV_nat]; omega

theorem mkCV_a (m : BitVec 6) (d : BitVec 6) (a : BitVec 6) (s : BitVec 4) (t : BitVec 4) (r : BitVec 2) : fld (mkCV m d a s t r) 10 6 = a := by
  apply fld_of_nat; rw [mkCV_nat]; omega

theorem mkCV_s (m : BitVec 6) (d : BitVec 6) (a : BitVec 6) (s : BitVec 4) (t : BitVec 4) (r : BitVec 2) : fld (mkCV m d a s t r) 6 4 = s := by
  apply fld_of_nat; rw [mkCV_nat]; omega

theorem mkCV_t (m : BitVec 6) (d : BitVec 6) (a : BitVec 6) (s : BitVec 4) (t : BitVec 4) (r : BitVec 2) : fld (mkCV m d a s t r) 2 4 = t := by
  apply fld_of_nat; rw [mkCV_nat]; omega

theorem mkCV_r (m : BitVec 6) (d : BitVec 6) (a : BitVec 6) (s : BitVec 4) (t : BitVec 4) (r : BitVec 2) : fld (mkCV m d a s t r) 0 2 = r := by
  apply fld_of_nat; rw [mkCV_nat]; omega

theorem mkCV_top (m : BitVec 6) (d : BitVec 6) (a : BitVec 6) (s : BitVec 4) (t : BitVec 4) (r : BitVec 2) : fld (mkCV m d a s t r) 28 4 = 0#4 := by
  apply fld_of_nat; rw [mkCV_nat]; simp; omega

theorem mkG_nat (m : BitVec 6) (d : BitVec 6) (a : BitVec 6) (t : BitVec 3) (o : BitVec 2) (e : BitVec 2) (p : BitVec 3) : (mkG m d a t o e p).toNat = m.toNat * 2 ^ 22 + d.toNat * 2 ^ 16 + a.toNat * 2 ^ 10 + t.toNat * 2 ^ 7 + o.toNat * 2 ^ 5 + e.toNat * 2 ^ 3 + p.toNat := by
  simp only [mkG, append_nat]
  simp
  omega

theorem mkG_m (m : BitVec 6) (d : BitVec 6) (a : BitVec 6) (t : BitVec 3) (o : BitVec 2) (e : BitVec 2) (p : BitVec 3) : fld (mkG m d a t o e p) 22 6 = m := by
  apply fld_of_nat; rw [mkG_nat]; omega

theorem mkG_d (m : BitVec 6) (d : BitVec 6) (a : BitVec 6) (t : BitVec 3) (o : BitVec 2) (e : BitVec 2) (p : BitVec 3) : fld (mkG m d a t o e p) 16 6 = d := by
  apply fld_of_nat; rw [mkG_nat]; omega

theorem mkG_a (m : BitVec 6) (d : BitVec 6) (a : BitVec 6) (t : BitVec 3) (o : BitVec 2) (e : BitVec 2) (p : BitVec 3) : fld (mkG m d a t o e p) 10 6 = a := by
  apply fld_of_nat; rw [mkG_nat]; omega

theorem mkG_t (m : BitVec 6) (d : BitVec 6) (a : BitVec 6) (t : BitVec 3) (o : BitVec 2) (e : BitVec 2) (p : BitVec 3) : fld (mkG m d a t o e p) 7 3 = t := by
  apply fld_of_nat; rw [mkG_nat]; omega

theorem mkG_o (m : BitVec 6) (d : BitVec 6) (a : BitVec 6) (t : BitVec 3) (o : BitVec 2) (e : BitVec 2) (p : BitVec 3) : fld (mkG m d a t o e p) 5 2 = o := by
  apply fld_of_nat; rw [mkG_nat]; omega

theorem mkG_e (m : BitVec 6) (d : BitVec 6) (a : BitVec 6) (t : BitVec 3) (o : BitVec 2) (e : BitVec 2) (p : BitVec 3) : fld (mkG m d a t o e p) 3 2 = e := by
  apply fld_of_nat; rw [mkG_nat]; omega

theorem mkG_p (m : BitVec 6) (d : BitVec 6) (a : BitVec 6) (t : BitVec 3) (o : BitVec 2) (e : BitVec 2) (p : BitVec 3) : fld (mkG m d a t o e p) 0 3 = p := by
  apply fld_of_nat; rw [mkG_nat]; omega

theorem mkG_top (m : BitVec 6) (d : BitVec 6) (a : BitVec 6) (t : BitVec 3) (o : BitVec 2) (e : BitVec 2) (p : BitVec 3) : fld (mkG m d a t o e p) 28 4 = 0#4 := by
  apply fld_of_nat; rw [mkG_nat]; simp; omega

theorem mkX_nat (m : BitVec 6) (d : BitVec 6) (a : BitVec 6) (x : BitVec 4) (y : BitVec 4) (p : BitVec 1) (o : BitVec 1) : (mkX m d a x y p o).toNat = m.toNat * 2 ^ 22 + d.toNat * 2 ^ 16 + a.toNat * 2 ^ 10 + x.toNat * 2 ^ 6 + y.toNat * 2 ^ 2 + p.toNat * 2 ^ 1 + o.toNat := by
  simp only [mkX, append_nat]
  simp
  omega

theorem mkX_m (m : BitVec 6) (d : BitVec 6) (a : BitVec 6) (x : BitVec 4) (y : BitVec 4) (p : BitVec 1) (o : BitVec 1) : fld (mkX m d a x y p o) 22 6 = m := by
  apply fld_of_nat; rw [mkX_nat]; omega

theorem mkX_d (m : BitVec 6) (d : BitVec 6) (a : BitVec 6) (x : BitVec 4) (y : BitVec 4) (p : BitVec 1) (o : BitVec 1) : fld (mkX m d a x y p o) 16 6 = d := by
  apply fld_of_nat; rw [mkX_nat]; omega

theorem mkX_a (m : BitVec 6) (d : BitVec 6) (a : BitVec 6) (x : BitVec 4) (y : BitVec 4) (p : BitVec 1) (o : BitVec 1) : fld (mkX m d a x y p o) 10 6 = a := by
  apply fld_of_nat; rw [mkX_nat]; omega

theorem mkX_x (m : BitVec 6) (d : BitVec 6) (a : BitVec 6) (x : BitVec 4) (y : BitVec 4) (p : BitVec 1) (o : BitVec 1) : fld (mkX m d a x y p o) 6 4 = x := by
  apply fld_of_nat; rw [mkX_nat]; omega

theorem mkX_y (m : BitVec 6) (d : BitVec 6) (a : BitVec 6) (x : BitVec 4) (y : BitVec 4) (p : BitVec 1) (o : BitVec 1) : fld (mkX m d a x y p o) 2 4 = y := by
  apply fld_of_nat; rw [mkX_nat]; omega

theorem mkX_p (m : BitVec 6) (d : BitVec 6) (a : BitVec 6) (x : BitVec 4) (y : BitVec 4) (p : BitVec 1) (o : BitVec 1) : fld (mkX m d a x y p o) 1 1 = p := by
  apply fld_of_nat; rw [mkX_nat]; omega

theorem mkX_o (m : BitVec 6) (d : BitVec 6) (a : BitVec 6) (x : BitVec 4) (y : BitVec 4) (p : BitVec 1) (o : BitVec 1) : fld (mkX m d a x y p o) 0 1 = o := by
  apply fld_of_nat; rw [mkX_nat]; omega

theorem mkX_top (m : BitVec 6) (d : BitVec 6) (a : BitVec 6) (x : BitVec 4) (y : BitVec 4) (p : BitVec 1) (o : BitVec 1) : fld (mkX m d a x y p o) 28 4 = 0#4 := by
  apply fld_of_nat; rw [mkX_nat]; simp; omega

theorem mkSA_nat (m : BitVec 6) (d : BitVec 6) (a : BitVec 6) (p : BitVec 4) (o : BitVec 2) (e : BitVec 2) (x : BitVec 1) (z : BitVec 1) : (mkSA m d a p o e x z).toNat = m.toNat * 2 ^ 22 + d.toNat * 2 ^ 16 + a.toNat * 2 ^ 10 + p.toNat * 2 ^ 6 + o.toNat * 2 ^ 4 + e.toNat * 2 ^ 2 + x.toNat * 2 ^ 1 + z.toNat := by
  simp only [mkSA, append_nat]
  simp
  omega

theorem mkSA_m (m : BitVec 6) (d : BitVec 6) (a : BitVec 6) (p : BitVec 4) (o : BitVec 2) (e : BitVec 2) (x : BitVec 1) (z : BitVec 1) : fld (mkSA m d a p o e x z) 22 6 = m := by
  apply fld_of_nat; rw [mkSA_nat]; omega

theorem mkSA_d (m : BitVec 6) (d : BitVec 6) (a : BitVec 6) (p : BitVec 4) (o : BitVec 2) (e : BitVec 2) (x : BitVec 1) (z : BitVec 1) : fld (mkSA m d a p o e x z) 16 6 = d := by
  apply fld_of_nat; rw [mkSA_nat]; omega

theorem mkSA_a (m : BitVec 6) (d : BitVec 6) (a : BitVec 6) (p : BitVec 4) (o : BitVec 2) (e : BitVec 2) (x : BitVec 1) (z : BitVec 1) : fld (mkSA m d a p o e x z) 10 6 = a := by
  apply fld_of_nat; rw [mkSA_nat]; omega

theorem mkSA_p (m : BitVec 6) (d : BitVec 6) (a : BitVec 6) (p : BitVec 4) (o : BitVec 2) (e : BitVec 2) (x : BitVec 1) (z : BitVec 1) : fld (mkSA m d a p o e x z) 6 4 = p := by
  apply fld_of_nat; rw [mkSA_nat]; omega

theorem mkSA_o (m : BitVec 6) (d : BitVec 6) (a : BitVec 6) (p : BitVec 4) (o : BitVec 2) (e : BitVec 2) (x : BitVec 1) (z : BitVec 1) : fld (mkSA m d a p o e x z) 4 2 = o := by
  apply fld_of_nat; rw [mkSA_nat]; omega

theorem mkSA_e (m : BitVec 6) (d : BitVec 6) (a : BitVec 6) (p : BitVec 4) (o : BitVec 2) (e : BitVec 2) (x : BitVec 1) (z : BitVec 1) : fld (mkSA m d a p o e x z) 2 2 = e := by
  apply fld_of_nat; rw [mkSA_nat]; omega

theorem mkSA_x (m : BitVec 6) (d : BitVec 6) (a : BitVec 6) (p : BitVec 4) (o : BitVec 2) (e : BitVec 2) (x : BitVec 1) (z : BitVec 1) : fld (mkSA m d a p o e x z) 1 1 = x := by
  apply fld_of_nat; rw [mkSA_nat]; omega

theorem mkSA_z (m : BitVec 6) (d : BitVec 6) (a : BitVec 6) (p : BitVec 4) (o : BitVec 2) (e : BitVec 2) (x : BitVec 1) (z : BitVec 1) : fld (mkSA m d a p o e x z) 0 1 = z := by
  apply fld_of_nat; rw [mkSA_nat]; omega

theorem mkSA_top (m : BitVec 6) (d : BitVec 6) (a : BitVec 6) (p : BitVec 4) (o : BitVec 2) (e : BitVec 2) (x : BitVec 1) (z : BitVec 1) : fld (mkSA m d a p o e x z) 28 4 = 0#4 := by
  apply fld_of_nat; rw [mkSA_nat]; simp; omega

theorem mkP_nat (m : BitVec 6) (n : BitVec 18) (f : BitVec 4) : (mkP m n f).toNat = m.toNat * 2 ^ 22 + n.toNat * 2 ^ 4 + f.toNat := by
  simp only [mkP, append_nat]
  simp
  omega

theorem mkP_m (m : BitVec 6) (n : BitVec 18) (f : BitVec 4) : fld (mkP m n f) 22 6 = m := by
  apply fld_of_nat; rw [mkP_nat]; omega

theorem mkP_n (m : BitVec 6) (n : BitVec 18) (f : BitVec 4) : fld (mkP m n f) 4 18 = n := by
  apply fld_of_nat; rw [mkP_nat]; omega

theorem mkP_f (m : BitVec 6) (n : BitVec 18) (f : BitVec 4) : fld (mkP m n f) 0 4 = f := by
  apply fld_of_nat; rw [mkP_nat]; omega

theorem mkP_top (m : BitVec 6) (n : BitVec 18) (f : BitVec 4) : fld (mkP m n f) 28 4 = 0#4 := by
  apply fld_of_nat; rw [mkP_nat]; simp; omega

theorem mkT_ff_3_1 (m d a b : BitVec 6) (x : BitVec 1) (y : BitVec 3) : fld (mkT m d a b (x ++ y)) 3 1 = x := by
  apply fld_of_nat; rw [mkT_nat, append_nat]; omega

theorem mkT_ff_0_3 (m d a b : BitVec 6) (x : BitVec 1) (y : BitVec 3) : fld (mkT m d a b (x ++ y)) 0 3 = y := by
  apply fld_of_nat; rw [mkT_nat, append_nat]; omega

theorem mkT_bb_4_4 (m d a : BitVec 6) (f : BitVec 4) (x : BitVec 2) (y : BitVec 4) : fld (mkT m d a (x ++ y) f) 4 4 = y := by
  apply fld_of_nat; rw [mkT_nat, append_nat]; omega

theorem mkT_bb_8_2 (m d a : BitVec 6) (f : BitVec 4) (x : BitVec 2) (y : BitVec 4) : fld (mkT m d a (x ++ y) f) 8 2 = x := by
  apply fld_of_nat; rw [mkT_nat, append_nat]; omega

theorem mkT_cc_4_2 (m d a : BitVec 6) (f : BitVec 4) (x : BitVec 4) (y : BitVec 2) : fld (mkT m d a (x ++ y) f) 4 2 = y := by
  apply fld_of_nat; rw [mkT_nat, append_nat]; omega

theorem mkT_dd_16_3 (m a b : BitVec 6) (f : BitVec 4) (x : BitVec 3) (y : BitVec 3) : fld (mkT m (x ++ y) a b f) 16 3 = y := by
  apply fld_of_nat; rw [mkT_nat, append_nat]; omega

theorem mkT_q (m d a : BitVec 6) (f : BitVec 4) (q : BitVec 1) (h : BitVec 4) : fld (mkT m d a (0x0#1 ++ q ++ h) f) 8 1 = q := by
  apply fld_of_nat; rw [mkT_nat, append_nat, append_nat]; simp; omega

theorem mkT_q_4_4 (m d a : BitVec 6) (f : BitVec 4) (q : BitVec 1) (h : BitVec 4) : fld (mkT m d a (0x0#1 ++ q ++ h) f) 4 4 = h := by
  apply fld_of_nat; rw [mkT_nat, append_nat, append_nat]; simp; omega

theorem mkR_nat (f7 : BitVec 7) (b a : BitVec 5) (f3 : BitVec 3) (d : BitVec 5) (op : BitVec 7) :
    (mkR f7 b a f3 d op).toNat = f7.toNat * 2 ^ 25 + b.toNat * 2 ^ 20 + a.toNat * 2 ^ 15 + f3.toNat * 2 ^ 12 + d.toNat * 2 ^ 7 + op.toNat := by
  simp only [mkR, append_nat]
  simp
  omega

theorem mkR_b (f7 : BitVec 7) (b a : BitVec 5) (f3 : BitVec 3) (d : BitVec 5) (op : BitVec 7) : fld (mkR f7 b a f3 d op) 20 5 = b := by
  apply fld_of_nat; rw [mkR_nat]; omega

theorem mkR_a (f7 : BitVec 7) (b a : BitVec 5) (f3 : BitVec 3) (d : BitVec 5) (op : BitVec 7) : fld (mkR f7 b a f3 d op) 15 5 = a := by
  apply fld_of_nat; rw [mkR_nat]; omega

theorem mkR_f3 (f7 : BitVec 7) (b a : BitVec 5) (f3 : BitVec 3) (d : BitVec 5) (op : BitVec 7) : fld (mkR f7 b a f3 d op) 12 3 = f3 := by
  apply fld_of_nat; rw [mkR_nat]; omega

theorem mkR_d (f7 : BitVec 7) (b a : BitVec 5) (f3 : BitVec 3) (d : BitVec 5) (op : BitVec 7) : fld (mkR f7 b a f3 d op) 7 5 = d := by
  apply fld_of_nat; rw [mkR_nat]; omega

theorem mkR_op (f7 : BitVec 7) (b a : BitVec 5) (f3 : BitVec 3) (d : BitVec 5) (op : BitVec 7) : fld (mkR f7 b a f3 d op) 0 7 = op := by
  apply fld_of_nat; rw [mkR_nat]; omega

theorem mkR_op2 (f7 : BitVec 7) (b a : BitVec 5) (f3 : BitVec 3) (d : BitVec 5) (op : BitVec 7) : fld (mkR f7 b a f3 d op) 0 2 = op.extractLsb' 0 2 := by
  apply fld_of_nat; rw [mkR_nat, BitVec.extractLsb'_toNat]; simp; omega

theorem mkR_25_4 (x : BitVec 3) (y : BitVec 4) (b a : BitVec 5) (f3 : BitVec 3) (d : BitVec 5) (op : BitVec 7) : fld (mkR (x ++ y) b a f3 d op) 25 4 = y := by
  apply fld_of_nat; rw [mkR_nat, append_nat]; omega

theorem mkR_29_3 (x : BitVec 3) (y : BitVec 4) (b a : BitVec 5) (f3 : BitVec 3) (d : BitVec 5) (op : BitVec 7) : fld (mkR (x ++ y) b a f3 d op) 29 3 = x := by
  apply fld_of_nat; rw [mkR_nat, append_nat]; omega

theorem mkR_25_2 (x : BitVec 5) (y : BitVec 2) (b a : BitVec 5) (f3 : BitVec 3) (d : BitVec 5) (op : BitVec 7) : fld (mkR (x ++ y) b a f3 d op) 25 2 = y := by
  apply fld_of_nat; rw [mkR_nat, append_nat]; omega

theorem mkR_25_1 (f7 : BitVec 7) (b a : BitVec 5) (f3 : BitVec 3) (d : BitVec 5) (op : BitVec 7) : fld (mkR f7 b a f3 d op) 25 1 = f7.extractLsb' 0 1 := by
  apply fld_of_nat; rw [mkR_nat, BitVec.extractLsb'_toNat]; simp; omega

/-! ### Decoding -/

/-- A unit's decoder reads an instruction from the word that parses as it and is its encoding. -/
theorem decode_of_parse {k : Kind} {i : Instr} {w nxt : Word} (ht : fld w 28 4 = 0#4) (ha : majorAssigned (fMaj w) = true)
    (hp : parse w nxt = some i) (he : encode i = [w] ∨ encode i = [w, nxt]) (hw : i.wf k = true) (hk : majorExecuted k w = true) :
    decode k w nxt = .ok i := by
  have hu : unframed w = w := unframed_of_top w ht
  have hacc : accept k w nxt i = true := by
    rcases he with he | he <;> simp [accept, hu, he, hw]
  simp [decode, ha, hk, hp, hacc]

/-- The stagehands' decoder reads an Xstage instruction from the word that parses as it and is its encoding. -/
theorem decodeHand_of_parse {i : Instr} {w : Word} (h3 : fld w 0 2 = 3#2) (hp : parseX w = some i) (he : encode i = [w]) :
    decodeHand w = i := by
  simp [decodeHand, h3, hp, he]

end Sys2Proof
end

