-- ==== Sys2Proof/Laws/Memory.lean ====
section
/-! SUPPORT. Byte memory: every operation keeps the canonical form, and what a byte reads after each. -/

namespace Sys2Proof.Machine

/-- Every cell lies above an address. -/
abbrev Memory.above (m : Memory) (a : Nat) : Prop := ∀ c ∈ m, a < c.1

/-- The canonical form of a memory with a first cell. -/
theorem Memory.wf_cons (k : Nat) (x : Byte) (m : Memory) :
    Memory.wf ((k, x) :: m) = true ↔ x ≠ Config.unlisted ∧ Memory.above m k ∧ Memory.wf m = true := by
  simp [Memory.wf, Memory.above, and_assoc]

@[simp] theorem Memory.wf_nil : Memory.wf [] = true := rfl

/-- An address below every cell reads as unlisted. -/
theorem Memory.read_above {m : Memory} {a : Nat} (h : Memory.above m a) : m.read a = Config.unlisted := by
  cases m with
  | nil => rfl
  | cons c m =>
    obtain ⟨k, x⟩ := c
    have hk : a < k := h (k, x) (by simp)
    simp only [Memory.read]
    rw [if_neg (by omega), if_pos hk]

/-- A write leaves no cell but those that were there and its own. -/
theorem Memory.mem_write {m : Memory} {a : Nat} {b : Byte} {c : Host.Cell} (h : c ∈ m.write a b) : c ∈ m ∨ c.1 = a := by
  induction m with
  | nil =>
    simp only [Memory.write] at h
    split at h <;> simp_all
  | cons d m ih =>
    obtain ⟨k, x⟩ := d
    simp only [Memory.write] at h
    split at h
    · simp only [List.mem_cons] at h ⊢
      rcases h with h | h
      · exact .inl (.inl h)
      · exact (ih h).imp .inr id
    · have own (h : c = (a, b)) : c.1 = a := by rw [h]
      split at h <;> split at h <;> simp only [List.mem_cons] at h ⊢ <;> tauto

/-- A write keeps the canonical form. -/
theorem Memory.wf_write {m : Memory} (a : Nat) (b : Byte) (h : m.wf = true) : (m.write a b).wf = true := by
  induction m with
  | nil =>
    simp only [Memory.write]
    split
    · rfl
    · rename_i hb
      rw [Memory.wf_cons]
      exact ⟨hb, by simp [Memory.above], rfl⟩
  | cons d m ih =>
    obtain ⟨k, x⟩ := d
    rw [Memory.wf_cons] at h
    obtain ⟨h1, h2, h3⟩ := h
    simp only [Memory.write]
    split
    · rename_i hk
      rw [Memory.wf_cons]
      refine ⟨h1, fun c hc => ?_, ih h3⟩
      rcases Memory.mem_write hc with hc | hc
      · exact h2 c hc
      · omega
    · split
      · rename_i hk
        subst hk
        split
        · exact h3
        · rename_i hb
          rw [Memory.wf_cons]
          exact ⟨hb, h2, h3⟩
      · split
        · rw [Memory.wf_cons]
          exact ⟨h1, h2, h3⟩
        · rename_i hb
          rw [Memory.wf_cons, Memory.wf_cons]
          refine ⟨hb, fun c hc => ?_, h1, h2, h3⟩
          simp only [List.mem_cons] at hc
          rcases hc with rfl | hc
          · show a < k
            omega
          · have := h2 c hc
            omega

/-- The byte at an address after a write. -/
theorem Memory.read_write {m : Memory} (a x : Nat) (b : Byte) (h : m.wf = true) :
    (m.write a b).read x = if x = a then b else m.read x := by
  induction m with
  | nil =>
    simp only [Memory.write]
    split
    · rename_i hb
      subst hb
      split <;> rfl
    · simp only [Memory.read, eq_comm (a := a)]
      split
      · rfl
      · split <;> rfl
  | cons d m ih =>
    obtain ⟨k, y⟩ := d
    rw [Memory.wf_cons] at h
    obtain ⟨h1, h2, h3⟩ := h
    simp only [Memory.write]
    split
    · rename_i hk
      simp only [Memory.read, ih h3]
      split
      · rw [if_neg (by omega)]
      · split
        · rw [if_neg (by omega)]
        · rfl
    · split
      · rename_i hk
        subst hk
        split
        · rename_i hb
          subst hb
          by_cases hx : x = k
          · subst hx
            rw [if_pos rfl, Memory.read_above h2]
          · rw [if_neg hx]
            simp only [Memory.read]
            rw [if_neg (fun e => hx e.symm)]
            split
            · exact Memory.read_above (fun c hc => Nat.lt_trans ‹x < k› (h2 c hc))
            · rfl
        · simp only [Memory.read, eq_comm (a := k)]
          split <;> rfl
      · split
        · rename_i hb
          subst hb
          split
          · subst x
            exact Memory.read_above (fun c hc => by
              simp only [List.mem_cons] at hc
              rcases hc with rfl | hc
              · show a < k
                omega
              · have := h2 c hc
                omega)
          · rfl
        · simp only [Memory.read, eq_comm (a := a)]
          split
          · rfl
          · split
            · rw [if_neg (by omega), if_pos (by omega)]
            · rfl

/-- Writing bytes one after another keeps the canonical form. -/
theorem Memory.wf_putBytes {m : Memory} (a : Nat) (bs : List Byte) (h : m.wf = true) : (m.putBytes a bs).wf = true := by
  induction bs generalizing m a with
  | nil => exact h
  | cons b bs ih => exact ih (a + 1) (Memory.wf_write a b h)

@[simp] theorem Memory.putBytes_nil (m : Memory) (a : Nat) : m.putBytes a [] = m := rfl

@[simp] theorem Memory.putBytes_cons (m : Memory) (a : Nat) (b : Byte) (bs : List Byte) :
    m.putBytes a (b :: bs) = (m.write a b).putBytes (a + 1) bs := rfl

/-- A word write keeps the canonical form. -/
theorem Memory.wf_putWord {m : Memory} (a : Nat) (v : Word) (h : m.wf = true) : (m.putWord a v).wf = true :=
  Memory.wf_putBytes a _ h

/-- A double-word write keeps the canonical form. -/
theorem Memory.wf_putDword {m : Memory} (a : Nat) (v : Dword) (h : m.wf = true) : (m.putDword a v).wf = true :=
  Memory.wf_putBytes a _ h

/-- Dropping cells keeps the canonical form. -/
theorem Memory.wf_filter {m : Memory} (p : Host.Cell → Bool) (h : m.wf = true) : Memory.wf (m.filter p) = true := by
  induction m with
  | nil => rfl
  | cons d m ih =>
    obtain ⟨k, x⟩ := d
    rw [Memory.wf_cons] at h
    obtain ⟨h1, h2, h3⟩ := h
    rw [List.filter_cons]
    split
    · rw [Memory.wf_cons]
      exact ⟨h1, fun c hc => h2 c (List.mem_filter.1 hc).1, ih h3⟩
    · exact ih h3

/-- Clearing keeps the canonical form. -/
theorem Memory.wf_clear {m : Memory} (a n : Nat) (h : m.wf = true) : (m.clear a n).wf = true := Memory.wf_filter _ h

/-- Folds of writes keep the canonical form. -/
theorem Memory.wf_foldl {α : Type} (f : Memory → α → Memory) (hf : ∀ m x, Memory.wf m = true → Memory.wf (f m x) = true) (xs : List α) {m : Memory}
    (h : m.wf = true) : (xs.foldl f m).wf = true := by
  induction xs generalizing m with
  | nil => exact h
  | cons x xs ih => exact ih (hf m x h)

end Sys2Proof.Machine
end

