-- ==== Sys2Proof/Laws/PerInstr.lean ====
section
/-! SUPPORT. Statements about every instruction, one lemma for each constructor. -/

set_option Elab.async false

namespace Sys2Proof.Laws.RoundTrip

/-- An instruction that is well formed for a unit which executes its major is what that unit's decoder reads from its
encoding, and an Xstage instruction is what the stagehands' decoder reads from its encoding. -/
def Statement (i : Instr) : Prop :=
  (∀ (k : Kind) (w : Word) (rest : List Word), encode i = w :: rest → i.wf k = true → i.isXstage = false → majorExecuted k w = true →
    fld w 28 4 = 0#4 ∧ decode k w (rest.headD 0) = .ok i) ∧
  (∀ w : Word, i.isXstage = true → encode i = [w] → decodeHand w = i)

/-- What has no encoding has nothing to decode. -/
theorem of_none {i : Instr} (h : encode i = []) : Statement i := by
  refine ⟨fun k w rest hw => ?_, fun w _ hw => ?_⟩ <;> rw [h] at hw <;> cases hw

/-- A word of a unit's decoder. -/
theorem of_parse {i : Instr} {w : Word} {rest : List Word} (hx : i.isXstage = false) (he : encode i = w :: rest)
    (h1 : rest = [] ∨ rest = [rest.headD 0]) (ht : fld w 28 4 = 0#4) (ha : majorAssigned (fMaj w) = true)
    (hp : parse w (rest.headD 0) = some i) : Statement i := by
  refine ⟨fun k w' rest' hw hf _ hk => ?_, fun w' hx' _ => ?_⟩
  · rw [he] at hw
    cases hw
    refine ⟨ht, decode_of_parse ht ha hp ?_ hf hk⟩
    rcases h1 with h1 | h1
    · exact .inl (by rw [he, h1])
    · exact .inr (by rw [he]; exact congrArg _ h1)
  · rw [hx] at hx'
    cases hx'

/-- A word of the stagehands' decoder. -/
theorem of_parseX {i : Instr} {w : Word} (hx : i.isXstage = true) (he : encode i = [w]) (h3 : fld w 0 2 = 3#2) (hp : parseX w = some i) :
    Statement i := by
  refine ⟨fun _ _ _ _ _ hx' => ?_, fun w' _ hw => ?_⟩
  · rw [hx] at hx'
    cases hx'
  · rw [he] at hw
    cases hw
    exact decodeHand_of_parse h3 hp he

theorem stall (n : BitVec 12) : Statement (.stall n) :=
  of_parse rfl rfl (.inl rfl) (mkK_top ..) (by rw [fMaj, mkK_m]; rfl)
    (by simp only [parse, fMaj, mkK_m, parse00, mkK_f, mkK_i, BitVec.toNat_ofNat, Nat.reducePow, Nat.reduceMod])

theorem movi (d : Reg) (i : BitVec 16) : Statement (.movi d i) :=
  of_parse rfl rfl (.inl rfl) (mkI_top ..) (by rw [fMaj, mkI_m]; rfl)
    (by simp only [parse, fMaj, mkI_m, parse01, mkI_i, mkI_d, BitVec.toNat_ofNat, Nat.reducePow, Nat.reduceMod])

theorem movhi (d : Reg) (i : BitVec 16) : Statement (.movhi d i) :=
  of_parse rfl rfl (.inl rfl) (mkI_top ..) (by rw [fMaj, mkI_m]; rfl)
    (by simp only [parse, fMaj, mkI_m, parse02, mkI_i, mkI_d, BitVec.toNat_ofNat, Nat.reducePow, Nat.reduceMod])

theorem limmI32 (d : Reg) (imm : Word) : Statement (.limmI32 d imm) :=
  of_parse rfl rfl (.inr rfl) (mkI_top ..) (by rw [fMaj, mkI_m]; rfl)
    (by simp only [parse, fMaj, mkI_m, parse03, mkI_i, mkI_d, List.headD_cons, BitVec.toNat_ofNat, Nat.reducePow, Nat.reduceMod])

theorem limmN32 (d : Reg) (imm : Word) : Statement (.limmN32 d imm) :=
  of_parse rfl rfl (.inr rfl) (mkI_top ..) (by rw [fMaj, mkI_m]; rfl)
    (by simp only [parse, fMaj, mkI_m, parse03, mkI_i, mkI_d, List.headD_cons, BitVec.toNat_ofNat, Nat.reducePow, Nat.reduceMod])

theorem add (d : Reg) (a : Reg) (b : Reg) : Statement (.add d a b) :=
  of_parse rfl rfl (.inl rfl) (mkT_top ..) (by rw [fMaj, mkT_m]; rfl)
    (by simp only [parse, fMaj, mkT_m, parse04, mkT_f, mkT_b, mkT_a, mkT_d, BitVec.toNat_ofNat, Nat.reducePow, Nat.reduceMod])

theorem sub (d : Reg) (a : Reg) (b : Reg) : Statement (.sub d a b) :=
  of_parse rfl rfl (.inl rfl) (mkT_top ..) (by rw [fMaj, mkT_m]; rfl)
    (by simp only [parse, fMaj, mkT_m, parse04, mkT_f, mkT_b, mkT_a, mkT_d, BitVec.toNat_ofNat, Nat.reducePow, Nat.reduceMod])

theorem and (d : Reg) (a : Reg) (b : Reg) : Statement (.and d a b) :=
  of_parse rfl rfl (.inl rfl) (mkT_top ..) (by rw [fMaj, mkT_m]; rfl)
    (by simp only [parse, fMaj, mkT_m, parse04, mkT_f, mkT_b, mkT_a, mkT_d, BitVec.toNat_ofNat, Nat.reducePow, Nat.reduceMod])

theorem or (d : Reg) (a : Reg) (b : Reg) : Statement (.or d a b) :=
  of_parse rfl rfl (.inl rfl) (mkT_top ..) (by rw [fMaj, mkT_m]; rfl)
    (by simp only [parse, fMaj, mkT_m, parse04, mkT_f, mkT_b, mkT_a, mkT_d, BitVec.toNat_ofNat, Nat.reducePow, Nat.reduceMod])

theorem xor (d : Reg) (a : Reg) (b : Reg) : Statement (.xor d a b) :=
  of_parse rfl rfl (.inl rfl) (mkT_top ..) (by rw [fMaj, mkT_m]; rfl)
    (by simp only [parse, fMaj, mkT_m, parse04, mkT_f, mkT_b, mkT_a, mkT_d, BitVec.toNat_ofNat, Nat.reducePow, Nat.reduceMod])

theorem andn (d : Reg) (a : Reg) (b : Reg) : Statement (.andn d a b) :=
  of_parse rfl rfl (.inl rfl) (mkT_top ..) (by rw [fMaj, mkT_m]; rfl)
    (by simp only [parse, fMaj, mkT_m, parse04, mkT_f, mkT_b, mkT_a, mkT_d, BitVec.toNat_ofNat, Nat.reducePow, Nat.reduceMod])

theorem shl (d : Reg) (a : Reg) (b : Reg) : Statement (.shl d a b) :=
  of_parse rfl rfl (.inl rfl) (mkT_top ..) (by rw [fMaj, mkT_m]; rfl)
    (by simp only [parse, fMaj, mkT_m, parse04, mkT_f, mkT_b, mkT_a, mkT_d, BitVec.toNat_ofNat, Nat.reducePow, Nat.reduceMod])

theorem shr (d : Reg) (a : Reg) (b : Reg) : Statement (.shr d a b) :=
  of_parse rfl rfl (.inl rfl) (mkT_top ..) (by rw [fMaj, mkT_m]; rfl)
    (by simp only [parse, fMaj, mkT_m, parse04, mkT_f, mkT_b, mkT_a, mkT_d, BitVec.toNat_ofNat, Nat.reducePow, Nat.reduceMod])

theorem sra (d : Reg) (a : Reg) (b : Reg) : Statement (.sra d a b) :=
  of_parse rfl rfl (.inl rfl) (mkT_top ..) (by rw [fMaj, mkT_m]; rfl)
    (by simp only [parse, fMaj, mkT_m, parse04, mkT_f, mkT_b, mkT_a, mkT_d, BitVec.toNat_ofNat, Nat.reducePow, Nat.reduceMod])

theorem rotl (d : Reg) (a : Reg) (b : Reg) : Statement (.rotl d a b) :=
  of_parse rfl rfl (.inl rfl) (mkT_top ..) (by rw [fMaj, mkT_m]; rfl)
    (by simp only [parse, fMaj, mkT_m, parse04, mkT_f, mkT_b, mkT_a, mkT_d, BitVec.toNat_ofNat, Nat.reducePow, Nat.reduceMod])

theorem min (d : Reg) (a : Reg) (b : Reg) : Statement (.min d a b) :=
  of_parse rfl rfl (.inl rfl) (mkT_top ..) (by rw [fMaj, mkT_m]; rfl)
    (by simp only [parse, fMaj, mkT_m, parse04, mkT_f, mkT_b, mkT_a, mkT_d, BitVec.toNat_ofNat, Nat.reducePow, Nat.reduceMod])

theorem max (d : Reg) (a : Reg) (b : Reg) : Statement (.max d a b) :=
  of_parse rfl rfl (.inl rfl) (mkT_top ..) (by rw [fMaj, mkT_m]; rfl)
    (by simp only [parse, fMaj, mkT_m, parse04, mkT_f, mkT_b, mkT_a, mkT_d, BitVec.toNat_ofNat, Nat.reducePow, Nat.reduceMod])

theorem minu (d : Reg) (a : Reg) (b : Reg) : Statement (.minu d a b) :=
  of_parse rfl rfl (.inl rfl) (mkT_top ..) (by rw [fMaj, mkT_m]; rfl)
    (by simp only [parse, fMaj, mkT_m, parse04, mkT_f, mkT_b, mkT_a, mkT_d, BitVec.toNat_ofNat, Nat.reducePow, Nat.reduceMod])

theorem maxu (d : Reg) (a : Reg) (b : Reg) : Statement (.maxu d a b) :=
  of_parse rfl rfl (.inl rfl) (mkT_top ..) (by rw [fMaj, mkT_m]; rfl)
    (by simp only [parse, fMaj, mkT_m, parse04, mkT_f, mkT_b, mkT_a, mkT_d, BitVec.toNat_ofNat, Nat.reducePow, Nat.reduceMod])

theorem addc (d : Reg) (a : Reg) (b : Reg) : Statement (.addc d a b) :=
  of_parse rfl rfl (.inl rfl) (mkT_top ..) (by rw [fMaj, mkT_m]; rfl)
    (by simp only [parse, fMaj, mkT_m, parse04, mkT_f, mkT_b, mkT_a, mkT_d, BitVec.toNat_ofNat, Nat.reducePow, Nat.reduceMod])

theorem subc (d : Reg) (a : Reg) (b : Reg) : Statement (.subc d a b) :=
  of_parse rfl rfl (.inl rfl) (mkT_top ..) (by rw [fMaj, mkT_m]; rfl)
    (by simp only [parse, fMaj, mkT_m, parse04, mkT_f, mkT_b, mkT_a, mkT_d, BitVec.toNat_ofNat, Nat.reducePow, Nat.reduceMod])

theorem addImm (d : Reg) (a : Reg) (i : BitVec 6) : Statement (.addImm d a i) :=
  of_parse rfl rfl (.inl rfl) (mkT_top ..) (by rw [fMaj, mkT_m]; rfl)
    (by simp only [parse, fMaj, mkT_m, parse05, mkT_f, mkT_b, mkT_a, mkT_d, BitVec.toNat_ofNat, Nat.reducePow, Nat.reduceMod])

theorem subImm (d : Reg) (a : Reg) (i : BitVec 6) : Statement (.subImm d a i) :=
  of_parse rfl rfl (.inl rfl) (mkT_top ..) (by rw [fMaj, mkT_m]; rfl)
    (by simp only [parse, fMaj, mkT_m, parse05, mkT_f, mkT_b, mkT_a, mkT_d, BitVec.toNat_ofNat, Nat.reducePow, Nat.reduceMod])

theorem andImm (d : Reg) (a : Reg) (i : BitVec 6) : Statement (.andImm d a i) :=
  of_parse rfl rfl (.inl rfl) (mkT_top ..) (by rw [fMaj, mkT_m]; rfl)
    (by simp only [parse, fMaj, mkT_m, parse05, mkT_f, mkT_b, mkT_a, mkT_d, BitVec.toNat_ofNat, Nat.reducePow, Nat.reduceMod])

theorem orImm (d : Reg) (a : Reg) (i : BitVec 6) : Statement (.orImm d a i) :=
  of_parse rfl rfl (.inl rfl) (mkT_top ..) (by rw [fMaj, mkT_m]; rfl)
    (by simp only [parse, fMaj, mkT_m, parse05, mkT_f, mkT_b, mkT_a, mkT_d, BitVec.toNat_ofNat, Nat.reducePow, Nat.reduceMod])

theorem xorImm (d : Reg) (a : Reg) (i : BitVec 6) : Statement (.xorImm d a i) :=
  of_parse rfl rfl (.inl rfl) (mkT_top ..) (by rw [fMaj, mkT_m]; rfl)
    (by simp only [parse, fMaj, mkT_m, parse05, mkT_f, mkT_b, mkT_a, mkT_d, BitVec.toNat_ofNat, Nat.reducePow, Nat.reduceMod])

theorem andnImm (d : Reg) (a : Reg) (i : BitVec 6) : Statement (.andnImm d a i) :=
  of_parse rfl rfl (.inl rfl) (mkT_top ..) (by rw [fMaj, mkT_m]; rfl)
    (by simp only [parse, fMaj, mkT_m, parse05, mkT_f, mkT_b, mkT_a, mkT_d, BitVec.toNat_ofNat, Nat.reducePow, Nat.reduceMod])

theorem shlImm (d : Reg) (a : Reg) (i : BitVec 6) : Statement (.shlImm d a i) :=
  of_parse rfl rfl (.inl rfl) (mkT_top ..) (by rw [fMaj, mkT_m]; rfl)
    (by simp only [parse, fMaj, mkT_m, parse05, mkT_f, mkT_b, mkT_a, mkT_d, BitVec.toNat_ofNat, Nat.reducePow, Nat.reduceMod])

theorem shrImm (d : Reg) (a : Reg) (i : BitVec 6) : Statement (.shrImm d a i) :=
  of_parse rfl rfl (.inl rfl) (mkT_top ..) (by rw [fMaj, mkT_m]; rfl)
    (by simp only [parse, fMaj, mkT_m, parse05, mkT_f, mkT_b, mkT_a, mkT_d, BitVec.toNat_ofNat, Nat.reducePow, Nat.reduceMod])

theorem sraImm (d : Reg) (a : Reg) (i : BitVec 6) : Statement (.sraImm d a i) :=
  of_parse rfl rfl (.inl rfl) (mkT_top ..) (by rw [fMaj, mkT_m]; rfl)
    (by simp only [parse, fMaj, mkT_m, parse05, mkT_f, mkT_b, mkT_a, mkT_d, BitVec.toNat_ofNat, Nat.reducePow, Nat.reduceMod])

theorem rotlImm (d : Reg) (a : Reg) (i : BitVec 6) : Statement (.rotlImm d a i) :=
  of_parse rfl rfl (.inl rfl) (mkT_top ..) (by rw [fMaj, mkT_m]; rfl)
    (by simp only [parse, fMaj, mkT_m, parse05, mkT_f, mkT_b, mkT_a, mkT_d, BitVec.toNat_ofNat, Nat.reducePow, Nat.reduceMod])

theorem minImm (d : Reg) (a : Reg) (i : BitVec 6) : Statement (.minImm d a i) :=
  of_parse rfl rfl (.inl rfl) (mkT_top ..) (by rw [fMaj, mkT_m]; rfl)
    (by simp only [parse, fMaj, mkT_m, parse05, mkT_f, mkT_b, mkT_a, mkT_d, BitVec.toNat_ofNat, Nat.reducePow, Nat.reduceMod])

theorem maxImm (d : Reg) (a : Reg) (i : BitVec 6) : Statement (.maxImm d a i) :=
  of_parse rfl rfl (.inl rfl) (mkT_top ..) (by rw [fMaj, mkT_m]; rfl)
    (by simp only [parse, fMaj, mkT_m, parse05, mkT_f, mkT_b, mkT_a, mkT_d, BitVec.toNat_ofNat, Nat.reducePow, Nat.reduceMod])

theorem minuImm (d : Reg) (a : Reg) (i : BitVec 6) : Statement (.minuImm d a i) :=
  of_parse rfl rfl (.inl rfl) (mkT_top ..) (by rw [fMaj, mkT_m]; rfl)
    (by simp only [parse, fMaj, mkT_m, parse05, mkT_f, mkT_b, mkT_a, mkT_d, BitVec.toNat_ofNat, Nat.reducePow, Nat.reduceMod])

theorem maxuImm (d : Reg) (a : Reg) (i : BitVec 6) : Statement (.maxuImm d a i) :=
  of_parse rfl rfl (.inl rfl) (mkT_top ..) (by rw [fMaj, mkT_m]; rfl)
    (by simp only [parse, fMaj, mkT_m, parse05, mkT_f, mkT_b, mkT_a, mkT_d, BitVec.toNat_ofNat, Nat.reducePow, Nat.reduceMod])

theorem mul (d : Reg) (a : Reg) (b : Reg) : Statement (.mul d a b) :=
  of_parse rfl rfl (.inl rfl) (mkT_top ..) (by rw [fMaj, mkT_m]; rfl)
    (by simp only [parse, fMaj, mkT_m, parse06, mkT_f, mkT_b, mkT_a, mkT_d, BitVec.toNat_ofNat, Nat.reducePow, Nat.reduceMod])

theorem mulh (d : Reg) (a : Reg) (b : Reg) : Statement (.mulh d a b) :=
  of_parse rfl rfl (.inl rfl) (mkT_top ..) (by rw [fMaj, mkT_m]; rfl)
    (by simp only [parse, fMaj, mkT_m, parse06, mkT_f, mkT_b, mkT_a, mkT_d, BitVec.toNat_ofNat, Nat.reducePow, Nat.reduceMod])

theorem mulhu (d : Reg) (a : Reg) (b : Reg) : Statement (.mulhu d a b) :=
  of_parse rfl rfl (.inl rfl) (mkT_top ..) (by rw [fMaj, mkT_m]; rfl)
    (by simp only [parse, fMaj, mkT_m, parse06, mkT_f, mkT_b, mkT_a, mkT_d, BitVec.toNat_ofNat, Nat.reducePow, Nat.reduceMod])

theorem div (d : Reg) (a : Reg) (b : Reg) : Statement (.div d a b) :=
  of_parse rfl rfl (.inl rfl) (mkT_top ..) (by rw [fMaj, mkT_m]; rfl)
    (by simp only [parse, fMaj, mkT_m, parse06, mkT_f, mkT_b, mkT_a, mkT_d, BitVec.toNat_ofNat, Nat.reducePow, Nat.reduceMod])

theorem divu (d : Reg) (a : Reg) (b : Reg) : Statement (.divu d a b) :=
  of_parse rfl rfl (.inl rfl) (mkT_top ..) (by rw [fMaj, mkT_m]; rfl)
    (by simp only [parse, fMaj, mkT_m, parse06, mkT_f, mkT_b, mkT_a, mkT_d, BitVec.toNat_ofNat, Nat.reducePow, Nat.reduceMod])

theorem rem (d : Reg) (a : Reg) (b : Reg) : Statement (.rem d a b) :=
  of_parse rfl rfl (.inl rfl) (mkT_top ..) (by rw [fMaj, mkT_m]; rfl)
    (by simp only [parse, fMaj, mkT_m, parse06, mkT_f, mkT_b, mkT_a, mkT_d, BitVec.toNat_ofNat, Nat.reducePow, Nat.reduceMod])

theorem remu (d : Reg) (a : Reg) (b : Reg) : Statement (.remu d a b) :=
  of_parse rfl rfl (.inl rfl) (mkT_top ..) (by rw [fMaj, mkT_m]; rfl)
    (by simp only [parse, fMaj, mkT_m, parse06, mkT_f, mkT_b, mkT_a, mkT_d, BitVec.toNat_ofNat, Nat.reducePow, Nat.reduceMod])

theorem clz (d : Reg) (a : Reg) : Statement (.clz d a) :=
  of_parse rfl rfl (.inl rfl) (mkT_top ..) (by rw [fMaj, mkT_m]; rfl)
    (by simp only [parse, fMaj, mkT_m, parse07, mkT_f, mkT_a, mkT_d, BitVec.toNat_ofNat, Nat.reducePow, Nat.reduceMod])

theorem popc (d : Reg) (a : Reg) : Statement (.popc d a) :=
  of_parse rfl rfl (.inl rfl) (mkT_top ..) (by rw [fMaj, mkT_m]; rfl)
    (by simp only [parse, fMaj, mkT_m, parse07, mkT_f, mkT_a, mkT_d, BitVec.toNat_ofNat, Nat.reducePow, Nat.reduceMod])

theorem brev (d : Reg) (a : Reg) : Statement (.brev d a) :=
  of_parse rfl rfl (.inl rfl) (mkT_top ..) (by rw [fMaj, mkT_m]; rfl)
    (by simp only [parse, fMaj, mkT_m, parse07, mkT_f, mkT_a, mkT_d, BitVec.toNat_ofNat, Nat.reducePow, Nat.reduceMod])

theorem sext (d : Reg) (a : Reg) (n : BitVec 6) : Statement (.sext d a n) :=
  of_parse rfl rfl (.inl rfl) (mkT_top ..) (by rw [fMaj, mkT_m]; rfl)
    (by simp only [parse, fMaj, mkT_m, parse07, mkT_f, mkT_b, mkT_a, mkT_d, BitVec.toNat_ofNat, Nat.reducePow, Nat.reduceMod])

theorem zext (d : Reg) (a : Reg) (n : BitVec 6) : Statement (.zext d a n) :=
  of_parse rfl rfl (.inl rfl) (mkT_top ..) (by rw [fMaj, mkT_m]; rfl)
    (by simp only [parse, fMaj, mkT_m, parse07, mkT_f, mkT_b, mkT_a, mkT_d, BitVec.toNat_ofNat, Nat.reducePow, Nat.reduceMod])

theorem cmp (d : Reg) (a : Reg) (b : Reg) (f : BitVec 4) : Statement (.cmp d a b f) :=
  of_parse rfl rfl (.inl rfl) (mkT_top ..) (by rw [fMaj, mkT_m]; rfl)
    (by simp only [parse, fMaj, mkT_m, parse08, mkT_f, mkT_b, mkT_a, mkT_d, BitVec.toNat_ofNat, Nat.reducePow, Nat.reduceMod])

theorem sel (d : Reg) (a : Reg) (b : Reg) (x : BitVec 4) : Statement (.sel d a b x) :=
  of_parse rfl rfl (.inl rfl) (mkT_top ..) (by rw [fMaj, mkT_m]; rfl)
    (by simp only [parse, fMaj, mkT_m, parse09, mkT_f, mkT_b, mkT_a, mkT_d, BitVec.toNat_ofNat, Nat.reducePow, Nat.reduceMod])

theorem bra (o : BitVec 21) : Statement (.bra o) :=
  of_parse rfl rfl (.inl rfl) (mkJ_top ..) (by rw [fMaj, mkJ_m]; rfl)
    (by simp only [parse, fMaj, mkJ_m, parse10, mkJ_o, mkJ_l, BitVec.toNat_ofNat, Nat.reducePow, Nat.reduceMod])

theorem call (o : BitVec 21) : Statement (.call o) :=
  of_parse rfl rfl (.inl rfl) (mkJ_top ..) (by rw [fMaj, mkJ_m]; rfl)
    (by simp only [parse, fMaj, mkJ_m, parse10, mkJ_o, mkJ_l, BitVec.toNat_ofNat, Nat.reducePow, Nat.reduceMod])

theorem brcNz (a : Reg) (o : BitVec 15) : Statement (.brcNz a o) :=
  of_parse rfl rfl (.inl rfl) (mkBC_top ..) (by rw [fMaj, mkBC_m]; rfl)
    (by simp only [parse, fMaj, mkBC_m, parse11, mkBC_o, mkBC_z, mkBC_a, BitVec.toNat_ofNat, Nat.reducePow, Nat.reduceMod])

theorem brcZ (a : Reg) (o : BitVec 15) : Statement (.brcZ a o) :=
  of_parse rfl rfl (.inl rfl) (mkBC_top ..) (by rw [fMaj, mkBC_m]; rfl)
    (by simp only [parse, fMaj, mkBC_m, parse11, mkBC_o, mkBC_z, mkBC_a, BitVec.toNat_ofNat, Nat.reducePow, Nat.reduceMod])

theorem brmNone (o : BitVec 20) : Statement (.brmNone o) :=
  of_parse rfl rfl (.inl rfl) (mkBM_top ..) (by rw [fMaj, mkBM_m]; rfl)
    (by simp only [parse, fMaj, mkBM_m, parse12, mkBM_o, mkBM_c, BitVec.toNat_ofNat, Nat.reducePow, Nat.reduceMod])

theorem brmAny (o : BitVec 20) : Statement (.brmAny o) :=
  of_parse rfl rfl (.inl rfl) (mkBM_top ..) (by rw [fMaj, mkBM_m]; rfl)
    (by simp only [parse, fMaj, mkBM_m, parse12, mkBM_o, mkBM_c, BitVec.toNat_ofNat, Nat.reducePow, Nat.reduceMod])

theorem brmAll (o : BitVec 20) : Statement (.brmAll o) :=
  of_parse rfl rfl (.inl rfl) (mkBM_top ..) (by rw [fMaj, mkBM_m]; rfl)
    (by simp only [parse, fMaj, mkBM_m, parse12, mkBM_o, mkBM_c, BitVec.toNat_ofNat, Nat.reducePow, Nat.reduceMod])

theorem ret (a : Reg) : Statement (.ret a) :=
  of_parse rfl rfl (.inl rfl) (mkT_top ..) (by rw [fMaj, mkT_m]; rfl)
    (by simp only [parse, fMaj, mkT_m, parse13, mkT_f, mkT_a, BitVec.toNat_ofNat, Nat.reducePow, Nat.reduceMod])

theorem fork (a : Reg) (o : BitVec 16) : Statement (.fork a o) :=
  of_parse rfl rfl (.inl rfl) (mkI_top ..) (by rw [fMaj, mkI_m]; rfl)
    (by simp only [parse, fMaj, mkI_m, parse14, mkI_i, mkI_d, BitVec.toNat_ofNat, Nat.reducePow, Nat.reduceMod])

theorem mcall (m : BitVec 7) (x : BitVec 5) (y : BitVec 5) (z : BitVec 5) : Statement (.mcall m x y z) :=
  of_parse rfl rfl (.inl rfl) (mkMC_top ..) (by rw [fMaj, mkMC_m]; rfl)
    (by simp only [parse, fMaj, mkMC_m, parse15, mkMC_z, mkMC_y, mkMC_x, mkMC_n, BitVec.toNat_ofNat, Nat.reducePow, Nat.reduceMod])

theorem setem (a : Reg) : Statement (.setem a) :=
  of_parse rfl rfl (.inl rfl) (mkT_top ..) (by rw [fMaj, mkT_m]; rfl)
    (by simp only [parse, fMaj, mkT_m, parse16, mkT_f, mkT_a, BitVec.toNat_ofNat, Nat.reducePow, Nat.reduceMod])

theorem getem (d : Reg) : Statement (.getem d) :=
  of_parse rfl rfl (.inl rfl) (mkT_top ..) (by rw [fMaj, mkT_m]; rfl)
    (by simp only [parse, fMaj, mkT_m, parse16, mkT_f, mkT_d, BitVec.toNat_ofNat, Nat.reducePow, Nat.reduceMod])

theorem setfmt (a : Reg) : Statement (.setfmt a) :=
  of_parse rfl rfl (.inl rfl) (mkT_top ..) (by rw [fMaj, mkT_m]; rfl)
    (by simp only [parse, fMaj, mkT_m, parse16, mkT_f, mkT_a, BitVec.toNat_ofNat, Nat.reducePow, Nat.reduceMod])

theorem getfmt (d : Reg) : Statement (.getfmt d) :=
  of_parse rfl rfl (.inl rfl) (mkT_top ..) (by rw [fMaj, mkT_m]; rfl)
    (by simp only [parse, fMaj, mkT_m, parse16, mkT_f, mkT_d, BitVec.toNat_ofNat, Nat.reducePow, Nat.reduceMod])

theorem scene (a : Reg) (n : BitVec 6) : Statement (.scene a n) :=
  of_parse rfl rfl (.inl rfl) (mkT_top ..) (by rw [fMaj, mkT_m]; rfl)
    (by simp only [parse, fMaj, mkT_m, parse16, mkT_f, mkT_b, mkT_a, BitVec.toNat_ofNat, Nat.reducePow, Nat.reduceMod])

theorem vadd (d : Reg) (a : Reg) (b : Reg) : Statement (.vadd d a b) :=
  of_parse rfl rfl (.inl rfl) (mkT_top ..) (by rw [fMaj, mkT_m]; rfl)
    (by simp only [parse, fMaj, mkT_m, parse18, mkT_f, mkT_b, mkT_a, mkT_d, BitVec.toNat_ofNat, Nat.reducePow, Nat.reduceMod])

theorem vsub (d : Reg) (a : Reg) (b : Reg) : Statement (.vsub d a b) :=
  of_parse rfl rfl (.inl rfl) (mkT_top ..) (by rw [fMaj, mkT_m]; rfl)
    (by simp only [parse, fMaj, mkT_m, parse18, mkT_f, mkT_b, mkT_a, mkT_d, BitVec.toNat_ofNat, Nat.reducePow, Nat.reduceMod])

theorem vmul (d : Reg) (a : Reg) (b : Reg) : Statement (.vmul d a b) :=
  of_parse rfl rfl (.inl rfl) (mkT_top ..) (by rw [fMaj, mkT_m]; rfl)
    (by simp only [parse, fMaj, mkT_m, parse18, mkT_f, mkT_b, mkT_a, mkT_d, BitVec.toNat_ofNat, Nat.reducePow, Nat.reduceMod])

theorem vmulh (d : Reg) (a : Reg) (b : Reg) : Statement (.vmulh d a b) :=
  of_parse rfl rfl (.inl rfl) (mkT_top ..) (by rw [fMaj, mkT_m]; rfl)
    (by simp only [parse, fMaj, mkT_m, parse18, mkT_f, mkT_b, mkT_a, mkT_d, BitVec.toNat_ofNat, Nat.reducePow, Nat.reduceMod])

theorem vand (d : Reg) (a : Reg) (b : Reg) : Statement (.vand d a b) :=
  of_parse rfl rfl (.inl rfl) (mkT_top ..) (by rw [fMaj, mkT_m]; rfl)
    (by simp only [parse, fMaj, mkT_m, parse18, mkT_f, mkT_b, mkT_a, mkT_d, BitVec.toNat_ofNat, Nat.reducePow, Nat.reduceMod])

theorem vor (d : Reg) (a : Reg) (b : Reg) : Statement (.vor d a b) :=
  of_parse rfl rfl (.inl rfl) (mkT_top ..) (by rw [fMaj, mkT_m]; rfl)
    (by simp only [parse, fMaj, mkT_m, parse18, mkT_f, mkT_b, mkT_a, mkT_d, BitVec.toNat_ofNat, Nat.reducePow, Nat.reduceMod])

theorem vxor (d : Reg) (a : Reg) (b : Reg) : Statement (.vxor d a b) :=
  of_parse rfl rfl (.inl rfl) (mkT_top ..) (by rw [fMaj, mkT_m]; rfl)
    (by simp only [parse, fMaj, mkT_m, parse18, mkT_f, mkT_b, mkT_a, mkT_d, BitVec.toNat_ofNat, Nat.reducePow, Nat.reduceMod])

theorem vshl (d : Reg) (a : Reg) (b : Reg) : Statement (.vshl d a b) :=
  of_parse rfl rfl (.inl rfl) (mkT_top ..) (by rw [fMaj, mkT_m]; rfl)
    (by simp only [parse, fMaj, mkT_m, parse18, mkT_f, mkT_b, mkT_a, mkT_d, BitVec.toNat_ofNat, Nat.reducePow, Nat.reduceMod])

theorem vshr (d : Reg) (a : Reg) (b : Reg) : Statement (.vshr d a b) :=
  of_parse rfl rfl (.inl rfl) (mkT_top ..) (by rw [fMaj, mkT_m]; rfl)
    (by simp only [parse, fMaj, mkT_m, parse18, mkT_f, mkT_b, mkT_a, mkT_d, BitVec.toNat_ofNat, Nat.reducePow, Nat.reduceMod])

theorem vsra (d : Reg) (a : Reg) (b : Reg) : Statement (.vsra d a b) :=
  of_parse rfl rfl (.inl rfl) (mkT_top ..) (by rw [fMaj, mkT_m]; rfl)
    (by simp only [parse, fMaj, mkT_m, parse18, mkT_f, mkT_b, mkT_a, mkT_d, BitVec.toNat_ofNat, Nat.reducePow, Nat.reduceMod])

theorem vmin (d : Reg) (a : Reg) (b : Reg) : Statement (.vmin d a b) :=
  of_parse rfl rfl (.inl rfl) (mkT_top ..) (by rw [fMaj, mkT_m]; rfl)
    (by simp only [parse, fMaj, mkT_m, parse18, mkT_f, mkT_b, mkT_a, mkT_d, BitVec.toNat_ofNat, Nat.reducePow, Nat.reduceMod])

theorem vmax (d : Reg) (a : Reg) (b : Reg) : Statement (.vmax d a b) :=
  of_parse rfl rfl (.inl rfl) (mkT_top ..) (by rw [fMaj, mkT_m]; rfl)
    (by simp only [parse, fMaj, mkT_m, parse18, mkT_f, mkT_b, mkT_a, mkT_d, BitVec.toNat_ofNat, Nat.reducePow, Nat.reduceMod])

theorem vminu (d : Reg) (a : Reg) (b : Reg) : Statement (.vminu d a b) :=
  of_parse rfl rfl (.inl rfl) (mkT_top ..) (by rw [fMaj, mkT_m]; rfl)
    (by simp only [parse, fMaj, mkT_m, parse18, mkT_f, mkT_b, mkT_a, mkT_d, BitVec.toNat_ofNat, Nat.reducePow, Nat.reduceMod])

theorem vmaxu (d : Reg) (a : Reg) (b : Reg) : Statement (.vmaxu d a b) :=
  of_parse rfl rfl (.inl rfl) (mkT_top ..) (by rw [fMaj, mkT_m]; rfl)
    (by simp only [parse, fMaj, mkT_m, parse18, mkT_f, mkT_b, mkT_a, mkT_d, BitVec.toNat_ofNat, Nat.reducePow, Nat.reduceMod])

theorem vaddsat (d : Reg) (a : Reg) (b : Reg) : Statement (.vaddsat d a b) :=
  of_parse rfl rfl (.inl rfl) (mkT_top ..) (by rw [fMaj, mkT_m]; rfl)
    (by simp only [parse, fMaj, mkT_m, parse18, mkT_f, mkT_b, mkT_a, mkT_d, BitVec.toNat_ofNat, Nat.reducePow, Nat.reduceMod])

theorem vsubsat (d : Reg) (a : Reg) (b : Reg) : Statement (.vsubsat d a b) :=
  of_parse rfl rfl (.inl rfl) (mkT_top ..) (by rw [fMaj, mkT_m]; rfl)
    (by simp only [parse, fMaj, mkT_m, parse18, mkT_f, mkT_b, mkT_a, mkT_d, BitVec.toNat_ofNat, Nat.reducePow, Nat.reduceMod])

theorem vaddImm (d : Reg) (a : Reg) (i : BitVec 7) : Statement (.vaddImm d a i) :=
  of_parse rfl rfl (.inl rfl) (mkVI_top ..) (by rw [fMaj, mkVI_m]; rfl)
    (by simp only [parse, fMaj, mkVI_m, parse19, mkVI_i, mkVI_f, mkVI_a, mkVI_d, BitVec.toNat_ofNat, Nat.reducePow, Nat.reduceMod])

theorem vsubImm (d : Reg) (a : Reg) (i : BitVec 7) : Statement (.vsubImm d a i) :=
  of_parse rfl rfl (.inl rfl) (mkVI_top ..) (by rw [fMaj, mkVI_m]; rfl)
    (by simp only [parse, fMaj, mkVI_m, parse19, mkVI_i, mkVI_f, mkVI_a, mkVI_d, BitVec.toNat_ofNat, Nat.reducePow, Nat.reduceMod])

theorem vmulImm (d : Reg) (a : Reg) (i : BitVec 7) : Statement (.vmulImm d a i) :=
  of_parse rfl rfl (.inl rfl) (mkVI_top ..) (by rw [fMaj, mkVI_m]; rfl)
    (by simp only [parse, fMaj, mkVI_m, parse19, mkVI_i, mkVI_f, mkVI_a, mkVI_d, BitVec.toNat_ofNat, Nat.reducePow, Nat.reduceMod])

theorem vandImm (d : Reg) (a : Reg) (i : BitVec 7) : Statement (.vandImm d a i) :=
  of_parse rfl rfl (.inl rfl) (mkVI_top ..) (by rw [fMaj, mkVI_m]; rfl)
    (by simp only [parse, fMaj, mkVI_m, parse19, mkVI_i, mkVI_f, mkVI_a, mkVI_d, BitVec.toNat_ofNat, Nat.reducePow, Nat.reduceMod])

theorem vorImm (d : Reg) (a : Reg) (i : BitVec 7) : Statement (.vorImm d a i) :=
  of_parse rfl rfl (.inl rfl) (mkVI_top ..) (by rw [fMaj, mkVI_m]; rfl)
    (by simp only [parse, fMaj, mkVI_m, parse19, mkVI_i, mkVI_f, mkVI_a, mkVI_d, BitVec.toNat_ofNat, Nat.reducePow, Nat.reduceMod])

theorem vshlImm (d : Reg) (a : Reg) (i : BitVec 7) : Statement (.vshlImm d a i) :=
  of_parse rfl rfl (.inl rfl) (mkVI_top ..) (by rw [fMaj, mkVI_m]; rfl)
    (by simp only [parse, fMaj, mkVI_m, parse19, mkVI_i, mkVI_f, mkVI_a, mkVI_d, BitVec.toNat_ofNat, Nat.reducePow, Nat.reduceMod])

theorem vshrImm (d : Reg) (a : Reg) (i : BitVec 7) : Statement (.vshrImm d a i) :=
  of_parse rfl rfl (.inl rfl) (mkVI_top ..) (by rw [fMaj, mkVI_m]; rfl)
    (by simp only [parse, fMaj, mkVI_m, parse19, mkVI_i, mkVI_f, mkVI_a, mkVI_d, BitVec.toNat_ofNat, Nat.reducePow, Nat.reduceMod])

theorem vsraImm (d : Reg) (a : Reg) (i : BitVec 7) : Statement (.vsraImm d a i) :=
  of_parse rfl rfl (.inl rfl) (mkVI_top ..) (by rw [fMaj, mkVI_m]; rfl)
    (by simp only [parse, fMaj, mkVI_m, parse19, mkVI_i, mkVI_f, mkVI_a, mkVI_d, BitVec.toNat_ofNat, Nat.reducePow, Nat.reduceMod])

theorem vmad (d : Reg) (a : Reg) (b : Reg) : Statement (.vmad d a b) :=
  of_parse rfl rfl (.inl rfl) (mkT_top ..) (by rw [fMaj, mkT_m]; rfl)
    (by simp only [parse, fMaj, mkT_m, parse1A, mkT_f, mkT_b, mkT_a, mkT_d, BitVec.toNat_ofNat, Nat.reducePow, Nat.reduceMod])

theorem vabs (d : Reg) (a : Reg) : Statement (.vabs d a) :=
  of_parse rfl rfl (.inl rfl) (mkT_top ..) (by rw [fMaj, mkT_m]; rfl)
    (by simp only [parse, fMaj, mkT_m, parse1A, mkT_f, mkT_a, mkT_d, BitVec.toNat_ofNat, Nat.reducePow, Nat.reduceMod])

theorem vneg (d : Reg) (a : Reg) : Statement (.vneg d a) :=
  of_parse rfl rfl (.inl rfl) (mkT_top ..) (by rw [fMaj, mkT_m]; rfl)
    (by simp only [parse, fMaj, mkT_m, parse1A, mkT_f, mkT_a, mkT_d, BitVec.toNat_ofNat, Nat.reducePow, Nat.reduceMod])

theorem vclz (d : Reg) (a : Reg) : Statement (.vclz d a) :=
  of_parse rfl rfl (.inl rfl) (mkT_top ..) (by rw [fMaj, mkT_m]; rfl)
    (by simp only [parse, fMaj, mkT_m, parse1A, mkT_f, mkT_a, mkT_d, BitVec.toNat_ofNat, Nat.reducePow, Nat.reduceMod])

theorem vpopc (d : Reg) (a : Reg) : Statement (.vpopc d a) :=
  of_parse rfl rfl (.inl rfl) (mkT_top ..) (by rw [fMaj, mkT_m]; rfl)
    (by simp only [parse, fMaj, mkT_m, parse1A, mkT_f, mkT_a, mkT_d, BitVec.toNat_ofNat, Nat.reducePow, Nat.reduceMod])

theorem vdot4I8 (d : Reg) (a : Reg) (b : Reg) : Statement (.vdot4I8 d a b) :=
  of_parse rfl rfl (.inl rfl) (mkT_top ..) (by rw [fMaj, mkT_m]; rfl)
    (by simp only [parse, fMaj, mkT_m, parse1A, mkT_f, mkT_b, mkT_a, mkT_d, BitVec.toNat_ofNat, Nat.reducePow, Nat.reduceMod])

theorem vdot4N8 (d : Reg) (a : Reg) (b : Reg) : Statement (.vdot4N8 d a b) :=
  of_parse rfl rfl (.inl rfl) (mkT_top ..) (by rw [fMaj, mkT_m]; rfl)
    (by simp only [parse, fMaj, mkT_m, parse1A, mkT_f, mkT_b, mkT_a, mkT_d, BitVec.toNat_ofNat, Nat.reducePow, Nat.reduceMod])

theorem vcmp (d : Reg) (a : Reg) (b : Reg) (f : BitVec 4) : Statement (.vcmp d a b f) :=
  of_parse rfl rfl (.inl rfl) (mkT_top ..) (by rw [fMaj, mkT_m]; rfl)
    (by simp only [parse, fMaj, mkT_m, parse1B, mkT_f, mkT_b, mkT_a, mkT_d, BitVec.toNat_ofNat, Nat.reducePow, Nat.reduceMod])

theorem vfadd (d : Reg) (a : Reg) (b : Reg) : Statement (.vfadd d a b) :=
  of_parse rfl rfl (.inl rfl) (mkT_top ..) (by rw [fMaj, mkT_m]; rfl)
    (by simp only [parse, fMaj, mkT_m, parse1C, mkT_f, mkT_b, mkT_a, mkT_d, BitVec.toNat_ofNat, Nat.reducePow, Nat.reduceMod])

theorem vfsub (d : Reg) (a : Reg) (b : Reg) : Statement (.vfsub d a b) :=
  of_parse rfl rfl (.inl rfl) (mkT_top ..) (by rw [fMaj, mkT_m]; rfl)
    (by simp only [parse, fMaj, mkT_m, parse1C, mkT_f, mkT_b, mkT_a, mkT_d, BitVec.toNat_ofNat, Nat.reducePow, Nat.reduceMod])

theorem vfmul (d : Reg) (a : Reg) (b : Reg) : Statement (.vfmul d a b) :=
  of_parse rfl rfl (.inl rfl) (mkT_top ..) (by rw [fMaj, mkT_m]; rfl)
    (by simp only [parse, fMaj, mkT_m, parse1C, mkT_f, mkT_b, mkT_a, mkT_d, BitVec.toNat_ofNat, Nat.reducePow, Nat.reduceMod])

theorem vfmin (d : Reg) (a : Reg) (b : Reg) : Statement (.vfmin d a b) :=
  of_parse rfl rfl (.inl rfl) (mkT_top ..) (by rw [fMaj, mkT_m]; rfl)
    (by simp only [parse, fMaj, mkT_m, parse1C, mkT_f, mkT_b, mkT_a, mkT_d, BitVec.toNat_ofNat, Nat.reducePow, Nat.reduceMod])

theorem vfmax (d : Reg) (a : Reg) (b : Reg) : Statement (.vfmax d a b) :=
  of_parse rfl rfl (.inl rfl) (mkT_top ..) (by rw [fMaj, mkT_m]; rfl)
    (by simp only [parse, fMaj, mkT_m, parse1C, mkT_f, mkT_b, mkT_a, mkT_d, BitVec.toNat_ofNat, Nat.reducePow, Nat.reduceMod])

theorem vfcopysign (d : Reg) (a : Reg) (b : Reg) : Statement (.vfcopysign d a b) :=
  of_parse rfl rfl (.inl rfl) (mkT_top ..) (by rw [fMaj, mkT_m]; rfl)
    (by simp only [parse, fMaj, mkT_m, parse1C, mkT_f, mkT_b, mkT_a, mkT_d, BitVec.toNat_ofNat, Nat.reducePow, Nat.reduceMod])

theorem vfma (d : Reg) (a : Reg) (b : Reg) : Statement (.vfma d a b) :=
  of_parse rfl rfl (.inl rfl) (mkT_top ..) (by rw [fMaj, mkT_m]; rfl)
    (by simp only [parse, fMaj, mkT_m, parse1D, mkT_f, mkT_b, mkT_a, mkT_d, BitVec.toNat_ofNat, Nat.reducePow, Nat.reduceMod])

theorem vfms (d : Reg) (a : Reg) (b : Reg) : Statement (.vfms d a b) :=
  of_parse rfl rfl (.inl rfl) (mkT_top ..) (by rw [fMaj, mkT_m]; rfl)
    (by simp only [parse, fMaj, mkT_m, parse1D, mkT_f, mkT_b, mkT_a, mkT_d, BitVec.toNat_ofNat, Nat.reducePow, Nat.reduceMod])

theorem vfnma (d : Reg) (a : Reg) (b : Reg) : Statement (.vfnma d a b) :=
  of_parse rfl rfl (.inl rfl) (mkT_top ..) (by rw [fMaj, mkT_m]; rfl)
    (by simp only [parse, fMaj, mkT_m, parse1D, mkT_f, mkT_b, mkT_a, mkT_d, BitVec.toNat_ofNat, Nat.reducePow, Nat.reduceMod])

theorem vfcmp (d : Reg) (a : Reg) (b : Reg) (f : BitVec 4) : Statement (.vfcmp d a b f) :=
  of_parse rfl rfl (.inl rfl) (mkT_top ..) (by rw [fMaj, mkT_m]; rfl)
    (by simp only [parse, fMaj, mkT_m, parse1E, mkT_f, mkT_b, mkT_a, mkT_d, BitVec.toNat_ofNat, Nat.reducePow, Nat.reduceMod])

theorem vfrcp (d : Reg) (a : Reg) : Statement (.vfrcp d a) :=
  of_parse rfl rfl (.inl rfl) (mkT_top ..) (by rw [fMaj, mkT_m]; rfl)
    (by simp only [parse, fMaj, mkT_m, parse1F, mkT_f, mkT_a, mkT_d, BitVec.toNat_ofNat, Nat.reducePow, Nat.reduceMod])

theorem vfrsq (d : Reg) (a : Reg) : Statement (.vfrsq d a) :=
  of_parse rfl rfl (.inl rfl) (mkT_top ..) (by rw [fMaj, mkT_m]; rfl)
    (by simp only [parse, fMaj, mkT_m, parse1F, mkT_f, mkT_a, mkT_d, BitVec.toNat_ofNat, Nat.reducePow, Nat.reduceMod])

theorem vfsqrt (d : Reg) (a : Reg) : Statement (.vfsqrt d a) :=
  of_parse rfl rfl (.inl rfl) (mkT_top ..) (by rw [fMaj, mkT_m]; rfl)
    (by simp only [parse, fMaj, mkT_m, parse1F, mkT_f, mkT_a, mkT_d, BitVec.toNat_ofNat, Nat.reducePow, Nat.reduceMod])

theorem vfexp2 (d : Reg) (a : Reg) : Statement (.vfexp2 d a) :=
  of_parse rfl rfl (.inl rfl) (mkT_top ..) (by rw [fMaj, mkT_m]; rfl)
    (by simp only [parse, fMaj, mkT_m, parse1F, mkT_f, mkT_a, mkT_d, BitVec.toNat_ofNat, Nat.reducePow, Nat.reduceMod])

theorem vflog2 (d : Reg) (a : Reg) : Statement (.vflog2 d a) :=
  of_parse rfl rfl (.inl rfl) (mkT_top ..) (by rw [fMaj, mkT_m]; rfl)
    (by simp only [parse, fMaj, mkT_m, parse1F, mkT_f, mkT_a, mkT_d, BitVec.toNat_ofNat, Nat.reducePow, Nat.reduceMod])

theorem vftanh (d : Reg) (a : Reg) : Statement (.vftanh d a) :=
  of_parse rfl rfl (.inl rfl) (mkT_top ..) (by rw [fMaj, mkT_m]; rfl)
    (by simp only [parse, fMaj, mkT_m, parse1F, mkT_f, mkT_a, mkT_d, BitVec.toNat_ofNat, Nat.reducePow, Nat.reduceMod])

theorem vfsig (d : Reg) (a : Reg) : Statement (.vfsig d a) :=
  of_parse rfl rfl (.inl rfl) (mkT_top ..) (by rw [fMaj, mkT_m]; rfl)
    (by simp only [parse, fMaj, mkT_m, parse1F, mkT_f, mkT_a, mkT_d, BitVec.toNat_ofNat, Nat.reducePow, Nat.reduceMod])

theorem vfabs (d : Reg) (a : Reg) : Statement (.vfabs d a) :=
  of_parse rfl rfl (.inl rfl) (mkT_top ..) (by rw [fMaj, mkT_m]; rfl)
    (by simp only [parse, fMaj, mkT_m, parse1F, mkT_f, mkT_a, mkT_d, BitVec.toNat_ofNat, Nat.reducePow, Nat.reduceMod])

theorem vfneg (d : Reg) (a : Reg) : Statement (.vfneg d a) :=
  of_parse rfl rfl (.inl rfl) (mkT_top ..) (by rw [fMaj, mkT_m]; rfl)
    (by simp only [parse, fMaj, mkT_m, parse1F, mkT_f, mkT_a, mkT_d, BitVec.toNat_ofNat, Nat.reducePow, Nat.reduceMod])

theorem vcvt (d : Reg) (a : Reg) (x : BitVec 4) (y : BitVec 4) (r : BitVec 2) : Statement (.vcvt d a x y r) :=
  of_parse rfl rfl (.inl rfl) (mkCV_top ..) (by rw [fMaj, mkCV_m]; rfl)
    (by simp only [parse, fMaj, mkCV_m, parse20, mkCV_r, mkCV_t, mkCV_s, mkCV_a, mkCV_d, BitVec.toNat_ofNat, Nat.reducePow, Nat.reduceMod])

theorem vpack (d : Reg) (a : Reg) (b : Reg) (w : BitVec 3) : Statement (.vpack d a b w) :=
  of_parse rfl rfl (.inl rfl) (mkT_top ..) (by rw [fMaj, mkT_m]; rfl)
    (by simp only [parse, fMaj, mkT_m, parse21, mkT_ff_0_3, mkT_ff_3_1, mkT_b, mkT_a, mkT_d, BitVec.toNat_ofNat, Nat.reducePow, Nat.reduceMod])

theorem vunpack (d : Reg) (a : Reg) (k : BitVec 6) (w : BitVec 3) : Statement (.vunpack d a k w) :=
  of_parse rfl rfl (.inl rfl) (mkT_top ..) (by rw [fMaj, mkT_m]; rfl)
    (by simp only [parse, fMaj, mkT_m, parse21, mkT_ff_0_3, mkT_ff_3_1, mkT_b, mkT_a, mkT_d, BitVec.toNat_ofNat, Nat.reducePow, Nat.reduceMod])

theorem vsel (d : Reg) (a : Reg) (b : Reg) (x : BitVec 4) : Statement (.vsel d a b x) :=
  of_parse rfl rfl (.inl rfl) (mkT_top ..) (by rw [fMaj, mkT_m]; rfl)
    (by simp only [parse, fMaj, mkT_m, parse22, mkT_f, mkT_b, mkT_a, mkT_d, BitVec.toNat_ofNat, Nat.reducePow, Nat.reduceMod])

theorem vshuf (d : Reg) (a : Reg) (b : Reg) : Statement (.vshuf d a b) :=
  of_parse rfl rfl (.inl rfl) (mkT_top ..) (by rw [fMaj, mkT_m]; rfl)
    (by simp only [parse, fMaj, mkT_m, parse23, mkT_f, mkT_b, mkT_a, mkT_d, BitVec.toNat_ofNat, Nat.reducePow, Nat.reduceMod])

theorem vbcast (d : Reg) (a : Reg) (k : BitVec 6) : Statement (.vbcast d a k) :=
  of_parse rfl rfl (.inl rfl) (mkT_top ..) (by rw [fMaj, mkT_m]; rfl)
    (by simp only [parse, fMaj, mkT_m, parse23, mkT_f, mkT_b, mkT_a, mkT_d, BitVec.toNat_ofNat, Nat.reducePow, Nat.reduceMod])

theorem vlaneid (d : Reg) : Statement (.vlaneid d) :=
  of_parse rfl rfl (.inl rfl) (mkT_top ..) (by rw [fMaj, mkT_m]; rfl)
    (by simp only [parse, fMaj, mkT_m, parse23, mkT_f, mkT_d, BitVec.toNat_ofNat, Nat.reducePow, Nat.reduceMod])

theorem vaff (d : Reg) (a : Reg) (b : Reg) : Statement (.vaff d a b) :=
  of_parse rfl rfl (.inl rfl) (mkT_top ..) (by rw [fMaj, mkT_m]; rfl)
    (by simp only [parse, fMaj, mkT_m, parse23, mkT_f, mkT_b, mkT_a, mkT_d, BitVec.toNat_ofNat, Nat.reducePow, Nat.reduceMod])

theorem vaffImm (d : Reg) (i : BitVec 6) (j : BitVec 6) : Statement (.vaffImm d i j) :=
  of_parse rfl rfl (.inl rfl) (mkT_top ..) (by rw [fMaj, mkT_m]; rfl)
    (by simp only [parse, fMaj, mkT_m, parse23, mkT_f, mkT_b, mkT_a, mkT_d, BitVec.toNat_ofNat, Nat.reducePow, Nat.reduceMod])

theorem vreduce (d : Reg) (a : Reg) (p : BitVec 6) : Statement (.vreduce d a p) :=
  of_parse rfl rfl (.inl rfl) (mkT_top ..) (by rw [fMaj, mkT_m]; rfl)
    (by simp only [parse, fMaj, mkT_m, parse24, mkT_f, mkT_b, mkT_a, mkT_d, BitVec.toNat_ofNat, Nat.reducePow, Nat.reduceMod])

theorem vscanInclusive (d : Reg) (a : Reg) (p : BitVec 6) : Statement (.vscanInclusive d a p) :=
  of_parse rfl rfl (.inl rfl) (mkT_top ..) (by rw [fMaj, mkT_m]; rfl)
    (by simp only [parse, fMaj, mkT_m, parse24, mkT_f, mkT_b, mkT_a, mkT_d, BitVec.toNat_ofNat, Nat.reducePow, Nat.reduceMod])

theorem vscanExclusive (d : Reg) (a : Reg) (p : BitVec 6) : Statement (.vscanExclusive d a p) :=
  of_parse rfl rfl (.inl rfl) (mkT_top ..) (by rw [fMaj, mkT_m]; rfl)
    (by simp only [parse, fMaj, mkT_m, parse24, mkT_f, mkT_b, mkT_a, mkT_d, BitVec.toNat_ofNat, Nat.reducePow, Nat.reduceMod])

theorem ballot (d : Reg) (a : Reg) : Statement (.ballot d a) :=
  of_parse rfl rfl (.inl rfl) (mkT_top ..) (by rw [fMaj, mkT_m]; rfl)
    (by simp only [parse, fMaj, mkT_m, parse24, mkT_f, mkT_a, mkT_d, BitVec.toNat_ofNat, Nat.reducePow, Nat.reduceMod])

theorem vrng (d : Reg) (a : Reg) (b : Reg) : Statement (.vrng d a b) :=
  of_parse rfl rfl (.inl rfl) (mkT_top ..) (by rw [fMaj, mkT_m]; rfl)
    (by simp only [parse, fMaj, mkT_m, parse25, mkT_f, mkT_b, mkT_a, mkT_d, BitVec.toNat_ofNat, Nat.reducePow, Nat.reduceMod])

theorem vmovs (d : Reg) (a : Reg) : Statement (.vmovs d a) :=
  of_parse rfl rfl (.inl rfl) (mkT_top ..) (by rw [fMaj, mkT_m]; rfl)
    (by simp only [parse, fMaj, mkT_m, parse26, mkT_f, mkT_a, mkT_d, BitVec.toNat_ofNat, Nat.reducePow, Nat.reduceMod])

theorem smovv (d : Reg) (a : Reg) (k : BitVec 6) : Statement (.smovv d a k) :=
  of_parse rfl rfl (.inl rfl) (mkT_top ..) (by rw [fMaj, mkT_m]; rfl)
    (by simp only [parse, fMaj, mkT_m, parse26, mkT_f, mkT_b, mkT_a, mkT_d, BitVec.toNat_ofNat, Nat.reducePow, Nat.reduceMod])

theorem lds (d : Reg) (a : Reg) (b : Reg) (z : BitVec 3) : Statement (.lds d a b z) :=
  of_parse rfl rfl (.inl rfl) (mkT_top ..) (by rw [fMaj, mkT_m]; rfl)
    (by simp only [parse, fMaj, mkT_m, parse30, mkT_ff_0_3, mkT_ff_3_1, mkT_b, mkT_a, mkT_d, BitVec.toNat_ofNat, Nat.reducePow, Nat.reduceMod])

theorem sts (d : Reg) (a : Reg) (b : Reg) (z : BitVec 3) : Statement (.sts d a b z) :=
  of_parse rfl rfl (.inl rfl) (mkT_top ..) (by rw [fMaj, mkT_m]; rfl)
    (by simp only [parse, fMaj, mkT_m, parse30, mkT_ff_0_3, mkT_ff_3_1, mkT_b, mkT_a, mkT_d, BitVec.toNat_ofNat, Nat.reducePow, Nat.reduceMod])

theorem ldsx (d : Reg) (a : Reg) (x : BitVec 4) (y : BitVec 4) (o : BitVec 1) : Statement (.ldsx d a x y o) :=
  of_parse rfl rfl (.inl rfl) (mkX_top ..) (by rw [fMaj, mkX_m]; rfl)
    (by simp only [parse, fMaj, mkX_m, parse31, mkX_o, mkX_p, mkX_y, mkX_x, mkX_a, mkX_d, BitVec.toNat_ofNat, Nat.reducePow, Nat.reduceMod])

theorem stsx (d : Reg) (a : Reg) (x : BitVec 4) (y : BitVec 4) (o : BitVec 1) : Statement (.stsx d a x y o) :=
  of_parse rfl rfl (.inl rfl) (mkX_top ..) (by rw [fMaj, mkX_m]; rfl)
    (by simp only [parse, fMaj, mkX_m, parse31, mkX_o, mkX_p, mkX_y, mkX_x, mkX_a, mkX_d, BitVec.toNat_ofNat, Nat.reducePow, Nat.reduceMod])

theorem atoms (d : Reg) (a : Reg) (p : BitVec 4) (o : BitVec 2) (e : BitVec 2) (x : BitVec 1) : Statement (.atoms d a p o e x) :=
  of_parse rfl rfl (.inl rfl) (mkSA_top ..) (by rw [fMaj, mkSA_m]; rfl)
    (by simp only [parse, fMaj, mkSA_m, parse32, mkSA_x, mkSA_e, mkSA_o, mkSA_p, mkSA_a, mkSA_d, BitVec.toNat_ofNat, Nat.reducePow, Nat.reduceMod])

theorem ldg (d : Reg) (a : Reg) (t : BitVec 3) (o : BitVec 2) (e : BitVec 2) : Statement (.ldg d a t o e) :=
  of_parse rfl rfl (.inl rfl) (mkG_top ..) (by rw [fMaj, mkG_m]; rfl)
    (by simp only [parse, fMaj, mkG_m, parse33, mkG_p, mkG_e, mkG_o, mkG_t, mkG_a, mkG_d, BitVec.toNat_ofNat, Nat.reducePow, Nat.reduceMod])

theorem ldgN16 (d : Reg) (a : Reg) (t : BitVec 3) (o : BitVec 2) (e : BitVec 2) : Statement (.ldgN16 d a t o e) :=
  of_parse rfl rfl (.inl rfl) (mkG_top ..) (by rw [fMaj, mkG_m]; rfl)
    (by simp only [parse, fMaj, mkG_m, parse33, mkG_p, mkG_e, mkG_o, mkG_t, mkG_a, mkG_d, BitVec.toNat_ofNat, Nat.reducePow, Nat.reduceMod])

theorem ldgN8 (d : Reg) (a : Reg) (t : BitVec 3) (o : BitVec 2) (e : BitVec 2) : Statement (.ldgN8 d a t o e) :=
  of_parse rfl rfl (.inl rfl) (mkG_top ..) (by rw [fMaj, mkG_m]; rfl)
    (by simp only [parse, fMaj, mkG_m, parse33, mkG_p, mkG_e, mkG_o, mkG_t, mkG_a, mkG_d, BitVec.toNat_ofNat, Nat.reducePow, Nat.reduceMod])

theorem stg (d : Reg) (a : Reg) (t : BitVec 3) (o : BitVec 2) (e : BitVec 2) : Statement (.stg d a t o e) :=
  of_parse rfl rfl (.inl rfl) (mkG_top ..) (by rw [fMaj, mkG_m]; rfl)
    (by simp only [parse, fMaj, mkG_m, parse33, mkG_p, mkG_e, mkG_o, mkG_t, mkG_a, mkG_d, BitVec.toNat_ofNat, Nat.reducePow, Nat.reduceMod])

theorem stg16 (d : Reg) (a : Reg) (t : BitVec 3) (o : BitVec 2) (e : BitVec 2) : Statement (.stg16 d a t o e) :=
  of_parse rfl rfl (.inl rfl) (mkG_top ..) (by rw [fMaj, mkG_m]; rfl)
    (by simp only [parse, fMaj, mkG_m, parse33, mkG_p, mkG_e, mkG_o, mkG_t, mkG_a, mkG_d, BitVec.toNat_ofNat, Nat.reducePow, Nat.reduceMod])

theorem stg8 (d : Reg) (a : Reg) (t : BitVec 3) (o : BitVec 2) (e : BitVec 2) : Statement (.stg8 d a t o e) :=
  of_parse rfl rfl (.inl rfl) (mkG_top ..) (by rw [fMaj, mkG_m]; rfl)
    (by simp only [parse, fMaj, mkG_m, parse33, mkG_p, mkG_e, mkG_o, mkG_t, mkG_a, mkG_d, BitVec.toNat_ofNat, Nat.reducePow, Nat.reduceMod])

theorem poll (d : Reg) (a : Reg) (t : BitVec 3) (o : BitVec 2) (e : BitVec 2) : Statement (.poll d a t o e) :=
  of_parse rfl rfl (.inl rfl) (mkG_top ..) (by rw [fMaj, mkG_m]; rfl)
    (by simp only [parse, fMaj, mkG_m, parse33, mkG_p, mkG_e, mkG_o, mkG_t, mkG_a, mkG_d, BitVec.toNat_ofNat, Nat.reducePow, Nat.reduceMod])

theorem atom (d : Reg) (a : Reg) (t : BitVec 3) (o : BitVec 2) (e : BitVec 2) (p : BitVec 3) : Statement (.atom d a t o e p) :=
  of_parse rfl rfl (.inl rfl) (mkG_top ..) (by rw [fMaj, mkG_m]; rfl)
    (by simp only [parse, fMaj, mkG_m, parse34, mkG_p, mkG_e, mkG_o, mkG_t, mkG_a, mkG_d, BitVec.toNat_ofNat, Nat.reducePow, Nat.reduceMod])

theorem fence (e : BitVec 2) : Statement (.fence e) :=
  of_parse rfl rfl (.inl rfl) (mkT_top ..) (by rw [fMaj, mkT_m]; rfl)
    (by simp only [parse, fMaj, mkT_m, parse35, mkT_f, mkT_cc_4_2, BitVec.toNat_ofNat, Nat.reducePow, Nat.reduceMod])

theorem waitc (n : BitVec 6) (l : BitVec 2) : Statement (.waitc n l) :=
  of_parse rfl rfl (.inl rfl) (mkT_top ..) (by rw [fMaj, mkT_m]; rfl)
    (by simp only [parse, fMaj, mkT_m, parse35, mkT_f, mkT_bb_8_2, mkT_a, BitVec.toNat_ofNat, Nat.reducePow, Nat.reduceMod])

theorem txl (t : BitVec 3) (a : Reg) : Statement (.txl t a) :=
  of_parse rfl rfl (.inl rfl) (mkT_top ..) (by rw [fMaj, mkT_m]; rfl)
    (by simp only [parse, fMaj, mkT_m, parse35, mkT_f, mkT_a, mkT_dd_16_3, BitVec.toNat_ofNat, Nat.reducePow, Nat.reduceMod])

theorem ringTicket (d : Reg) (n : BitVec 4) : Statement (.ringTicket d n) :=
  of_parse rfl rfl (.inl rfl) (mkT_top ..) (by rw [fMaj, mkT_m]; rfl)
    (by simp only [parse, fMaj, mkT_m, parse36, mkT_f, mkT_bb_4_4, mkT_d, BitVec.toNat_ofNat, Nat.reducePow, Nat.reduceMod])

theorem ringFill (a : Reg) (n : BitVec 4) : Statement (.ringFill a n) :=
  of_parse rfl rfl (.inl rfl) (mkT_top ..) (by rw [fMaj, mkT_m]; rfl)
    (by simp only [parse, fMaj, mkT_m, parse36, mkT_f, mkT_bb_4_4, mkT_a, BitVec.toNat_ofNat, Nat.reducePow, Nat.reduceMod])

theorem ringTake (d : Reg) (n : BitVec 4) : Statement (.ringTake d n) :=
  of_parse rfl rfl (.inl rfl) (mkT_top ..) (by rw [fMaj, mkT_m]; rfl)
    (by simp only [parse, fMaj, mkT_m, parse36, mkT_f, mkT_bb_4_4, mkT_d, BitVec.toNat_ofNat, Nat.reducePow, Nat.reduceMod])

theorem ringFree (n : BitVec 4) : Statement (.ringFree n) :=
  of_parse rfl rfl (.inl rfl) (mkT_top ..) (by rw [fMaj, mkT_m]; rfl)
    (by simp only [parse, fMaj, mkT_m, parse36, mkT_f, mkT_bb_4_4, BitVec.toNat_ofNat, Nat.reducePow, Nat.reduceMod])

theorem thset (r : Reg) (n : BitVec 6) (q : BitVec 1) (h : BitVec 4) : Statement (.thset r n q h) :=
  of_parse rfl rfl (.inl rfl) (mkT_top ..) (by rw [fMaj, mkT_m]; rfl)
    (by simp only [parse, fMaj, mkT_m, parse37, mkT_f, mkT_q_4_4, mkT_q, mkT_a, mkT_d, BitVec.toNat_ofNat, Nat.reducePow, Nat.reduceMod])

theorem thget (d : Reg) (n : BitVec 6) (q : BitVec 1) (h : BitVec 4) : Statement (.thget d n q h) :=
  of_parse rfl rfl (.inl rfl) (mkT_top ..) (by rw [fMaj, mkT_m]; rfl)
    (by simp only [parse, fMaj, mkT_m, parse37, mkT_f, mkT_q_4_4, mkT_q, mkT_a, mkT_d, BitVec.toNat_ofNat, Nat.reducePow, Nat.reduceMod])

theorem tld (a : Reg) (b : Reg) (h : BitVec 4) : Statement (.tld a b h) :=
  of_parse rfl rfl (.inl rfl) (mkT_top ..) (by rw [fMaj, mkT_m]; rfl)
    (by simp only [parse, fMaj, mkT_m, parse37, mkT_f, mkT_bb_4_4, mkT_a, mkT_d, BitVec.toNat_ofNat, Nat.reducePow, Nat.reduceMod])

theorem tst (a : Reg) (b : Reg) (h : BitVec 4) : Statement (.tst a b h) :=
  of_parse rfl rfl (.inl rfl) (mkT_top ..) (by rw [fMaj, mkT_m]; rfl)
    (by simp only [parse, fMaj, mkT_m, parse37, mkT_f, mkT_bb_4_4, mkT_a, mkT_d, BitVec.toNat_ofNat, Nat.reducePow, Nat.reduceMod])

theorem barArv (n : BitVec 4) : Statement (.barArv n) :=
  of_parse rfl rfl (.inl rfl) (mkT_top ..) (by rw [fMaj, mkT_m]; rfl)
    (by simp only [parse, fMaj, mkT_m, parse38, mkT_f, mkT_bb_4_4, BitVec.toNat_ofNat, Nat.reducePow, Nat.reduceMod])

theorem barWait (n : BitVec 4) : Statement (.barWait n) :=
  of_parse rfl rfl (.inl rfl) (mkT_top ..) (by rw [fMaj, mkT_m]; rfl)
    (by simp only [parse, fMaj, mkT_m, parse38, mkT_f, mkT_bb_4_4, BitVec.toNat_ofNat, Nat.reducePow, Nat.reduceMod])

theorem cueBar (n : BitVec 4) : Statement (.cueBar n) :=
  of_parse rfl rfl (.inl rfl) (mkT_top ..) (by rw [fMaj, mkT_m]; rfl)
    (by simp only [parse, fMaj, mkT_m, parse38, mkT_f, mkT_bb_4_4, BitVec.toNat_ofNat, Nat.reducePow, Nat.reduceMod])

theorem semadd (a : Reg) (k : BitVec 12) : Statement (.semadd a k) :=
  of_parse rfl rfl (.inl rfl) (mkK_top ..) (by rw [fMaj, mkK_m]; rfl)
    (by simp only [parse, fMaj, mkK_m, parse39, mkK_f, mkK_i, mkK_g, BitVec.toNat_ofNat, Nat.reducePow, Nat.reduceMod])

theorem semwait (a : Reg) (k : BitVec 12) : Statement (.semwait a k) :=
  of_parse rfl rfl (.inl rfl) (mkK_top ..) (by rw [fMaj, mkK_m]; rfl)
    (by simp only [parse, fMaj, mkK_m, parse39, mkK_f, mkK_i, mkK_g, BitVec.toNat_ofNat, Nat.reducePow, Nat.reduceMod])

theorem nestLaunch (a : Reg) : Statement (.nestLaunch a) :=
  of_parse rfl rfl (.inl rfl) (mkT_top ..) (by rw [fMaj, mkT_m]; rfl)
    (by simp only [parse, fMaj, mkT_m, parse3A, mkT_f, mkT_a, BitVec.toNat_ofNat, Nat.reducePow, Nat.reduceMod])

theorem nestBound (a : Reg) (b : Reg) : Statement (.nestBound a b) :=
  of_parse rfl rfl (.inl rfl) (mkT_top ..) (by rw [fMaj, mkT_m]; rfl)
    (by simp only [parse, fMaj, mkT_m, parse3A, mkT_f, mkT_b, mkT_a, BitVec.toNat_ofNat, Nat.reducePow, Nat.reduceMod])

theorem spawn (d : Reg) (a : Reg) (b : Reg) : Statement (.spawn d a b) :=
  of_parse rfl rfl (.inl rfl) (mkT_top ..) (by rw [fMaj, mkT_m]; rfl)
    (by simp only [parse, fMaj, mkT_m, parse3A, mkT_f, mkT_b, mkT_a, mkT_d, BitVec.toNat_ofNat, Nat.reducePow, Nat.reduceMod])

theorem bin (a : Reg) (b : Reg) : Statement (.bin a b) :=
  of_parse rfl rfl (.inl rfl) (mkT_top ..) (by rw [fMaj, mkT_m]; rfl)
    (by simp only [parse, fMaj, mkT_m, parse3A, mkT_f, mkT_b, mkT_a, BitVec.toNat_ofNat, Nat.reducePow, Nat.reduceMod])

theorem collPost (d : Reg) (a : Reg) : Statement (.collPost d a) :=
  of_parse rfl rfl (.inl rfl) (mkT_top ..) (by rw [fMaj, mkT_m]; rfl)
    (by simp only [parse, fMaj, mkT_m, parse3B, mkT_f, mkT_a, mkT_d, BitVec.toNat_ofNat, Nat.reducePow, Nat.reduceMod])

theorem collTest (d : Reg) (a : Reg) : Statement (.collTest d a) :=
  of_parse rfl rfl (.inl rfl) (mkT_top ..) (by rw [fMaj, mkT_m]; rfl)
    (by simp only [parse, fMaj, mkT_m, parse3B, mkT_f, mkT_a, mkT_d, BitVec.toNat_ofNat, Nat.reducePow, Nat.reduceMod])

theorem collLeave (a : Reg) : Statement (.collLeave a) :=
  of_parse rfl rfl (.inl rfl) (mkT_top ..) (by rw [fMaj, mkT_m]; rfl)
    (by simp only [parse, fMaj, mkT_m, parse3B, mkT_f, mkT_a, BitVec.toNat_ofNat, Nat.reducePow, Nat.reduceMod])

theorem mldw (d : Reg) : Statement (.mldw d) :=
  of_parse rfl rfl (.inl rfl) (mkT_top ..) (by rw [fMaj, mkT_m]; rfl)
    (by simp only [parse, fMaj, mkT_m, parse3C, mkT_f, mkT_d, BitVec.toNat_ofNat, Nat.reducePow, Nat.reduceMod])

theorem mldwH (d : Reg) : Statement (.mldwH d) :=
  of_parse rfl rfl (.inl rfl) (mkT_top ..) (by rw [fMaj, mkT_m]; rfl)
    (by simp only [parse, fMaj, mkT_m, parse3C, mkT_f, mkT_d, BitVec.toNat_ofNat, Nat.reducePow, Nat.reduceMod])

theorem mmao (d : Reg) (a : Reg) (b : Reg) : Statement (.mmao d a b) :=
  of_parse rfl rfl (.inl rfl) (mkT_top ..) (by rw [fMaj, mkT_m]; rfl)
    (by simp only [parse, fMaj, mkT_m, parse3C, mkT_f, mkT_b, mkT_a, mkT_d, BitVec.toNat_ofNat, Nat.reducePow, Nat.reduceMod])

theorem mmaoH (d : Reg) (a : Reg) (b : Reg) : Statement (.mmaoH d a b) :=
  of_parse rfl rfl (.inl rfl) (mkT_top ..) (by rw [fMaj, mkT_m]; rfl)
    (by simp only [parse, fMaj, mkT_m, parse3C, mkT_f, mkT_b, mkT_a, mkT_d, BitVec.toNat_ofNat, Nat.reducePow, Nat.reduceMod])

theorem mmaw (d : Reg) (a : Reg) (b : Reg) : Statement (.mmaw d a b) :=
  of_parse rfl rfl (.inl rfl) (mkT_top ..) (by rw [fMaj, mkT_m]; rfl)
    (by simp only [parse, fMaj, mkT_m, parse3C, mkT_f, mkT_b, mkT_a, mkT_d, BitVec.toNat_ofNat, Nat.reducePow, Nat.reduceMod])

theorem mmawH (d : Reg) (a : Reg) (b : Reg) : Statement (.mmawH d a b) :=
  of_parse rfl rfl (.inl rfl) (mkT_top ..) (by rw [fMaj, mkT_m]; rfl)
    (by simp only [parse, fMaj, mkT_m, parse3C, mkT_f, mkT_b, mkT_a, mkT_d, BitVec.toNat_ofNat, Nat.reducePow, Nat.reduceMod])

theorem msho (d : Reg) : Statement (.msho d) :=
  of_parse rfl rfl (.inl rfl) (mkT_top ..) (by rw [fMaj, mkT_m]; rfl)
    (by simp only [parse, fMaj, mkT_m, parse3C, mkT_f, mkT_d, BitVec.toNat_ofNat, Nat.reducePow, Nat.reduceMod])

theorem macq (d : Reg) (a : Reg) : Statement (.macq d a) :=
  of_parse rfl rfl (.inl rfl) (mkT_top ..) (by rw [fMaj, mkT_m]; rfl)
    (by simp only [parse, fMaj, mkT_m, parse3D, mkT_f, mkT_a, mkT_d, BitVec.toNat_ofNat, Nat.reducePow, Nat.reduceMod])

theorem mrel (d : Reg) : Statement (.mrel d) :=
  of_parse rfl rfl (.inl rfl) (mkT_top ..) (by rw [fMaj, mkT_m]; rfl)
    (by simp only [parse, fMaj, mkT_m, parse3D, mkT_f, mkT_d, BitVec.toNat_ofNat, Nat.reducePow, Nat.reduceMod])

theorem mfuse (d : Reg) : Statement (.mfuse d) :=
  of_parse rfl rfl (.inl rfl) (mkT_top ..) (by rw [fMaj, mkT_m]; rfl)
    (by simp only [parse, fMaj, mkT_m, parse3D, mkT_f, mkT_d, BitVec.toNat_ofNat, Nat.reducePow, Nat.reduceMod])

theorem gcfg (d : Reg) : Statement (.gcfg d) :=
  of_parse rfl rfl (.inl rfl) (mkT_top ..) (by rw [fMaj, mkT_m]; rfl)
    (by simp only [parse, fMaj, mkT_m, parse3D, mkT_f, mkT_d, BitVec.toNat_ofNat, Nat.reducePow, Nat.reduceMod])

theorem lscan (d : Reg) (a : Reg) (b : Reg) : Statement (.lscan d a b) :=
  of_parse rfl rfl (.inl rfl) (mkT_top ..) (by rw [fMaj, mkT_m]; rfl)
    (by simp only [parse, fMaj, mkT_m, parse3D, mkT_f, mkT_b, mkT_a, mkT_d, BitVec.toNat_ofNat, Nat.reducePow, Nat.reduceMod])

theorem mstatSt (d : Reg) : Statement (.mstatSt d) :=
  of_parse rfl rfl (.inl rfl) (mkT_top ..) (by rw [fMaj, mkT_m]; rfl)
    (by simp only [parse, fMaj, mkT_m, parse3D, mkT_f, mkT_a, mkT_d, BitVec.toNat_ofNat, Nat.reducePow, Nat.reduceMod])

theorem mstatClr (d : Reg) : Statement (.mstatClr d) :=
  of_parse rfl rfl (.inl rfl) (mkT_top ..) (by rw [fMaj, mkT_m]; rfl)
    (by simp only [parse, fMaj, mkT_m, parse3D, mkT_f, mkT_a, mkT_d, BitVec.toNat_ofNat, Nat.reducePow, Nat.reduceMod])

theorem mstatSetfmt (d : Reg) : Statement (.mstatSetfmt d) :=
  of_parse rfl rfl (.inl rfl) (mkT_top ..) (by rw [fMaj, mkT_m]; rfl)
    (by simp only [parse, fMaj, mkT_m, parse3D, mkT_f, mkT_a, mkT_d, BitVec.toNat_ofNat, Nat.reducePow, Nat.reduceMod])

theorem mstatGetfmt (d : Reg) : Statement (.mstatGetfmt d) :=
  of_parse rfl rfl (.inl rfl) (mkT_top ..) (by rw [fMaj, mkT_m]; rfl)
    (by simp only [parse, fMaj, mkT_m, parse3D, mkT_f, mkT_a, mkT_d, BitVec.toNat_ofNat, Nat.reducePow, Nat.reduceMod])

theorem mstatState (d : Reg) : Statement (.mstatState d) :=
  of_parse rfl rfl (.inl rfl) (mkT_top ..) (by rw [fMaj, mkT_m]; rfl)
    (by simp only [parse, fMaj, mkT_m, parse3D, mkT_f, mkT_a, mkT_d, BitVec.toNat_ofNat, Nat.reducePow, Nat.reduceMod])

theorem cbSubmit (a : Reg) (b : Reg) : Statement (.cbSubmit a b) :=
  of_parse rfl rfl (.inl rfl) (mkT_top ..) (by rw [fMaj, mkT_m]; rfl)
    (by simp only [parse, fMaj, mkT_m, parse3E, mkT_f, mkT_b, mkT_a, BitVec.toNat_ofNat, Nat.reducePow, Nat.reduceMod])

theorem cbSemwait (a : Reg) (k : BitVec 12) : Statement (.cbSemwait a k) :=
  of_parse rfl rfl (.inl rfl) (mkK_top ..) (by rw [fMaj, mkK_m]; rfl)
    (by simp only [parse, fMaj, mkK_m, parse3E, mkK_f, mkK_i, mkK_g, BitVec.toNat_ofNat, Nat.reducePow, Nat.reduceMod])

theorem cbSemadd (a : Reg) (k : BitVec 12) : Statement (.cbSemadd a k) :=
  of_parse rfl rfl (.inl rfl) (mkK_top ..) (by rw [fMaj, mkK_m]; rfl)
    (by simp only [parse, fMaj, mkK_m, parse3E, mkK_f, mkK_i, mkK_g, BitVec.toNat_ofNat, Nat.reducePow, Nat.reduceMod])

theorem cbIrq (v : BitVec 12) : Statement (.cbIrq v) :=
  of_parse rfl rfl (.inl rfl) (mkK_top ..) (by rw [fMaj, mkK_m]; rfl)
    (by simp only [parse, fMaj, mkK_m, parse3E, mkK_f, mkK_i, BitVec.toNat_ofNat, Nat.reducePow, Nat.reduceMod])

theorem trap (k : BitVec 12) : Statement (.trap k) :=
  of_parse rfl rfl (.inl rfl) (mkK_top ..) (by rw [fMaj, mkK_m]; rfl)
    (by simp only [parse, fMaj, mkK_m, parse3F, mkK_f, mkK_i, BitVec.toNat_ofNat, Nat.reducePow, Nat.reduceMod])

theorem csrr (d : Reg) (n : BitVec 12) : Statement (.csrr d n) :=
  of_parse rfl rfl (.inl rfl) (mkK_top ..) (by rw [fMaj, mkK_m]; rfl)
    (by simp only [parse, fMaj, mkK_m, parse3F, mkK_f, mkK_i, mkK_g, BitVec.toNat_ofNat, Nat.reducePow, Nat.reduceMod])

theorem csrw (a : Reg) (n : BitVec 12) : Statement (.csrw a n) :=
  of_parse rfl rfl (.inl rfl) (mkK_top ..) (by rw [fMaj, mkK_m]; rfl)
    (by simp only [parse, fMaj, mkK_m, parse3F, mkK_f, mkK_i, mkK_g, BitVec.toNat_ofNat, Nat.reducePow, Nat.reduceMod])

theorem hmsgRead (d : Reg) : Statement (.hmsgRead d) := of_none rfl

theorem tlbinv (a : Reg) : Statement (.tlbinv a) :=
  of_parse rfl rfl (.inl rfl) (mkT_top ..) (by rw [fMaj, mkT_m]; rfl)
    (by simp only [parse, fMaj, mkT_m, parse3F, mkT_f, mkT_b, mkT_a, BitVec.toNat_ofNat, Nat.reducePow, Nat.reduceMod])

theorem tlbinvS2 (a : Reg) : Statement (.tlbinvS2 a) :=
  of_parse rfl rfl (.inl rfl) (mkT_top ..) (by rw [fMaj, mkT_m]; rfl)
    (by simp only [parse, fMaj, mkT_m, parse3F, mkT_f, mkT_b, mkT_a, BitVec.toNat_ofNat, Nat.reducePow, Nat.reduceMod])

theorem mappg (d : Reg) (a : Reg) (b : Reg) : Statement (.mappg d a b) :=
  of_parse rfl rfl (.inl rfl) (mkT_top ..) (by rw [fMaj, mkT_m]; rfl)
    (by simp only [parse, fMaj, mkT_m, parse3F, mkT_f, mkT_b, mkT_a, mkT_d, BitVec.toNat_ofNat, Nat.reducePow, Nat.reduceMod])

theorem mdef (a : Reg) (b : Reg) : Statement (.mdef a b) :=
  of_parse rfl rfl (.inl rfl) (mkT_top ..) (by rw [fMaj, mkT_m]; rfl)
    (by simp only [parse, fMaj, mkT_m, parse3F, mkT_f, mkT_b, mkT_a, BitVec.toNat_ofNat, Nat.reducePow, Nat.reduceMod])

theorem time (d : Reg) : Statement (.time d) :=
  of_parse rfl rfl (.inl rfl) (mkT_top ..) (by rw [fMaj, mkT_m]; rfl)
    (by simp only [parse, fMaj, mkT_m, parse3F, mkT_f, mkT_d, BitVec.toNat_ofNat, Nat.reducePow, Nat.reduceMod])

theorem perfr (d : Reg) (a : Reg) : Statement (.perfr d a) :=
  of_parse rfl rfl (.inl rfl) (mkT_top ..) (by rw [fMaj, mkT_m]; rfl)
    (by simp only [parse, fMaj, mkT_m, parse3F, mkT_f, mkT_a, mkT_d, BitVec.toNat_ofNat, Nat.reducePow, Nat.reduceMod])

theorem frec (d : Reg) (a : Reg) (b : Reg) : Statement (.frec d a b) :=
  of_parse rfl rfl (.inl rfl) (mkT_top ..) (by rw [fMaj, mkT_m]; rfl)
    (by simp only [parse, fMaj, mkT_m, parse3F, mkT_f, mkT_b, mkT_a, mkT_d, BitVec.toNat_ofNat, Nat.reducePow, Nat.reduceMod])

theorem unpark (a : Reg) : Statement (.unpark a) :=
  of_parse rfl rfl (.inl rfl) (mkT_top ..) (by rw [fMaj, mkT_m]; rfl)
    (by simp only [parse, fMaj, mkT_m, parse3F, mkT_f, mkT_a, BitVec.toNat_ofNat, Nat.reducePow, Nat.reduceMod])

theorem smsg (a : Reg) (b : Reg) : Statement (.smsg a b) :=
  of_parse rfl rfl (.inl rfl) (mkT_top ..) (by rw [fMaj, mkT_m]; rfl)
    (by simp only [parse, fMaj, mkT_m, parse3F, mkT_f, mkT_b, mkT_a, BitVec.toNat_ofNat, Nat.reducePow, Nat.reduceMod])

theorem pool (n : BitVec 18) : Statement (.pool n) :=
  of_parse rfl rfl (.inl rfl) (mkP_top ..) (by rw [fMaj, mkP_m]; rfl)
    (by simp only [parse, fMaj, mkP_m, parse3F, mkP_f, mkP_n, BitVec.toNat_ofNat, Nat.reducePow, Nat.reduceMod])

theorem tcopyIn (h : BitVec 4) (b : BitVec 5) (a : BitVec 5) : Statement (.tcopyIn h b a) :=
  of_parseX rfl rfl (by rw [mkR_op2]; rfl)
    (by simp [parseX, mkR_op, mkR_f3, mkR_a, mkR_b, mkR_25_4])

theorem tcopyOut (h : BitVec 4) (b : BitVec 5) (a : BitVec 5) : Statement (.tcopyOut h b a) :=
  of_parseX rfl rfl (by rw [mkR_op2]; rfl)
    (by simp [parseX, mkR_op, mkR_f3, mkR_a, mkR_b, mkR_25_4])

theorem xhSet (k : BitVec 3) (h : BitVec 4) (b : BitVec 5) (a : BitVec 5) : Statement (.xhSet k h b a) :=
  of_parseX rfl rfl (by rw [mkR_op2]; rfl)
    (by simp [parseX, mkR_op, mkR_f3, mkR_a, mkR_b, mkR_25_4, mkR_29_3])

theorem xwait (a : BitVec 5) : Statement (.xwait a) :=
  of_parseX rfl rfl (by rw [mkR_op2]; rfl)
    (by simp [parseX, mkR_op, mkR_f3, mkR_a])

theorem xfence (e : BitVec 2) : Statement (.xfence e) :=
  of_parseX rfl rfl (by rw [mkR_op2]; rfl)
    (by simp [parseX, mkR_op, mkR_f3, mkR_25_2])

theorem xbin (b : BitVec 5) (a : BitVec 5) : Statement (.xbin b a) :=
  of_parseX rfl rfl (by rw [mkR_op2]; rfl)
    (by simp [parseX, mkR_op, mkR_f3, mkR_a, mkR_b])

theorem xsemAdd (b : BitVec 5) (a : BitVec 5) : Statement (.xsemAdd b a) :=
  of_parseX rfl rfl (by rw [mkR_op2]; rfl)
    (by simp [parseX, mkR_op, mkR_f3, mkR_a, mkR_b, mkR_25_1])

theorem xsemWait (b : BitVec 5) (a : BitVec 5) : Statement (.xsemWait b a) :=
  of_parseX rfl rfl (by rw [mkR_op2]; rfl)
    (by simp [parseX, mkR_op, mkR_f3, mkR_a, mkR_b, mkR_25_1])

theorem rngTkt (n : BitVec 4) (d : BitVec 5) : Statement (.rngTkt n d) :=
  of_parseX rfl rfl (by rw [mkR_op2]; rfl)
    (by simp [parseX, mkR_op, mkR_f3, mkR_d, mkR_25_4])

theorem rngPut (n : BitVec 4) (a : BitVec 5) : Statement (.rngPut n a) :=
  of_parseX rfl rfl (by rw [mkR_op2]; rfl)
    (by simp [parseX, mkR_op, mkR_f3, mkR_a, mkR_25_4])

theorem rngGet (n : BitVec 4) (d : BitVec 5) : Statement (.rngGet n d) :=
  of_parseX rfl rfl (by rw [mkR_op2]; rfl)
    (by simp [parseX, mkR_op, mkR_f3, mkR_d, mkR_25_4])

theorem rngRel (n : BitVec 4) : Statement (.rngRel n) :=
  of_parseX rfl rfl (by rw [mkR_op2]; rfl)
    (by simp [parseX, mkR_op, mkR_f3, mkR_25_4])

theorem stagehandInstruction (i : Rv) (compressed : Bool) : Statement (.stagehandInstruction i compressed) := of_none rfl

theorem reservedEncodingWord (w : Word) : Statement (.reservedEncodingWord w) := of_none rfl

theorem nop : Statement (.nop) :=
  of_parse rfl rfl (.inl rfl) (mkK_top ..) (by rw [fMaj, mkK_m]; rfl)
    (by simp only [parse, fMaj, mkK_m, parse00, mkK_f, BitVec.toNat_ofNat, Nat.reducePow, Nat.reduceMod])

theorem exit : Statement (.exit) :=
  of_parse rfl rfl (.inl rfl) (mkT_top ..) (by rw [fMaj, mkT_m]; rfl)
    (by simp only [parse, fMaj, mkT_m, parse13, mkT_f, BitVec.toNat_ofNat, Nat.reducePow, Nat.reduceMod])

theorem join : Statement (.join) :=
  of_parse rfl rfl (.inl rfl) (mkT_top ..) (by rw [fMaj, mkT_m]; rfl)
    (by simp only [parse, fMaj, mkT_m, parse13, mkT_f, BitVec.toNat_ofNat, Nat.reducePow, Nat.reduceMod])

theorem yield : Statement (.yield) :=
  of_parse rfl rfl (.inl rfl) (mkT_top ..) (by rw [fMaj, mkT_m]; rfl)
    (by simp only [parse, fMaj, mkT_m, parse13, mkT_f, BitVec.toNat_ofNat, Nat.reducePow, Nat.reduceMod])

theorem sceneCommitComplete : Statement (.sceneCommitComplete) := of_none rfl

theorem mflip : Statement (.mflip) :=
  of_parse rfl rfl (.inl rfl) (mkT_top ..) (by rw [fMaj, mkT_m]; rfl)
    (by simp only [parse, fMaj, mkT_m, parse3C, mkT_f, BitVec.toNat_ofNat, Nat.reducePow, Nat.reduceMod])

theorem mzero : Statement (.mzero) :=
  of_parse rfl rfl (.inl rfl) (mkT_top ..) (by rw [fMaj, mkT_m]; rfl)
    (by simp only [parse, fMaj, mkT_m, parse3D, mkT_f, BitVec.toNat_ofNat, Nat.reducePow, Nat.reduceMod])

theorem matrixWordComplete : Statement (.matrixWordComplete) := of_none rfl

theorem handleFetchComplete : Statement (.handleFetchComplete) := of_none rfl

theorem eret : Statement (.eret) :=
  of_parse rfl rfl (.inl rfl) (mkT_top ..) (by rw [fMaj, mkT_m]; rfl)
    (by simp only [parse, fMaj, mkT_m, parse3F, mkT_f, BitVec.toNat_ofNat, Nat.reducePow, Nat.reduceMod])

theorem tlbinvAll : Statement (.tlbinvAll) :=
  of_parse rfl rfl (.inl rfl) (mkT_top ..) (by rw [fMaj, mkT_m]; rfl)
    (by simp only [parse, fMaj, mkT_m, parse3F, mkT_f, mkT_b, BitVec.toNat_ofNat, Nat.reducePow, Nat.reduceMod])

theorem tlbinvS2All : Statement (.tlbinvS2All) :=
  of_parse rfl rfl (.inl rfl) (mkT_top ..) (by rw [fMaj, mkT_m]; rfl)
    (by simp only [parse, fMaj, mkT_m, parse3F, mkT_f, mkT_b, BitVec.toNat_ofNat, Nat.reducePow, Nat.reduceMod])

theorem smsgDeliver : Statement (.smsgDeliver) := of_none rfl

theorem halt : Statement (.halt) :=
  of_parse rfl rfl (.inl rfl) (mkT_top ..) (by rw [fMaj, mkT_m]; rfl)
    (by simp only [parse, fMaj, mkT_m, parse3F, mkT_f, BitVec.toNat_ofNat, Nat.reducePow, Nat.reduceMod])

theorem xexit : Statement (.xexit) :=
  of_parseX rfl rfl (by rw [mkR_op2]; rfl)
    (by simp [parseX, mkR_op, mkR_f3])

theorem stagehandTranslationFault : Statement (.stagehandTranslationFault) := of_none rfl

theorem usherWindowClose : Statement (.usherWindowClose) := of_none rfl

theorem coalesceEntryAgeDrain : Statement (.coalesceEntryAgeDrain) := of_none rfl

theorem farLoadReturn : Statement (.farLoadReturn) := of_none rfl

theorem farStorePerform : Statement (.farStorePerform) := of_none rfl

theorem atomResultReturn : Statement (.atomResultReturn) := of_none rfl

theorem remoteAtomsReturn : Statement (.remoteAtomsReturn) := of_none rfl

theorem tileCopyComplete : Statement (.tileCopyComplete) := of_none rfl

theorem translationWalkComplete : Statement (.translationWalkComplete) := of_none rfl

theorem farAccessFault : Statement (.farAccessFault) := of_none rfl

theorem heldWriteRetranslate : Statement (.heldWriteRetranslate) := of_none rfl

theorem queueEnable : Statement (.queueEnable) := of_none rfl

theorem queueDisable : Statement (.queueDisable) := of_none rfl

theorem qcfgConfigure : Statement (.qcfgConfigure) := of_none rfl

theorem qtailWrite : Statement (.qtailWrite) := of_none rfl

theorem entryAccept : Statement (.entryAccept) := of_none rfl

theorem qcackWrite : Statement (.qcackWrite) := of_none rfl

theorem completionWrite : Statement (.completionWrite) := of_none rfl

theorem contextDispatch : Statement (.contextDispatch) := of_none rfl

theorem contextPriorityAging : Statement (.contextPriorityAging) := of_none rfl

theorem semaphoreHostWrite : Statement (.semaphoreHostWrite) := of_none rfl

theorem registerWrite : Statement (.registerWrite) := of_none rfl

theorem fllostClear : Statement (.fllostClear) := of_none rfl

theorem fpstatClearDrops : Statement (.fpstatClearDrops) := of_none rfl

theorem cpostWrite : Statement (.cpostWrite) := of_none rfl

theorem flashErase : Statement (.flashErase) := of_none rfl

theorem flashProgram : Statement (.flashProgram) := of_none rfl

theorem flashVerify : Statement (.flashVerify) := of_none rfl

theorem flashResetModule : Statement (.flashResetModule) := of_none rfl

theorem enterRecovery : Statement (.enterRecovery) := of_none rfl

theorem flashCommandComplete : Statement (.flashCommandComplete) := of_none rfl

theorem functionLevelReset : Statement (.functionLevelReset) := of_none rfl

theorem busMasterEnable : Statement (.busMasterEnable) := of_none rfl

theorem moduleReset : Statement (.moduleReset) := of_none rfl

theorem prosceniumTimeout : Statement (.prosceniumTimeout) := of_none rfl

theorem getVersion : Statement (.getVersion) := of_none rfl

theorem getCapabilities : Statement (.getCapabilities) := of_none rfl

theorem negotiateAlgorithms : Statement (.negotiateAlgorithms) := of_none rfl

theorem getDigests : Statement (.getDigests) := of_none rfl

theorem getCertificate : Statement (.getCertificate) := of_none rfl

theorem challenge : Statement (.challenge) := of_none rfl

theorem getMeasurements : Statement (.getMeasurements) := of_none rfl

theorem keyExchange : Statement (.keyExchange) := of_none rfl

theorem finish : Statement (.finish) := of_none rfl

theorem endSession : Statement (.endSession) := of_none rfl

theorem tenantLoad : Statement (.tenantLoad) := of_none rfl

theorem partitionAddQuadrant : Statement (.partitionAddQuadrant) := of_none rfl

theorem sealRequest : Statement (.sealRequest) := of_none rfl

theorem restoreImage : Statement (.restoreImage) := of_none rfl

theorem authorityTimeout : Statement (.authorityTimeout) := of_none rfl

theorem flitResend : Statement (.flitResend) := of_none rfl

theorem dataFlit : Statement (.dataFlit) := of_none rfl

theorem ticketFlit : Statement (.ticketFlit) := of_none rfl

theorem horizonFlit : Statement (.horizonFlit) := of_none rfl

theorem ackFlit : Statement (.ackFlit) := of_none rfl

theorem counterAuthorityFlit : Statement (.counterAuthorityFlit) := of_none rfl

theorem managementFlit : Statement (.managementFlit) := of_none rfl

theorem reservedTypeFlit : Statement (.reservedTypeFlit) := of_none rfl

theorem linkUp : Statement (.linkUp) := of_none rfl

theorem linkDown : Statement (.linkDown) := of_none rfl

theorem routeSwitchover : Statement (.routeSwitchover) := of_none rfl

theorem routeRetire : Statement (.routeRetire) := of_none rfl

theorem remapTimeout : Statement (.remapTimeout) := of_none rfl

theorem forceRouteRetire : Statement (.forceRouteRetire) := of_none rfl

theorem collectiveStart : Statement (.collectiveStart) := of_none rfl

theorem collectiveComplete : Statement (.collectiveComplete) := of_none rfl

theorem collectiveAbort : Statement (.collectiveAbort) := of_none rfl

theorem collectiveTimeout : Statement (.collectiveTimeout) := of_none rfl

theorem homeSwitchTimeout : Statement (.homeSwitchTimeout) := of_none rfl

theorem nestSlotEntry : Statement (.nestSlotEntry) := of_none rfl

theorem rowActivate : Statement (.rowActivate) := of_none rfl

theorem pointRelease : Statement (.pointRelease) := of_none rfl

theorem stagehandStart : Statement (.stagehandStart) := of_none rfl

theorem pointRetire : Statement (.pointRetire) := of_none rfl

theorem nestStopSlotFree : Statement (.nestStopSlotFree) := of_none rfl

theorem preemptRequest : Statement (.preemptRequest) := of_none rfl

theorem saveComplete : Statement (.saveComplete) := of_none rfl

theorem saveWriteFault : Statement (.saveWriteFault) := of_none rfl

theorem saveRetry : Statement (.saveRetry) := of_none rfl

theorem drainTimeout : Statement (.drainTimeout) := of_none rfl

theorem restorePoint : Statement (.restorePoint) := of_none rfl

theorem budgetTick : Statement (.budgetTick) := of_none rfl

theorem watchdogExpire : Statement (.watchdogExpire) := of_none rfl

theorem sensorRefresh : Statement (.sensorRefresh) := of_none rfl

theorem powerDidtSkip : Statement (.powerDidtSkip) := of_none rfl

theorem clockStopOvertemp : Statement (.clockStopOvertemp) := of_none rfl

theorem clockRestart : Statement (.clockRestart) := of_none rfl

theorem droopSkipEnd : Statement (.droopSkipEnd) := of_none rfl

theorem copyStart : Statement (.copyStart) := of_none rfl

theorem copyComplete : Statement (.copyComplete) := of_none rfl

theorem copyFault : Statement (.copyFault) := of_none rfl

theorem correctableError : Statement (.correctableError) := of_none rfl

theorem uncorrectableError : Statement (.uncorrectableError) := of_none rfl

theorem binAdditionPerformed : Statement (.binAdditionPerformed) := of_none rfl

theorem semaphoreAddAcknowledge : Statement (.semaphoreAddAcknowledge) := of_none rfl

theorem recordPresented : Statement (.recordPresented) := of_none rfl

theorem mappgComplete : Statement (.mappgComplete) := of_none rfl

theorem mdefComplete : Statement (.mdefComplete) := of_none rfl

theorem pageMoveStart : Statement (.pageMoveStart) := of_none rfl

theorem partitionFaultClear : Statement (.partitionFaultClear) := of_none rfl

theorem stage2CannotRepair : Statement (.stage2CannotRepair) := of_none rfl

theorem sliceStart : Statement (.sliceStart) := of_none rfl

theorem expanderAddedOrRemoved : Statement (.expanderAddedOrRemoved) := of_none rfl

theorem referenceClockLoss : Statement (.referenceClockLoss) := of_none rfl

end Sys2Proof.Laws.RoundTrip
end

