-- ==== Sys2Proof/Laws/Scalar.lean ====
section
/-! SUPPORT. What the forms of the scalar words can do, said once for each. -/

namespace Sys2Proof.Machine

variable {s : State} {c : Ctx} {j : Instr} {d a b : Reg}

/-- A word that acts on its unit's registers alone gives a scalar result when what it leaves is one. -/
theorem State.givesScalar_of {lat : Nat} {x : Dword} {k : Bool} (h : s.issuing c) {f : Issue → Ctx → Ctx}
    (he : exec j s = s.onCur f) (hr : c.ScalarResult (f s.issue c) s.issue lat d x k) : s.givesScalar c j lat d x k :=
  ⟨_, he.trans (State.onCur_next h f), hr⟩

/-- A word of two sources. -/
theorem scalar2_gives (h : s.issuing c) {f : Dword → Dword → Dword} (he : exec j s = scalar2 f d a b s) :
    s.givesScalar c j 1 d (f (c.rdS s.issue a) (c.rdS s.issue b)) (s.here c).cf :=
  State.givesScalar_of h he (Ctx.wrS_result ..)

/-- A word of one source. -/
theorem scalar1_gives (h : s.issuing c) {f : Dword → Dword} (he : exec j s = scalar1 f d a s) :
    s.givesScalar c j 1 d (f (c.rdS s.issue a)) (s.here c).cf :=
  State.givesScalar_of h he (Ctx.wrS_result ..)

/-- A word that reads and writes cf. -/
theorem scalarCf_gives (h : s.issuing c) {f : Dword → Dword → Bool → Dword} {g : Dword → Dword → Bool → Bool}
    (he : exec j s = scalarCf f g d a b s) :
    s.givesScalar c j 1 d (f (c.rdS s.issue a) (c.rdS s.issue b) (s.here c).cf)
      (g (c.rdS s.issue a) (c.rdS s.issue b) (s.here c).cf) :=
  State.givesScalar_of h he (Ctx.putCf_result (Ctx.wrS_result ..) _)

/-- The same with an immediate. -/
theorem scalarCfImm_gives (h : s.issuing c) {f : Dword → Dword → Bool → Dword} {g : Dword → Dword → Bool → Bool} {y : Dword}
    (he : exec j s = scalarCfImm f g d a y s) :
    s.givesScalar c j 1 d (f (c.rdS s.issue a) y (s.here c).cf) (g (c.rdS s.issue a) y (s.here c).cf) :=
  State.givesScalar_of h he (Ctx.putCf_result (Ctx.wrS_result ..) _)

end Sys2Proof.Machine
end

