-- ==== Sys2Proof/Laws/Secure.lean ====
section
/-! SUPPORT. What the cryptographic functions and the headers of images can do: lengths, reading back, opening what was sealed. -/

namespace Sys2Proof.Machine

/-! ### Lengths -/

@[simp] theorem leBytes_length (n x : Nat) : (leBytes n x).length = n := by
  induction n generalizing x with
  | zero => rfl
  | succ n ih => simp [leBytes, ih]

theorem leNat_leBytes (n x : Nat) (h : x < 256 ^ n) : leNat (leBytes n x) = x := by
  induction n generalizing x with
  | zero => simp at h; simp [leBytes, leNat, h]
  | succ n ih =>
    have : x / 256 < 256 ^ n := by rw [Nat.div_lt_iff_lt_mul (by decide)]; rwa [Nat.pow_succ] at h
    simp only [leBytes, leNat, ih _ this, BitVec.toNat_ofNat]
    omega

@[simp] theorem beBytes_length (n x : Nat) : (beBytes n x).length = n := by simp [beBytes]

@[simp] theorem fit_length (n : Nat) (bs : List Byte) : (fit n bs).length = n := by simp [fit]

theorem fit_eq (n : Nat) (bs : List Byte) (h : bs.length = n) : fit n bs = bs := by subst h; simp [fit]

@[simp] theorem sha384_length (m : List Byte) : (sha384 m).length = 48 := by unfold sha384; exact fit_length _ _

@[simp] theorem hkdf_length (salt ikm info : List Byte) (n : Nat) : (hkdf salt ikm info n).length = n := by unfold hkdf; exact fit_length _ _

@[simp] theorem pointBytes_length (p : Option (Nat × Nat)) : (pointBytes p).length = 96 := by cases p <;> simp [pointBytes]

@[simp] theorem p384Public_length (d : Nat) : (p384Public d).length = 96 := by unfold p384Public; exact pointBytes_length _

@[simp] theorem ecdsaSign_length (d k : Nat) (m : List Byte) : (ecdsaSign d k m).length = 96 := by unfold ecdsaSign; simp

@[simp] theorem gcmTag_length (ws : List (List Byte)) (n a c : List Byte) : (gcmTag ws n a c).length = 16 := by simp [gcmTag]

@[simp] theorem gcmSeal_tag_length (k n a p : List Byte) : (gcmSeal k n a p).2.length = 16 := by unfold gcmSeal; exact gcmTag_length _ _ _ _

/-! ### Opening what was sealed (R325, R327) -/

@[simp] theorem xorBytes_length (a b : List Byte) : (xorBytes a b).length = min a.length b.length := by simp [xorBytes]

/-- A list covered by a longer one gets itself back from two exclusive ors. -/
theorem xorBytes_twice (a b : List Byte) (h : a.length ≤ b.length) : xorBytes (xorBytes a b) b = a := by
  induction a generalizing b with
  | nil => rfl
  | cons x xs ih =>
    cases b with
    | nil => simp at h
    | cons y ys =>
      have := ih ys (by simpa using h)
      simp only [xorBytes, List.zipWith_cons_cons] at this ⊢
      rw [this, BitVec.xor_assoc, BitVec.xor_self, BitVec.xor_zero]

/-- A key schedule that reaches back eight words of four bytes. -/
def AesWords (ws : List (List Byte)) : Prop := 8 ≤ ws.length ∧ ∀ w ∈ ws, w.length = 4

theorem pieces_length (n : Nat) (hn : 0 < n) (k : Nat) (bs : List Byte) (h : bs.length = n * k) :
    (pieces n k bs).length = k ∧ ∀ w ∈ pieces n k bs, w.length = n := by
  induction k generalizing bs with
  | zero => simp [pieces]
  | succ k ih =>
    have hb : bs ≠ [] := by rintro rfl; simp at h; omega
    have hl : n ≤ bs.length := by rw [h]; exact Nat.le_mul_of_pos_right n (by omega)
    obtain ⟨h1, h2⟩ := ih (bs.drop n) (by rw [List.length_drop, h, Nat.mul_succ]; omega)
    refine ⟨by simp [pieces, hb, h1], ?_⟩
    simp only [pieces, hb, if_false, List.mem_cons]
    rintro w (rfl | hw)
    · simp [hl]
    · exact h2 w hw

theorem aesNext_words (ws : List (List Byte)) (n : Nat) (h : AesWords ws) : AesWords (aesNext ws n) := by
  have hg : (ws.getD 7 []).length = 4 := by
    have : 7 < ws.length := by have := h.1; omega
    rw [List.getD_eq_getElem _ _ this]; exact h.2 _ (List.getElem_mem this)
  have ht : (ws.headD []).length = 4 := by
    cases ws with
    | nil => simp [AesWords] at h
    | cons a as => exact h.2 a (by simp)
  have h1 : (aesTemp (n + 8) (ws.headD [])).length = 4 := by
    generalize ws.headD [] = t at ht
    unfold aesTemp
    split
    · simp [ht]
    · split
      · simp [ht]
      · exact ht
  refine ⟨by have := h.1; simp [aesNext]; omega, ?_⟩
  rintro w hw
  rcases List.mem_cons.1 hw with rfl | hw
  · rw [xorBytes_length, hg, h1]; rfl
  · exact h.2 w hw

theorem aesSchedule_words (key : List Byte) : AesWords (aesSchedule key) ∧ (aesSchedule key).length = 60 := by
  obtain ⟨h1, h2⟩ := pieces_length 4 (by decide) 8 (fit 32 key) (by simp)
  have main : ∀ (l : List Nat) (ws : List (List Byte)), AesWords ws → AesWords (l.foldl aesNext ws) ∧ (l.foldl aesNext ws).length = ws.length + l.length := by
    intro l
    induction l with
    | nil => intro ws h; exact ⟨h, rfl⟩
    | cons n l ih =>
      intro ws h
      have := ih _ (aesNext_words ws n h)
      refine ⟨this.1, ?_⟩
      rw [List.foldl_cons, this.2]; simp [aesNext]; omega
  have := main (List.range 52) (pieces 4 8 (fit 32 key)).reverse ⟨by simp [h1], by intro w hw; exact h2 w (by simpa using hw)⟩
  exact ⟨this.1, by simpa [aesSchedule, h1] using this.2⟩

/-- The last round key is sixteen bytes, and so is a block. -/
theorem aesBlock_length (key b : List Byte) : (aesBlock (aesSchedule key).reverse b).length = 16 := by
  obtain ⟨⟨_, h4⟩, h60⟩ := aesSchedule_words key
  have hk : ((((aesSchedule key).reverse.drop (4 * 14)).take 4).flatten).length = 16 := by
    have h1 : (((aesSchedule key).reverse.drop (4 * 14)).take 4).length = 4 := by simp [h60]
    have h2 : ∀ w ∈ ((aesSchedule key).reverse.drop (4 * 14)).take 4, w.length = 4 := fun w hw =>
      h4 w (by simpa using List.mem_of_mem_drop (List.mem_of_mem_take hw))
    generalize ((aesSchedule key).reverse.drop (4 * 14)).take 4 = l at h1 h2
    match l, h1 with
    | [a, b, c, d], _ => simp [h2 a, h2 b, h2 c, h2 d]
  simp only [aesBlock, xorBytes_length, hk, aesShift, List.length_map, List.length_range]
  rfl

/-- The parts of a text under a map that keeps each part's length are the parts of the mapped text. -/
theorem stream_twice (f : Nat → List Byte) (hf : ∀ n, (f n).length = 16) (k : Nat) (bs : List Byte) (h : bs.length < k) (i : Nat) :
    ∀ k', bs.length < k' → ((pieces 16 k' (((pieces 16 k bs).zipIdx i).flatMap (fun (e : List Byte × Nat) => xorBytes e.1 (f e.2)))).zipIdx i).flatMap
      (fun (e : List Byte × Nat) => xorBytes e.1 (f e.2)) = bs := by
  induction k generalizing bs i with
  | zero => omega
  | succ k ih =>
    intro k' h'
    by_cases hb : bs = []
    · subst hb; cases k' <;> simp [pieces]
    · obtain ⟨j, rfl⟩ : ∃ j, k' = j + 1 := ⟨k' - 1, by omega⟩
      have hp : 0 < bs.length := List.length_pos_iff.2 hb
      have hx : (xorBytes (bs.take 16) (f i)).length = min 16 bs.length := by simp [hf]
      simp only [pieces, hb, if_false, List.zipIdx_cons, List.flatMap_cons]
      have hne : xorBytes (bs.take 16) (f i) ++ ((pieces 16 k (bs.drop 16)).zipIdx (i + 1)).flatMap (fun (e : List Byte × Nat) => xorBytes e.1 (f e.2)) ≠ [] := by
        intro hh; have := congrArg List.length hh; rw [List.length_append, hx] at this; simp only [List.length_nil] at this; omega
      simp only [hne, if_false, List.zipIdx_cons, List.flatMap_cons]
      by_cases hl : 16 ≤ bs.length
      · have e : (xorBytes (bs.take 16) (f i)).length = 16 := by omega
        have t1 : (xorBytes (bs.take 16) (f i) ++ ((pieces 16 k (bs.drop 16)).zipIdx (i + 1)).flatMap (fun (e : List Byte × Nat) => xorBytes e.1 (f e.2))).take 16
            = xorBytes (bs.take 16) (f i) := by
          rw [List.take_append_of_le_length (by omega), List.take_of_length_le (by omega)]
        have t2 : (xorBytes (bs.take 16) (f i) ++ ((pieces 16 k (bs.drop 16)).zipIdx (i + 1)).flatMap (fun (e : List Byte × Nat) => xorBytes e.1 (f e.2))).drop 16
            = ((pieces 16 k (bs.drop 16)).zipIdx (i + 1)).flatMap (fun (e : List Byte × Nat) => xorBytes e.1 (f e.2)) := by
          exact List.drop_left' e
        rw [t1, t2, xorBytes_twice _ _ (by simp [hf]), ih (bs.drop 16) (by simp; omega) (i + 1) j (by simp; omega), List.take_append_drop]
      · have hd : bs.drop 16 = [] := List.drop_eq_nil_of_le (by omega)
        have hk : pieces 16 k ([] : List Byte) = [] := by cases k <;> simp [pieces]
        have hj : pieces 16 j ([] : List Byte) = [] := by cases j <;> simp [pieces]
        simp only [hd, hk, List.zipIdx_nil, List.flatMap_nil, List.append_nil]
        rw [List.take_of_length_le (by omega), List.drop_eq_nil_of_le (by omega), hj]
        simp only [List.zipIdx_nil, List.flatMap_nil, List.append_nil]
        rw [xorBytes_twice _ _ (by simp [hf]), List.take_of_length_le (by omega)]

theorem stream_length (f : Nat → List Byte) (hf : ∀ n, (f n).length = 16) (k : Nat) (bs : List Byte) (h : bs.length < k) (i : Nat) :
    (((pieces 16 k bs).zipIdx i).flatMap (fun (e : List Byte × Nat) => xorBytes e.1 (f e.2))).length = bs.length := by
  induction k generalizing bs i with
  | zero => omega
  | succ k ih =>
    by_cases hb : bs = []
    · subst hb; simp [pieces]
    · have hp : 0 < bs.length := List.length_pos_iff.2 hb
      simp only [pieces, hb, if_false, List.zipIdx_cons, List.flatMap_cons, List.length_append]
      rw [ih (bs.drop 16) (by simp; omega)]
      simp [hf]; omega

/-- What AES-256-GCM has sealed opens to the plaintext, under the same key, nonce and additional data (R325, R327). -/
theorem gcmOpen_gcmSeal (key nonce aad pt : List Byte) : gcmOpen key nonce aad (gcmSeal key nonce aad pt).1 (gcmSeal key nonce aad pt).2 = some pt := by
  have hf := fun n => aesBlock_length key (fit 12 nonce ++ beBytes 4 n)
  unfold gcmOpen gcmSeal
  simp only [if_true, Option.some.injEq, gcmStream]
  rw [stream_length _ hf _ _ (by omega)]
  exact stream_twice _ hf _ _ (by omega) _ _ (by omega)

/-! ### Headers of images (R324) -/

theorem Header.bytes_length (h : Header) : h.bytes.length = 512 := by simp [Header.bytes, -List.reduceReplicate]

/-- What stands at an offset, and how long it is. -/
theorem piece_at (a x b : List Byte) (n : Nat) (hx : x.length = n) : ((a ++ (x ++ b)).drop a.length).take n = x := by
  subst hx; rw [List.drop_left, List.take_left]

/-- A header whose fields have their widths. -/
def Header.Sized (h : Header) : Prop :=
  h.tenant < 2 ^ 64 ∧ h.counter < 2 ^ 64 ∧ h.length < 2 ^ 64 ∧ h.tmeas.length = 48 ∧ h.src.length = 48 ∧ h.dst.length = 48 ∧ h.nonce.length = 12 ∧
    h.tag.length = 16 ∧ h.epub.length = 96 ∧ h.dstek.length = 48

/-- A header reads back as it was written, whatever stands behind it. -/
theorem headerOf_bytes (h : Header) (hs : h.Sized) (c : List Byte) : headerOf (h.bytes ++ c) = h := by
  obtain ⟨h1, h2, h3, h4, h5, h6, h7, h8, h9, h10⟩ := hs
  obtain ⟨tenant, counter, length, tmeas, src, dst, nonce, tag, epub, dstek⟩ := h
  simp only at h1 h2 h3 h4 h5 h6 h7 h8 h9 h10
  simp only [Header.bytes, fit_eq _ _ h4, fit_eq _ _ h5, fit_eq _ _ h6, fit_eq _ _ h7, fit_eq _ _ h8, fit_eq _ _ h9, fit_eq _ _ h10, headerOf]
  have e1 := leNat_leBytes 8 tenant (by simpa using h1)
  have e2 := leNat_leBytes 8 counter (by simpa using h2)
  have e3 := leNat_leBytes 8 length (by simpa using h3)
  have l1 := leBytes_length 4 0x31454E45
  have l2 := leBytes_length 2 1
  have l3 := leBytes_length 2 0
  have l4 := leBytes_length 8 tenant
  have l5 := leBytes_length 8 counter
  have l6 := leBytes_length 8 length
  have l7 := leBytes_length 4 0
  generalize leBytes 4 0x31454E45 = b1 at *
  generalize leBytes 2 1 = b2 at *
  generalize leBytes 2 0 = b3 at *
  generalize leBytes 8 tenant = b4 at *
  generalize leBytes 8 counter = b5 at *
  generalize leBytes 8 length = b6 at *
  generalize leBytes 4 0 = b7 at *
  simp only [List.append_assoc]
  have drop (k : Nat) (x r : List Byte) (hk : k ≥ x.length) : (x ++ r).drop k = r.drop (k - x.length) := by
    rw [List.drop_append, List.drop_eq_nil_of_le hk, List.nil_append]
  have take (x r : List Byte) (n : Nat) (hx : x.length = n) : (x ++ r).take n = x := by subst hx; rw [List.take_left]
  simp [-List.reduceReplicate, drop, take, l1, l2, l3, l4, l5, l6, l7, h4, h5, h6, h7, h8, h9, h10, e1, e2, e3]

/-- An image of a header and as many bytes of ciphertext as it says is well formed (R327). -/
theorem imageFormed_bytes (h : Header) (hs : h.Sized) (c : List Byte) (hl : c.length = h.length) (h16 : 16 ≤ h.length) (hm : h.length ≤ 2 ^ 36) :
    imageFormed (h.bytes ++ c) = true := by
  have len : (h.bytes ++ c).length = 512 + h.length := by rw [List.length_append, Header.bytes_length, hl]
  have f1 : (h.bytes ++ c).take 4 = leBytes 4 0x31454E45 := by
    simp only [Header.bytes, List.append_assoc]; exact List.take_left' (leBytes_length _ _)
  have f (a x b : List Byte) (k n : Nat) (e : h.bytes ++ c = a ++ (x ++ b)) (ha : a.length = k) (hx : x.length = n) : ((h.bytes ++ c).drop k).take n = x := by
    rw [e, ← ha]; exact piece_at a x b n hx
  have f2 := f (leBytes 4 0x31454E45) (leBytes 2 1) _ 4 2 (by simp only [Header.bytes, List.append_assoc]; rfl) (leBytes_length _ _) (leBytes_length _ _)
  have f3 := f (leBytes 4 0x31454E45 ++ leBytes 2 1) (leBytes 2 0) _ 6 2 (by simp only [Header.bytes, List.append_assoc]; rfl)
    (by simp only [List.length_append, leBytes_length]) (leBytes_length _ _)
  have f4 := f (leBytes 4 0x31454E45 ++ leBytes 2 1 ++ leBytes 2 0 ++ leBytes 8 h.tenant ++ leBytes 8 h.counter ++ leBytes 8 h.length ++ fit 48 h.tmeas ++
    fit 48 h.src ++ fit 48 h.dst ++ fit 12 h.nonce) (leBytes 4 0) _ 0xBC 4 (by simp only [Header.bytes, List.append_assoc]; rfl)
    (by simp only [List.length_append, leBytes_length, fit_length]) (leBytes_length _ _)
  have f5 := f (leBytes 4 0x31454E45 ++ leBytes 2 1 ++ leBytes 2 0 ++ leBytes 8 h.tenant ++ leBytes 8 h.counter ++ leBytes 8 h.length ++ fit 48 h.tmeas ++
    fit 48 h.src ++ fit 48 h.dst ++ fit 12 h.nonce ++ leBytes 4 0 ++ fit 16 h.tag ++ fit 96 h.epub ++ fit 48 h.dstek) (List.replicate 160 0#8) c 0x160 160
    (by simp only [Header.bytes, List.append_assoc]) (by simp only [List.length_append, leBytes_length, fit_length]) (List.length_replicate ..)
  simp only [imageFormed, headerOf_bytes h hs c, len, f1, f2, f3, f4, f5, leNat_leBytes 4 0x31454E45 (by decide), leNat_leBytes 2 1 (by decide),
    leNat_leBytes 2 0 (by decide), leNat_leBytes 4 0 (by decide), h16, hm, decide_true, Bool.and_true]
  simp only [Nat.le_add_right, decide_true, Bool.true_and]
  exact List.all_eq_true.2 (fun x hx => by rw [List.eq_of_mem_replicate hx]; rfl)

/-- A message that the session's key protects opens (R322). -/
theorem Conn.opens_sealed (c : Conn) (m : List Byte) :
    let k := c.key 0 c.received
    let r := gcmSeal k.1 k.2 [] m
    c.opens (r.1 ++ r.2) m = true := by
  intro k r
  have h : (r.1 ++ r.2).length - 16 = r.1.length := by simp [r]
  simp only [Conn.opens, h, List.take_left, List.drop_left, decide_eq_true_eq]
  exact gcmOpen_gcmSeal _ _ _ _

/-- What waits to be installed does not touch the refused restores. -/
theorem State.openImage_none (s : State) (r : Restore) (hv : s.vdis = []) (pl z : List Byte)
    (hz : ecdhX s.secure.encoreKey (headerOf r.image).epub = some z)
    (ho : let h := headerOf r.image
          let ks := sealKeys z h.tmeas (leBytes 8 h.tenant) (leBytes 8 h.counter) h.src h.dst
          gcmOpen ks.1 ks.2 ({ h with tag := List.replicate 16 0#8 } : Header).bytes (r.image.drop 512) h.tag = some pl) :
    (s.openImage r).secure.refusals = s.secure.refusals := by
  simp only at ho
  simp only [State.openImage, hz, Option.bind_some, ho, State.tryInstall, hv]
  split
  · rfl
  · rfl

end Sys2Proof.Machine
end

