-- ==== Sys2Proof/Laws/Vector.lean ====
section
/-! SUPPORT. What the forms of the vector words can do, said once for each. -/

namespace Sys2Proof.Machine

variable {s : State} {c : Ctx} {j : Instr} {d a b : Reg}

/-! ### Lanes of results -/

theorem lanes1_lane (f : Word → Word) (x : VVal) (l : Nat) (h : l < 32) : (lanes1 f x).lane l = f (x.lane l) := by
  unfold lanes1
  split
  · rfl
  · exact VVal.lane_ofFn _ l h

theorem lanes2_lane (f : Word → Word → Word) (x y : VVal) (l : Nat) (h : l < 32) :
    (lanes2 f x y).lane l = f (x.lane l) (y.lane l) := by
  unfold lanes2
  split
  · rfl
  · exact VVal.lane_ofFn _ l h

theorem lanes3_lane (f : Word → Word → Word → Word) (x y z : VVal) (l : Nat) (h : l < 32) :
    (lanes3 f x y z).lane l = f (x.lane l) (y.lane l) (z.lane l) := by
  unfold lanes3
  split
  · rfl
  · exact VVal.lane_ofFn _ l h

theorem vAddVal_lane (x y : VVal) (l : Nat) (h : l < 32) : (vAddVal x y).lane l = x.lane l + y.lane l := by
  unfold vAddVal
  split
  · simp only [VVal.lane]; ring
  · simp only [VVal.lane]; ring
  · exact lanes2_lane _ _ _ l h

theorem vSubVal_lane (x y : VVal) (l : Nat) (h : l < 32) : (vSubVal x y).lane l = x.lane l - y.lane l := by
  unfold vSubVal
  split
  · simp only [VVal.lane]; ring
  · exact lanes2_lane _ _ _ l h

/-! ### The forms -/

/-- A vector result stands for any value that has the same lanes. -/
theorem Ctx.VectorResult.congr {c' : Ctx} {i : Issue} {lat : Nat} {x y : VVal} {st : BitVec 7}
    (h : c.VectorResult c' i lat d x st) (he : ∀ l, l < 32 → active i.em l = true → x.lane l = y.lane l) :
    c.VectorResult c' i lat d y st :=
  ⟨fun hd l hl ha => (h.active_ hd l hl ha).trans (he l hl ha), h.inactive, h.others,
    fun hk => (h.window hk).imp fun _ hz => ⟨hz.1, fun l hl ha => (hz.2 l hl ha).trans (he l hl ha)⟩, h.path, h.sibling, h.frame⟩

/-- A word that acts on its unit's registers alone gives a vector result when what it leaves is one. -/
theorem State.givesVector_of {lat : Nat} {x : VVal} {y : Nat → Word} {st : BitVec 7} (h : s.issuing c) {f : Issue → Ctx → Ctx}
    (he : exec j s = s.onCur f) (hr : c.VectorResult (f s.issue c) s.issue lat d x (c.st ||| st))
    (hl : ∀ l, l < 32 → x.lane l = y l) : s.givesVector c j lat d y st :=
  ⟨_, he.trans (State.onCur_next h f), hr.congr fun l h32 _ => (hl l h32).trans (VVal.lane_ofFn y l h32).symm⟩

/-- A word of two vector operands. -/
theorem vector2_gives {f : VVal → VVal → VVal} {y : Nat → Word} (h : s.issuing c) (he : exec j s = vector2 f d a b s)
    (hl : ∀ l, l < 32 → (f (c.rdV s.issue a) (c.rdV s.issue b)).lane l = y l) : s.givesVector c j 2 d y 0#7 :=
  State.givesVector_of h he (Ctx.wrV_result ..) hl

/-- A word with an immediate operand. -/
theorem vectorImm_gives {f : VVal → VVal → VVal} {k : BitVec 7} {y : Nat → Word} (h : s.issuing c) (he : exec j s = vectorImm f d a k s)
    (hl : ∀ l, l < 32 → (f (c.rdV s.issue a) (immV k)).lane l = y l) : s.givesVector c j 2 d y 0#7 :=
  State.givesVector_of h he (Ctx.wrV_result ..) hl

/-- A word of one operand, lane by lane. -/
theorem vector1_gives {f : Word → Word} {y : Nat → Word} (h : s.issuing c) (he : exec j s = vector1 f d a s)
    (hl : ∀ l, l < 32 → f ((c.rdV s.issue a).lane l) = y l) : s.givesVector c j 2 d y 0#7 :=
  State.givesVector_of h he (Ctx.wrV_result ..) fun l h32 => (lanes1_lane _ _ l h32).trans (hl l h32)

/-- A word that reads its destination, lane by lane. -/
theorem vectorAcc_gives {f : Word → Word → Word → Word} {y : Nat → Word} (h : s.issuing c) (he : exec j s = vectorAcc f d a b s)
    (hl : ∀ l, l < 32 → f ((c.rdV s.issue d).lane l) ((c.rdV s.issue a).lane l) ((c.rdV s.issue b).lane l) = y l) :
    s.givesVector c j 2 d y 0#7 :=
  State.givesVector_of h he (Ctx.wrV_result ..) fun l h32 => (lanes3_lane _ _ _ _ l h32).trans (hl l h32)

/-- A word of one operand whose lanes set status bits. -/
theorem vectorSt1_gives {lat : Nat} {f : Word → Word → Word × BitVec 7} {y : Nat → Word} (h : s.issuing c)
    (he : exec j s = vectorSt1 lat f d a s) (hl : ∀ l, l < 32 → (f s.issue.fm ((c.rdV s.issue a).lane l)).1 = y l) :
    s.givesVector c j lat d y (laneFlags s.issue.em fun l => (f s.issue.fm ((c.rdV s.issue a).lane l)).2) := by
  refine State.givesVector_of h he ?_ fun l h32 => (lanes1_lane (fun u => (f s.issue.fm u).1) (c.rdV s.issue a) l h32).trans (hl l h32)
  have := Ctx.setSt_result (Ctx.wrV_result c s.issue lat d (lanes1 (fun u => (f s.issue.fm u).1) (c.rdV s.issue a)))
    (laneFlags s.issue.em fun l => (f s.issue.fm ((c.rdV s.issue a).lane l)).2)
  rwa [BitVec.or_zero] at this

/-- A word of two operands whose lanes set status bits. -/
theorem vectorSt2_gives {lat : Nat} {f : Word → Word → Word → Word × BitVec 7} {y : Nat → Word} (h : s.issuing c)
    (he : exec j s = vectorSt2 lat f d a b s)
    (hl : ∀ l, l < 32 → (f s.issue.fm ((c.rdV s.issue a).lane l) ((c.rdV s.issue b).lane l)).1 = y l) :
    s.givesVector c j lat d y
      (laneFlags s.issue.em fun l => (f s.issue.fm ((c.rdV s.issue a).lane l) ((c.rdV s.issue b).lane l)).2) := by
  refine State.givesVector_of h he ?_ fun l h32 => (lanes2_lane (fun u v => (f s.issue.fm u v).1) (c.rdV s.issue a) (c.rdV s.issue b) l h32).trans (hl l h32)
  have := Ctx.setSt_result (Ctx.wrV_result c s.issue lat d (lanes2 (fun u v => (f s.issue.fm u v).1) (c.rdV s.issue a) (c.rdV s.issue b)))
    (laneFlags s.issue.em fun l => (f s.issue.fm ((c.rdV s.issue a).lane l) ((c.rdV s.issue b).lane l)).2)
  rwa [BitVec.or_zero] at this

/-- A fused word. -/
theorem vectorFma_gives {p q : Bool} {y : Nat → Word} (h : s.issuing c) (he : exec j s = vectorFma p q d a b s)
    (hl : ∀ l, l < 32 →
      (ffma (fmMode s.issue.fm) p q ((c.rdV s.issue a).lane l) ((c.rdV s.issue b).lane l) ((c.rdV s.issue d).lane l)).1 = y l) :
    s.givesVector c j 4 d y (laneFlags s.issue.em fun l =>
      (ffma (fmMode s.issue.fm) p q ((c.rdV s.issue a).lane l) ((c.rdV s.issue b).lane l) ((c.rdV s.issue d).lane l)).2) := by
  refine State.givesVector_of h he ?_ fun l h32 =>
    (lanes3_lane (fun w u v => (ffma (fmMode s.issue.fm) p q u v w).1) (c.rdV s.issue d) (c.rdV s.issue a) (c.rdV s.issue b) l h32).trans (hl l h32)
  have := Ctx.setSt_result (Ctx.wrV_result c s.issue 4 d
    (lanes3 (fun w u v => (ffma (fmMode s.issue.fm) p q u v w).1) (c.rdV s.issue d) (c.rdV s.issue a) (c.rdV s.issue b)))
    (laneFlags s.issue.em fun l =>
      (ffma (fmMode s.issue.fm) p q ((c.rdV s.issue a).lane l) ((c.rdV s.issue b).lane l) ((c.rdV s.issue d).lane l)).2)
  rwa [BitVec.or_zero] at this

/-! ### Masks -/

/-- A mask has a one for each lane of its list. -/
theorem maskOf_getLsbD (ls : List Nat) (k : Nat) : (maskOf ls).getLsbD k = (decide (k < 32) && ls.contains k) := by
  have aux : ∀ (ls : List Nat) (m : Word),
      (ls.foldl (fun m l => m ||| (1#32 <<< l)) m).getLsbD k = (m.getLsbD k || (decide (k < 32) && ls.contains k)) := by
    intro ls
    induction ls with
    | nil => intro m; simp
    | cons l ls ih =>
      intro m
      rw [List.foldl_cons, ih]
      by_cases hk : k < 32
      · by_cases hl : k = l
        · subst hl
          simp [hk]
        · have h1 : (1#32 <<< l).getLsbD k = false := by
            simp only [BitVec.getLsbD_shiftLeft, hk, decide_true, Bool.true_and, Bool.and_eq_false_iff]
            by_cases h2 : k < l
            · simp [h2]
            · right
              simp [BitVec.getLsbD_one]
              omega
          rw [BitVec.getLsbD_or, h1, Bool.or_false]
          simp [hk, hl]
      · simp [hk]
  rw [maskOf, aux]
  simp

/-- The active lanes are the lanes whose bit of em is one. -/
theorem mem_lanesOf (em : Word) (l : Nat) : l ∈ lanesOf em ↔ l < 32 ∧ active em l = true := by simp [lanesOf]

/-- A word that writes a mask of the active lanes. -/
theorem vectorMask_gives {lat : Nat} {p : Word → Word → Bool} (h : s.issuing c) (he : exec j s = vectorMask lat p d a b s) :
    s.givesScalar c j lat d
      ((maskOf ((lanesOf s.issue.em).filter fun l => p ((c.rdV s.issue a).lane l) ((c.rdV s.issue b).lane l))).setWidth 64)
      (s.here c).cf :=
  ⟨_, he.trans (State.onCur_next h _), Ctx.wrS_result ..⟩

end Sys2Proof.Machine
end

