-- ==== Sys2Proof/Tests/Slice0.lean ====
section
/-! SUPPORT. Tests: ill-formed terms, decoding by words written out from the spec, single steps, and for every statement
with hypotheses a state that meets them. -/

open Sys2Proof Sys2Proof.Machine

set_option maxRecDepth 8000
set_option Elab.async false
set_option linter.unusedTactic false
set_option linter.unreachableTactic false

/-! ### Ill-formed terms: each check of `Instr.wf` refuses one (R147, R150 to R153, R206, R209, R246) -/

/-- The operand spaces of R147 and R11: a source s48, a destination o0, an immediate window index, a vector destination
beyond the window, and Q-space numbers of 16 and above. -/
theorem test_wf_spaces :
    [Instr.add 1 48 2, .add 1 2 55, .add 48 1 2, .add 57 1 2, .sel 50 1 2 3, .brcNz 49 0, .ldg 57 1 0 0 0, .vadd 63 1 2,
     .lds 1 48 2 4, .vcmp 48 1 2 0, .getem 60, .vmovs 1 50].all (fun i => !i.wf .cast) = true ∧
    [Instr.add 16 1 2, .add 1 16 2, .add 1 2 63, .mstatSt 56].all (fun i => !i.wf .cue) = true := by decide

/-- The limits of R150 to R153 on scalar and vector words. -/
theorem test_wf_limits_alu :
    [Instr.movhi 56 1, .cmp 1 2 3 10, .scene 0 9, .scene 45 4, .scene 3 0, .vshlImm 1 2 32, .vshrImm 1 2 32, .vsraImm 1 2 32,
     .vmad 56 1 2, .vdot4I8 56 1 2, .vdot4N8 56 1 2, .vcmp 1 2 3 10, .vfma 56 1 2, .vfms 56 1 2, .vfnma 56 1 2, .vfcmp 1 2 3 8,
     .vcvt 1 2 14 0 0, .vcvt 1 2 0 14 0, .vpack 1 2 3 3, .vunpack 1 2 2 0, .vunpack 1 2 4 1, .vunpack 1 2 8 2, .vunpack 1 2 0 3,
     .vbcast 1 2 32, .vreduce 1 2 11, .vscanInclusive 1 2 11, .vscanExclusive 1 2 11, .vrng 1 2 46, .vrng 1 2 3,
     .smovv 1 2 32].all (fun i => !i.wf .cast) = true := by decide

/-- The limits of R151, R152, R206, R209 and R246 on memory, board and system words. -/
theorem test_wf_limits_memory :
    [Instr.lds 1 2 3 5, .sts 1 2 3 1, .sts 1 2 3 3, .atoms 1 2 12 0 0 0, .atoms 56 2 0 0 0 0, .atoms 3 2 10 0 0 0, .ldg 1 2 0 2 0,
     .ldgN16 1 2 0 3 0, .ldgN8 1 2 0 2 0, .stg 1 2 0 1 0, .stg16 1 2 0 3 0, .stg8 1 2 0 1 0, .poll 1 2 0 2 0, .atom 56 2 0 0 0 0,
     .atom 3 2 0 0 0 7, .thset 1 8 0 0, .thget 1 8 0 0, .tld 1 47 0, .tld 1 48 0, .tst 1 3 0, .csrr 1 0x008, .csrr 1 0x10A,
     .csrr 1 0x20C, .csrw 1 0x001, .csrw 1 0x104, .csrw 1 0x20A].all (fun i => !i.wf .cast) = true ∧
    Instr.wf .board (.cbIrq 32) = false := by decide

/-- The same shapes within their limits are well formed. -/
theorem test_wf_boundaries :
    [Instr.add 56 63 47, .movhi 47 1, .cmp 1 2 3 9, .scene 40 8, .scene 0 0, .vshlImm 1 2 31, .vmad 55 56 63, .vfcmp 1 2 3 7,
     .vcvt 1 2 13 13 0, .vunpack 1 2 7 2, .vbcast 1 2 31, .vreduce 1 2 10, .vrng 1 2 44, .sts 55 2 3 4, .atoms 54 2 10 0 0 0,
     .ldg 56 2 0 1 0, .stg 1 2 0 2 0, .thset 1 7 0 0, .tld 1 46 0, .csrr 1 0x02F, .csrr 1 0x20B, .csrw 1 0x209].all
      (fun i => i.wf .cast) = true ∧ Instr.wf .cue (.add 15 15 15) = true ∧ Instr.wf .board (.cbIrq 31) = true := by decide

/-! ### Decoding, by words written out from the encoding tables (R144 to R154, spec/opcode_table.json) -/

/-- Majors 0x00 to 0x05. -/
theorem test_decode_00 : ([
     (0x00000000, .nop), (0x0000A531, .stall 0xA53), (0x004DA5C3, .movi 0xD 0xA5C3),
     (0x008DA5C3, .movhi 0xD 0xA5C3), (0x010D5A50, .add 0xD 0x16 0x25), (0x010D5A51, .sub 0xD 0x16 0x25),
     (0x010D5A52, .and 0xD 0x16 0x25), (0x010D5A53, .or 0xD 0x16 0x25), (0x010D5A54, .xor 0xD 0x16 0x25),
     (0x010D5A55, .andn 0xD 0x16 0x25), (0x010D5A56, .shl 0xD 0x16 0x25), (0x010D5A57, .shr 0xD 0x16 0x25),
     (0x010D5A58, .sra 0xD 0x16 0x25), (0x010D5A59, .rotl 0xD 0x16 0x25), (0x010D5A5A, .min 0xD 0x16 0x25),
     (0x010D5A5B, .max 0xD 0x16 0x25), (0x010D5A5C, .minu 0xD 0x16 0x25), (0x010D5A5D, .maxu 0xD 0x16 0x25),
     (0x010D5A5E, .addc 0xD 0x16 0x25), (0x010D5A5F, .subc 0xD 0x16 0x25), (0x014D5A90, .addImm 0xD 0x16 0x29),
     (0x014D5A91, .subImm 0xD 0x16 0x29), (0x014D5A92, .andImm 0xD 0x16 0x29), (0x014D5A93, .orImm 0xD 0x16 0x29),
     (0x014D5A94, .xorImm 0xD 0x16 0x29), (0x014D5A95, .andnImm 0xD 0x16 0x29), (0x014D5A96, .shlImm 0xD 0x16 0x29),
     (0x014D5A97, .shrImm 0xD 0x16 0x29), (0x014D5A98, .sraImm 0xD 0x16 0x29), (0x014D5A99, .rotlImm 0xD 0x16 0x29),
     (0x014D5A9A, .minImm 0xD 0x16 0x29), (0x014D5A9B, .maxImm 0xD 0x16 0x29), (0x014D5A9C, .minuImm 0xD 0x16 0x29),
     (0x014D5A9D, .maxuImm 0xD 0x16 0x29)] :
    List (Nat × Instr)).all (fun x => decide (decodeTableWord 64 x.1 = some x.2)) = true := by decide

/-- Majors 0x06 to 0x16. -/
theorem test_decode_01 : ([
     (0x018D5A50, .mul 0xD 0x16 0x25), (0x018D5A51, .mulh 0xD 0x16 0x25), (0x018D5A52, .mulhu 0xD 0x16 0x25),
     (0x018D5A53, .div 0xD 0x16 0x25), (0x018D5A54, .divu 0xD 0x16 0x25), (0x018D5A55, .rem 0xD 0x16 0x25),
     (0x018D5A56, .remu 0xD 0x16 0x25), (0x01CD5800, .clz 0xD 0x16), (0x01CD5801, .popc 0xD 0x16),
     (0x01CD5802, .brev 0xD 0x16), (0x01CD5893, .sext 0xD 0x16 0x9), (0x01CD5894, .zext 0xD 0x16 0x9),
     (0x020D5A57, .cmp 0xD 0x16 0x25 0x7), (0x024D5A5B, .sel 0xD 0x16 0x25 0xB), (0x04100155, .bra 0x100155),
     (0x04300155, .call 0x100155), (0x04564155, .brcNz 0x16 0x4155), (0x0456C155, .brcZ 0x16 0x4155),
     (0x04880155, .brmNone 0x80155), (0x04980155, .brmAny 0x80155), (0x04A80155, .brmAll 0x80155),
     (0x04C05800, .ret 0x16), (0x04C00001, .exit), (0x04C00002, .join),
     (0x04C00003, .yield), (0x05168155, .fork 0x16 0x8155), (0x0566B0F9, .mcall 0x4D 0xC 0x7 0x19),
     (0x05805800, .setem 0x16), (0x058D0001, .getem 0xD), (0x05805802, .setfmt 0x16),
     (0x058D0003, .getfmt 0xD), (0x05801434, .scene 0x5 0x3)] :
    List (Nat × Instr)).all (fun x => decide (decodeTableWord 64 x.1 = some x.2)) = true := by decide

/-- Majors 0x18 to 0x1B. -/
theorem test_decode_02 : ([
     (0x060D5A50, .vadd 0xD 0x16 0x25), (0x060D5A51, .vsub 0xD 0x16 0x25), (0x060D5A52, .vmul 0xD 0x16 0x25),
     (0x060D5A53, .vmulh 0xD 0x16 0x25), (0x060D5A54, .vand 0xD 0x16 0x25), (0x060D5A55, .vor 0xD 0x16 0x25),
     (0x060D5A56, .vxor 0xD 0x16 0x25), (0x060D5A57, .vshl 0xD 0x16 0x25), (0x060D5A58, .vshr 0xD 0x16 0x25),
     (0x060D5A59, .vsra 0xD 0x16 0x25), (0x060D5A5A, .vmin 0xD 0x16 0x25), (0x060D5A5B, .vmax 0xD 0x16 0x25),
     (0x060D5A5C, .vminu 0xD 0x16 0x25), (0x060D5A5D, .vmaxu 0xD 0x16 0x25), (0x060D5A5E, .vaddsat 0xD 0x16 0x25),
     (0x060D5A5F, .vsubsat 0xD 0x16 0x25), (0x064D5853, .vaddImm 0xD 0x16 0x53), (0x064D58D3, .vsubImm 0xD 0x16 0x53),
     (0x064D5953, .vmulImm 0xD 0x16 0x53), (0x064D59D3, .vandImm 0xD 0x16 0x53), (0x064D5A53, .vorImm 0xD 0x16 0x53),
     (0x064D5A93, .vshlImm 0xD 0x16 0x13), (0x064D5B13, .vshrImm 0xD 0x16 0x13), (0x064D5B93, .vsraImm 0xD 0x16 0x13),
     (0x068D5A50, .vmad 0xD 0x16 0x25), (0x068D5801, .vabs 0xD 0x16), (0x068D5802, .vneg 0xD 0x16),
     (0x068D5803, .vclz 0xD 0x16), (0x068D5804, .vpopc 0xD 0x16), (0x068D5A55, .vdot4I8 0xD 0x16 0x25),
     (0x068D5A56, .vdot4N8 0xD 0x16 0x25), (0x06CD5A57, .vcmp 0xD 0x16 0x25 0x7)] :
    List (Nat × Instr)).all (fun x => decide (decodeTableWord 64 x.1 = some x.2)) = true := by decide

/-- Majors 0x1C to 0x25. -/
theorem test_decode_03 : ([
     (0x070D5A50, .vfadd 0xD 0x16 0x25), (0x070D5A51, .vfsub 0xD 0x16 0x25), (0x070D5A52, .vfmul 0xD 0x16 0x25),
     (0x070D5A53, .vfmin 0xD 0x16 0x25), (0x070D5A54, .vfmax 0xD 0x16 0x25), (0x070D5A55, .vfcopysign 0xD 0x16 0x25),
     (0x074D5A50, .vfma 0xD 0x16 0x25), (0x074D5A51, .vfms 0xD 0x16 0x25), (0x074D5A52, .vfnma 0xD 0x16 0x25),
     (0x078D5A55, .vfcmp 0xD 0x16 0x25 0x5), (0x07CD5800, .vfrcp 0xD 0x16), (0x07CD5801, .vfrsq 0xD 0x16),
     (0x07CD5802, .vfsqrt 0xD 0x16), (0x07CD5803, .vfexp2 0xD 0x16), (0x07CD5804, .vflog2 0xD 0x16),
     (0x07CD5805, .vftanh 0xD 0x16), (0x07CD5806, .vfsig 0xD 0x16), (0x07CD5807, .vfabs 0xD 0x16),
     (0x07CD5808, .vfneg 0xD 0x16), (0x080D58E6, .vcvt 0xD 0x16 0x3 0x9 0x2), (0x084D5A51, .vpack 0xD 0x16 0x25 0x1),
     (0x084D5829, .vunpack 0xD 0x16 0x2 0x1), (0x088D5A5C, .vsel 0xD 0x16 0x25 0xC), (0x08CD5A50, .vshuf 0xD 0x16 0x25),
     (0x08CD5911, .vbcast 0xD 0x16 0x11), (0x08CD0002, .vlaneid 0xD), (0x08CD5A53, .vaff 0xD 0x16 0x25),
     (0x08CDA724, .vaffImm 0xD 0x29 0x32), (0x090D5860, .vreduce 0xD 0x16 0x6), (0x090D5861, .vscanInclusive 0xD 0x16 0x6),
     (0x090D5862, .vscanExclusive 0xD 0x16 0x6), (0x090D5803, .ballot 0xD 0x16), (0x094D58A0, .vrng 0xD 0x16 0xA)] :
    List (Nat × Instr)).all (fun x => decide (decodeTableWord 64 x.1 = some x.2)) = true := by decide

/-- Majors 0x26 to 0x39. -/
theorem test_decode_04 : ([
     (0x098D5800, .vmovs 0xD 0x16), (0x098D5951, .smovv 0xD 0x16 0x15), (0x0C0D5A53, .lds 0xD 0x16 0x25 0x3),
     (0x0C0D5A5A, .sts 0xD 0x16 0x25 0x2), (0x0C4D5B1D, .ldsx 0xD 0x16 0xC 0x7 0x1), (0x0C4D5B1F, .stsx 0xD 0x16 0xC 0x7 0x1),
     (0x0C8D5966, .atoms 0xD 0x16 0x5 0x2 0x1 0x1), (0x0CCD5AB0, .ldg 0xD 0x16 0x5 0x1 0x2), (0x0CCD5AB1, .ldgN16 0xD 0x16 0x5 0x1 0x2),
     (0x0CCD5AB2, .ldgN8 0xD 0x16 0x5 0x1 0x2), (0x0CCD5AD3, .stg 0xD 0x16 0x5 0x2 0x2), (0x0CCD5AD4, .stg16 0xD 0x16 0x5 0x2 0x2),
     (0x0CCD5AD5, .stg8 0xD 0x16 0x5 0x2 0x2), (0x0CCD5AB6, .poll 0xD 0x16 0x5 0x1 0x2), (0x0D0D5AB3, .atom 0xD 0x16 0x5 0x1 0x2 0x3),
     (0x0D400020, .fence 0x2), (0x0D402601, .waitc 0x9 0x2), (0x0D455802, .txl 0x5 0x16),
     (0x0D8D0090, .ringTicket 0xD 0x9), (0x0D805891, .ringFill 0x16 0x9), (0x0D8D0092, .ringTake 0xD 0x9),
     (0x0D800093, .ringFree 0x9), (0x0DCD15B0, .thset 0xD 0x5 0x1 0xB), (0x0DCD15B1, .thget 0xD 0x5 0x1 0xB),
     (0x0DD628B2, .tld 0x16 0xA 0xB), (0x0DD628B3, .tst 0x16 0xA 0xB), (0x0E000090, .barArv 0x9),
     (0x0E000091, .barWait 0x9), (0x0E000092, .cueBar 0x9), (0x0E56A530, .semadd 0x16 0xA53),
     (0x0E56A531, .semwait 0x16 0xA53)] :
    List (Nat × Instr)).all (fun x => decide (decodeTableWord 64 x.1 = some x.2)) = true := by decide

/-- Majors 0x3A to 0x3E. -/
theorem test_decode_05 : ([
     (0x0E805800, .nestLaunch 0x16), (0x0E805A51, .nestBound 0x16 0x25), (0x0E8D5A52, .spawn 0xD 0x16 0x25),
     (0x0E805A53, .bin 0x16 0x25), (0x0ECD5800, .collPost 0xD 0x16), (0x0ECD5801, .collTest 0xD 0x16),
     (0x0EC05802, .collLeave 0x16), (0x0F0D0000, .mldw 0xD), (0x0F0D0008, .mldwH 0xD),
     (0x0F000001, .mflip), (0x0F0D2462, .mmao 0xD 0x9 0x6), (0x0F0D246A, .mmaoH 0xD 0x9 0x6),
     (0x0F0D2463, .mmaw 0xD 0x9 0x6), (0x0F0D246B, .mmawH 0xD 0x9 0x6), (0x0F0D0004, .msho 0xD),
     (0x0F4D2400, .macq 0xD 0x9), (0x0F4D0001, .mrel 0xD), (0x0F400002, .mzero),
     (0x0F4D0003, .mfuse 0xD), (0x0F4D0004, .gcfg 0xD), (0x0F4D2465, .lscan 0xD 0x9 0x6),
     (0x0F4D0006, .mstatSt 0xD), (0x0F4D0406, .mstatClr 0xD), (0x0F4D0806, .mstatSetfmt 0xD),
     (0x0F4D0C06, .mstatGetfmt 0xD), (0x0F4D1006, .mstatState 0xD), (0x0F805A50, .cbSubmit 0x16 0x25),
     (0x0F96A531, .cbSemwait 0x16 0xA53), (0x0F96A532, .cbSemadd 0x16 0xA53), (0x0F800133, .cbIrq 0x13)] :
    List (Nat × Instr)).all (fun x => decide (decodeTableWord 64 x.1 = some x.2)) = true := by decide

/-- Majors 0x3F to 0x3F. -/
theorem test_decode_06 : ([
     (0x0FC0A530, .trap 0xA53), (0x0FC00001, .eret), (0x0FCD1072, .csrr 0xD 0x107),
     (0x0FD61073, .csrw 0x16 0x107), (0x0FC05804, .tlbinv 0x16), (0x0FC05814, .tlbinvS2 0x16),
     (0x0FC00024, .tlbinvAll), (0x0FC00034, .tlbinvS2All), (0x0FCD5A55, .mappg 0xD 0x16 0x25),
     (0x0FC05A56, .mdef 0x16 0x25), (0x0FCD0007, .time 0xD), (0x0FCD5808, .perfr 0xD 0x16),
     (0x0FCD5A59, .frec 0xD 0x16 0x25), (0x0FC0580A, .unpark 0x16), (0x0FC05A5B, .smsg 0x16 0x25),
     (0x0FC0000C, .halt), (0x0FC0A53F, .pool 0xA53)] :
    List (Nat × Instr)).all (fun x => decide (decodeTableWord 64 x.1 = some x.2)) = true := by decide

/-- The Xstage words (R263). -/
theorem test_decode_xstage : ([
     (0x165B000B, .tcopyIn 0xB 0x5 0x16), (0x165B100B, .tcopyOut 0xB 0x5 0x16), (0x765B200B, .xhSet 0x3 0xB 0x5 0x16),
     (0x000B300B, .xwait 0x16), (0x0400400B, .xfence 0x2), (0x005B500B, .xbin 0x5 0x16),
     (0x005B600B, .xsemAdd 0x5 0x16), (0x025B600B, .xsemWait 0x5 0x16), (0x0000700B, .xexit),
     (0x120006AB, .rngTkt 0x9 0xD), (0x120B102B, .rngPut 0x9 0x16), (0x120026AB, .rngGet 0x9 0xD),
     (0x1200302B, .rngRel 0x9)] :
    List (Word × Instr)).all (fun x => decide (decodeHand x.1 = x.2)) = true := by decide

/-- Standard words of the stagehands (R260), written out from the RISC-V encodings: the base forms, one of each format. -/
theorem test_decode_stagehand : ([
     (0xFFD58513, .opi .add 10 11 0xFFFFFFFD), (0x00C585B3, .op .add 11 11 12), (0x40C585B3, .op .sub 11 11 12), (0x4035D513, .opi .sra 10 11 3),
     (0xFEC5CAE3, .br .blt 11 12 0xFFFFFFF4), (0x12345537, .lui 10 0x12345000), (0x0045A503, .ld .lw 10 11 4), (0xFEA59FA3, .st .sh 11 10 0xFFFFFFFF),
     (0x02C5C533, .md .div 10 11 12), (0xF1402573, .csr .rs 10 0 0xF14), (0x0000100F, .fenceI), (0x00100073, .ebreak), (0xFF1FF0EF, .jal 1 0xFFFFFFF0)] :
    List (Word × Rv)).all (fun x => decide (decodeHand x.1 = .stagehandInstruction x.2 false)) = true := by decide

/-- Compressed forms: C.ADDI a0, −1, C.LW a0, 4(a1), C.MV a0, a1, C.J and C.EBREAK. -/
theorem test_decode_compressed : ([
     (0x157D, .opi .add 10 10 0xFFFFFFFF), (0x41C8, .ld .lw 10 11 4), (0x852E, .op .add 10 0 11), (0xA001, .jal 0 0), (0x9002, .ebreak)] :
    List (Word × Rv)).all (fun x => decide (decodeHand x.1 = .stagehandInstruction x.2 true)) = true := by decide

/-- Words that the tables reserve, or that another kind of unit executes, are refused by name (R144, R146, R155, R157). -/
theorem test_decode_refused :
    decode .cast 0x02800000 0 = .error .unassignedMajor ∧ decode .cast 0x01800007 0 = .error .reserved ∧
    decode .cast 0x0F030422 0 = .error .cueMisuse ∧ decode .cue 0x06000000 0 = .error .cueMisuse ∧
    decode .board 0x06000000 0 = .error .illegalMajor ∧ decode .cast 0x0F8001F3 0 = .error .illegalMajor ∧
    decode .cast 0x010EC420 0 = .error .reserved ∧ decode .cue 0x01100420 0 = .error .reserved ∧
    decodeHand 0x00B5B00B = .stagehandInstruction .illegal false := by decide

/-- The encoder gives the words back, with C and STALL clear, and both words of LIMM. -/
theorem test_encode :
    encode (.add 3 1 2) = [0x01030420] ∧ encode (.limmN32 5 0x3F800000) = [0x00C50001, 0x3F800000] ∧ encode (.bra 0x1FFFFF) = [0x041FFFFF] ∧
    encode (.xwait 11) = [0x0005B00B] := by decide

/-! ### A small machine for the tests: one tenant with core 0, one point on its quadrant 0, a cast, a cue stream, a stagehand -/

def tImg : TenantImage :=
  { emptyImage with code := List.replicate 48 0, semShare := 8, binShare := 16, pctShare := 2, nestSlots := 4 }

def tVdi : Vdi := { Vdi.create tImg [] with sptr := 0x20000, hptr := 0x10000, timeBudget := 1000, energyBudget := 1000 }

/-- Page tables of both stages (R123): each maps the first GiB to itself, readable, writable and executable, with U, A and D.
At 0 stands the descriptor of a barrier of group 1 with one participant (R304). -/
def tMem : Memory :=
  [(0, 5), (8, 0x0001000000000001), (0x10000, 0x11001), (0x11000, 0x12001), (0x12000, 0x400000000000007F), (0x20000, 0x21001), (0x21000, 0x22001),
   (0x22000, 0x400000000000007F)].foldl (fun (m : Memory) (p : Nat × Dword) => m.putDword p.1 p.2) []

def tTroupe : Troupe := { Troupe.create 0 [0] 0 0 0 [0] 0 with started := true }

def tCtx : Ctx := { Ctx.zero with a := Path.start 0, nextPid := 2 }

def tHand : Hand := { Hand.zero with started := true }

def tPoint : Point :=
  { slot := 0, point := [0], vdi := 0, members := [0], resume := 0, placedAt := 0, watch := 0, phase := .running, retireAt := none,
    valid := [] }

/-- A nest of one level and one point per cast, under a record of zeros. -/
def tNest : Nest :=
  { vdi := 0, record := List.replicate 256 0, bound := 0, cap := 0, closed := false, stopped := false, dur := none, rows := [],
    last := none, seek := none, vals := [], top := none, flushed := [], saved := [], olds := [], gone := [] }

/-- The machine, with a word of the cast's slot A at issue under the whole mask. -/
def tS : State :=
  { State.reset with
    vdis := [(0, tVdi)], troupes := [(0, tTroupe)], points := [tPoint], nests := [(0, tNest)],
    ctxs := [(.cast 0 0 0, tCtx), (.cue 0 0, tCtx)], hands := [(.rigger 0 0, tHand)], mem := tMem,
    cur := { Cur.idle with em := BitVec.allOnes 32, stamp := 1, group := 1, tag := 1 } }

/-- The machine with registers `c` in a unit, whose word is at issue. -/
def tIn (u : UnitId) (c : Ctx) : State :=
  { tS with ctxs := tS.ctxs.put u c, cur := { tS.cur with turn := { unit := u, slotB := false, resume := false } } }

def tAt (c : Ctx) : State := tIn (.cast 0 0 0) c

/-- The cast with scalar registers set. -/
def tRegs (l : List (Nat × Dword)) : Ctx := l.foldl (fun c p => { c with s := c.s.setIfInBounds p.1 p.2 }) tCtx

/-- The cast at a privilege level. -/
def tLvl (n : BitVec 2) (c : Ctx) : Ctx := { c with a := { c.a with plvl := n } }

/-- The machine with the stagehand's instruction at issue. -/
def tRig : State := { tS with cur := { tS.cur with turn := { unit := .rigger 0 0, slotB := false, resume := false } } }

/-- One step of a cast at the start of its code, of `w`, with registers `c`; the cast's registers after it. -/
def tRun (c : Ctx) (w : Nat) : Option Ctx :=
  match step ((tAt c).withFetchWord 64 w) with
  | .next t => t.ctxs.find (.cast 0 0 0)
  | _ => none

/-- A word that holds its path. -/
def tHeld : Held :=
  { instr := .nop, pos := 0, mstep := none, word := 0, nextPos := 4, after := 4, afterStep := none, em := BitVec.allOnes 32, fm := 0,
    since := 0, vals := [], asleep := false, tag := 1, leads := false }

/-- An access of the cast that is under way, of all lanes. -/
def tFar : FarOp :=
  { id := 1, unit := .cast 0 0 0, pid := 1, instr := .ldg 1 2 0 0 0, pos := 0, mstep := none, after := 4, afterStep := none, word := 0,
    cls := .g, lanes := BitVec.allOnes 32, todo := BitVec.allOnes 32, va := List.replicate 32 0, wild := 0,
    pa := List.replicate 32 (some 0), hits := [], data := List.replicate 32 0, data2 := [], old := [], dest := none, rel := false, acq := false,
    scope := 0, level := 0, checked := false, done := false, moving := false, tile := [], rows := 0 }

/-- A dense handle of one level of sixteen FP32 elements, at address 0x30000 (R215). -/
def tHandle : Handle := ((Vector.replicate 8 (0 : Dword)).setIfInBounds 0 0x8000000000000000).setIfInBounds 1 16 |>.setIfInBounds 3 0x30000


/-! ### The hypotheses of each statement are met -/

theorem test_meets_ScalarArithmetic :
    (tAt tCtx).issuing tCtx ∧ (tIn (.cue 0 0) tCtx).issuing tCtx ∧ (tIn (.board 0 0) tCtx).issuing tCtx := ⟨rfl, rfl, rfl⟩

theorem test_meets_ScalarMultiplyDivide :
    let c := tRegs [(1, 0x8000000000000000), (2, 0xFFFFFFFFFFFFFFFF)]
    let s := tAt c
    s.issuing c ∧ c.rdS s.issue 3 = 0#64 ∧ (c.rdS s.issue 1).toInt = -2 ^ 63 ∧ (c.rdS s.issue 2).toInt = -1 ∧ c.rdS s.issue 2 ≠ 0#64 ∧
    fMaj 0x01800007 = 6 ∧ 7 ≤ (fld (0x01800007 : Word) 0 4).toNat ∧ fMaj 0x01830426 = 6 ∧
    decode .cast 0x01830426 0 = .ok (.remu 3 1 2) := by
  refine ⟨rfl, ?_⟩; decide

theorem test_meets_ScalarBitsCompare :
    let c := tRegs [(1, 0x8000000000000000), (2, 1)]
    let s := tAt c
    s.issuing c ∧ c.rdS s.issue 3 = 0#64 ∧ (c.rdS s.issue 1).getLsbD 63 = true ∧ (c.rdS s.issue 2).getLsbD 0 = true ∧
    ∀ j, 0 < j → (c.rdS s.issue 2).getLsbD j = false := by
  refine ⟨rfl, rfl, rfl, rfl, fun j hj => ?_⟩
  by_cases h : j < 64
  · exact (show ∀ j : Fin 64, 0 < j.val → (1#64).getLsbD j.val = false by decide) ⟨j, h⟩ hj
  · exact BitVec.getLsbD_of_ge _ _ (by omega)

theorem test_meets_SelectRule :
    let c := tRegs [(15, 0x8000000000000000)]
    let s := tAt c
    s.issuing c ∧ c.rdS s.issue (BitVec.ofNat 6 (15 : BitVec 4).toNat) ≠ 0#64 ∧ c.rdS s.issue (BitVec.ofNat 6 (0 : BitVec 4).toNat) = 0#64 := by
  refine ⟨rfl, ?_⟩; decide

theorem test_meets_ScalarConstants : (tAt tCtx).issuing tCtx := rfl

theorem test_meets_VectorArithmetic : (tAt tCtx).issuing tCtx ∧ (31 : BitVec 7).toNat ≤ 31 := ⟨rfl, by decide⟩

theorem test_meets_VectorSaturateAccumulate : (tAt tCtx).issuing tCtx := rfl

theorem test_meets_VectorMasksTags : (tAt tCtx).issuing tCtx ∧ (1 : Word) ≠ 0#32 ∧ (1 : Word) ≠ BitVec.allOnes 32 := ⟨rfl, by decide⟩

theorem test_meets_VectorFloat : (tAt tCtx).issuing tCtx := rfl

/-- Both operands a NaN, one, and none. -/
theorem test_meets_VectorFloat_extremes :
    let nan := fun (w : Word) => 0x7F800000 < w.toNat % 2 ^ 31
    nan 0xFF800001 ∧ nan 0x7FFFFFFF ∧ ¬ nan 0x7F800000 ∧ ¬ nan 0x80000000 := by decide

theorem test_meets_VectorTranscendental :
    (tAt tCtx).issuing tCtx ∧ 0x7F800000 < (0x7F800001 : Word).toNat % 2 ^ 31 ∧ 0x7F800000 < (0xFFFFFFFF : Word).toNat % 2 ^ 31 ∧
    0x80000000 < (0x80000001 : Word).toNat ∧ (0xFF800000 : Word).toNat ≤ 0xFF800000 ∧ frsq 0x80000001 = (0x7FC00000, 1) ∧
    flog2 0xFF800000 = (0x7FC00000, 1) := by
  refine ⟨rfl, ?_⟩; decide

theorem test_meets_VectorConvertPack :
    (tAt tCtx).issuing tCtx ∧ (1#3, 8) ∈ [(0#3, 16), (1#3, 8), (2#3, 4)] ∧ (3 : BitVec 6).toNat < 32 / 8 ∧ (7 : BitVec 6).toNat < 32 / 4 := by
  refine ⟨rfl, ?_⟩; decide

/-- A code of a format that is a NaN, an infinity or a number. -/
theorem test_meets_VectorConvertPack_values :
    (fmtOf 1).decode (0x7FC0 : Word).toNat = .nan ∧ (fmtOf 4).decode (0xFC : Word).toNat = .inf true ∧
    (fmtOf 0).decode (0x3FC00000 : Word).toNat = .fin false 12582912 (-23) ∧ (∀ m ∈ [Mode.rne, .rz, .rdn, .rup], convert (fmtOf 0) (fmtOf 0xA) m true 0x41000000 = (7, 0x40)) := by
  decide +kernel

/-- The value 1, which no format's largest is below. -/
theorem test_meets_RoundingRule : ∀ f ∈ [fp32, bf16, fp16, e4m3, e5m2, e3m2, e2m3, e2m1],
    |(1 : Rat) * (2 : Rat) ^ (0 : Int)| ≤ f.maxM * (2 : Rat) ^ f.maxE := by
  intro f hf
  simp only [List.mem_cons, List.not_mem_nil, or_false] at hf
  rcases hf with rfl | rfl | rfl | rfl | rfl | rfl | rfl | rfl <;>
    norm_num [fp32, bf16, fp16, e4m3, e5m2, e3m2, e2m3, e2m1]

theorem test_meets_VectorLanes : (tAt tCtx).issuing tCtx := rfl

theorem test_meets_VectorReduceScan : (tAt tCtx).issuing tCtx := rfl

/-- A branch taken to packet 0 and to the last packet, and one that is not taken. -/
theorem test_meets_ConditionalBranches :
    let c := tRegs [(1, 0x100000000)]
    let s := tAt c
    s.issuing c ∧ c.rdS s.issue 1 ≠ 0#64 ∧ c.rdS s.issue 2 = 0#64 ∧
    (let t : Int := (s.cur.pos / 4 : Nat) + (3 : BitVec 15).toInt
     0 ≤ t ∧ t < codePackets (s.code s.unit) ∧ ¬ t + 1 < codePackets (s.code s.unit)) ∧
    s.cur.em ≠ 0#32 ∧ s.cur.em = 0xFFFFFFFF#32 ∧ fMaj 0x04B00000 = 0x12 ∧ fld (0x04B00000 : Word) 20 2 = 3#2 ∧
    exec (.setem 1) s = .next (s.setCtx s.unit (c.setPath false { s.here c with em := 0 })) := by
  refine ⟨rfl, by decide, by decide, by decide, by decide, by decide, by decide, by decide, by rfl⟩

/-- The word at packet 0: a branch to the last packet, one beyond it and one before the code; a macro that is held. -/
theorem test_meets_BranchesAndCalls :
    let c := tRegs [(1, 4), (2, 0xFFFFFFFF)]
    let s := tAt c
    s.issuing c ∧ s.handledAt c 1 ∧ (tAt (tLvl 1 c)).handledAt (tLvl 1 c) 2 ∧
    (let packets : Int := codePackets (s.code s.unit)
     packets = 4 ∧ (0 + (3 : BitVec 21).toInt < packets ∧ packets ≤ 0 + (4 : BitVec 21).toInt ∧ 0 + (-1 : BitVec 21).toInt < 0) ∧
     packets ≤ ((c.rdS s.issue 1).toNat % 2 ^ 30 : Nat)) ∧
    c.rdS s.issue 1 ≠ 0#64 ∧ c.rdS s.issue 3 = 0#64 ∧ s.cur.em &&& (c.rdS s.issue 3).setWidth 32 = 0#32 ∧
    s.cur.em &&& ~~~ (c.rdS s.issue 2).setWidth 32 = 0#32 ∧ s.cur.em ≠ 0#32 ∧ s.cur.em = 0xFFFFFFFF#32 ∧
    ({ s with cur := { s.cur with em := 0 } }).issuing c ∧ ({ s with cur := { s.cur with em := 0 } }).handledAt c 1 ∧
    (s.quad s.unit.quadKey).macros.find 127 = none ∧
    ((s.setQuad 0 { Quad.zero with macros := [(127, { ops := [0], marks := [0] })] }).quad s.unit.quadKey).macros.find 127 ≠ none := by
  unfold State.handledAt
  and_intros <;> first | decide +kernel | rfl

/-- A branch out of the code while an earlier word of its group holds the path, and where the mask is full. -/
theorem test_meets_BranchesAndCalls_held :
    let c : Ctx := { tCtx with a := { tCtx.a with held := some tHeld } }
    let s := tAt c
    s.issuing c ∧ s.handledAt c 1 ∧ (s.here c).held ≠ none ∧ (codePackets (s.code s.unit) : Int) ≤ 0 + (4 : BitVec 21).toInt ∧
    s.cur.em &&& (c.rdS s.issue 1).setWidth 32 = 0#32 := by
  unfold State.handledAt
  and_intros <;> first | decide +kernel | rfl

/-- A split with sixty-four free entries and a free slot, and one with no free entry; the ends of a path with no parent. -/
theorem test_meets_PathSplitsEnds :
    let c := tRegs [(1, 1)]
    let d : Ctx := { c with dsmap := BitVec.allOnes 64 }
    let s := tAt c
    s.issuing c ∧ s.cur.em &&& (c.rdS s.issue 1).setWidth 32 ≠ 0#32 ∧ s.cur.em &&& ~~~ (c.rdS s.issue 1).setWidth 32 ≠ 0#32 ∧
    (let t : Int := (s.cur.pos / 4 : Nat) + (1 : BitVec 16).toInt
     0 ≤ t ∧ t < codePackets (s.code s.unit)) ∧
    (∃ r more, c.freeEntries = r :: more) ∧ (c.path true).live = false ∧ (tAt d).issuing d ∧ (tAt d).handledAt d 1 ∧ d.freeEntries = [] ∧
    s.unit.kind = .cast ∧ (s.here c).parent = none ∧ (s.here c).live = true ∧ s.oldestSpilled s.unit c = none ∧
    (tIn (.cue 0 0) c).issuing c ∧ (tIn (.cue 0 0) c).unit.kind ≠ .cast := by
  unfold State.handledAt
  and_intros <;> first | decide +kernel | rfl | exact ⟨_, _, rfl⟩

/-- The entry of the cast's stack that a test writes. -/
def tStk (kind : Nat) (arrived : Bool) (pc : Nat) : Stk :=
  { em := 1, pc := pc, fm := 0, seq := 0, parent := none, cf := false, arrived := arrived, plvl := 0, kind := kind }

/-- The cast with entries of its stack. -/
def tStacked (c : Ctx) (l : List (Nat × Stk)) : State := l.foldl (fun s e => s.setStack s.unit e.1 e.2) (tAt c)

/-- A split with both slots taken, with free entries and with one. -/
theorem test_meets_PathSplitsEnds_both :
    let c : Ctx := { tRegs [(1, 1)] with b := { Path.start 0 with pid := 2 } }
    let d : Ctx := { c with dsmap := BitVec.allOnes 64 <<< 1 }
    (tAt c).issuing c ∧ (∃ r k more, c.freeEntries = r :: k :: more) ∧ (c.path true).live = true ∧
    (tAt d).issuing d ∧ (tAt d).handledAt d 1 ∧ d.freeEntries = [0] ∧ (d.path true).live = true := by
  unfold State.handledAt
  and_intros <;> first | decide +kernel | rfl | exact ⟨_, _, _, rfl⟩

/-- The first child at a JOIN and at its end, with no spilled path and with one that takes its slot; the second. -/
theorem test_meets_PathSplitsEnds_children :
    let c : Ctx := { tCtx with a := { tCtx.a with parent := some 3 }, b := { Path.start 0 with pid := 2 }, dsmap := 8 }
    let d : Ctx := { c with dsmap := 0x28, nspill := 1 }
    let s := tStacked c [(3, tStk 1 false 0)]
    let x := tStacked d [(3, tStk 1 false 0), (5, tStk 2 false 8)]
    let y := tStacked c [(3, tStk 1 true 8)]
    let left := fun (t : State) (e : Ctx) => t.setStack t.unit 3 { t.stack t.unit 3 with em := (t.here e).em, arrived := true, pc := (t.here e).pc }
    let gone := s.setStack s.unit 3 { s.stack s.unit 3 with arrived := true, pc := exitedPc }
    s.issuing c ∧ s.unit.kind = .cast ∧ (s.here c).parent = some 3 ∧ (s.stack s.unit 3).arrived = false ∧ (left s c).oldestSpilled s.unit c = none ∧
    x.issuing d ∧ (x.here d).parent = some 3 ∧ (x.stack x.unit 3).arrived = false ∧ (left x d).oldestSpilled x.unit d = some 5 ∧ (d.path true).live = true ∧
    y.issuing c ∧ (y.stack y.unit 3).arrived = true ∧ (∀ k ∈ c.usedEntries, k = 3) ∧ s.pathFar s.unit (s.here c) = false ∧
    gone.oldestSpilled s.unit c = none ∧ y.pathFar y.unit (y.here c) = false ∧ (y.stack y.unit 3).pc ≠ exitedPc := by
  and_intros <;> first | decide +kernel | rfl

/-- The second child exits after the first has: its parent is the first path, or the first child of another split. -/
theorem test_meets_PathSplitsEnds_gone :
    let c : Ctx := { tCtx with a := { tCtx.a with parent := some 3 }, dsmap := 0x18 }
    let s := tStacked c [(3, tStk 1 true exitedPc), (4, tStk 1 false 0)]
    let y := tStacked c [(3, { tStk 1 true exitedPc with parent := some 4 }), (4, tStk 1 false 0)]
    let freed := fun (t : State) => t.setStack t.unit 3 { t.stack t.unit 3 with kind := 0 }
    s.issuing c ∧ s.unit.kind = .cast ∧ s.pathFar s.unit (s.here c) = false ∧ (s.here c).parent = some 3 ∧ (s.stack s.unit 3).arrived = true ∧
    (s.stack s.unit 3).pc = exitedPc ∧ (s.stack s.unit 3).parent = none ∧ (∀ k ∈ c.usedEntries, k ≠ 3 → ((freed s).stack s.unit k).kind ≠ 2) ∧
    y.issuing c ∧ (y.stack y.unit 3).arrived = true ∧ (y.stack y.unit 3).pc = exitedPc ∧ (y.stack y.unit 3).parent = some 4 ∧
    (∀ k ∈ c.usedEntries, k ≠ 3 → ((freed y).stack y.unit k).kind ≠ 2) ∧ ((freed y).stack y.unit 4).arrived = false := by
  and_intros <;> first | decide +kernel | rfl

/-- A YIELD with a spilled path, and an EXIT with one while the other slot is taken; an EXIT with an access under way. -/
theorem test_meets_PathSplitsEnds_busy :
    let c : Ctx := { tCtx with b := { Path.start 0 with pid := 2 }, dsmap := 0x20, nspill := 1 }
    let s := tStacked c [(5, tStk 2 false 8)]
    let busy : State := { tAt tCtx with fars := [tFar] }
    s.issuing c ∧ s.unit.kind = .cast ∧ (s.here c).live = true ∧ s.oldestSpilled s.unit c = some 5 ∧ s.pathFar s.unit (s.here c) = false ∧
    (s.here c).parent = none ∧ (c.path true).live = true ∧
    busy.issuing tCtx ∧ busy.pathFar busy.unit (busy.here tCtx) = true ∧ (busy.here tCtx).held = none ∧
    (tAt tCtx).pathFar (tAt tCtx).unit ((tAt tCtx).here tCtx) = false := by
  and_intros <;> first | decide +kernel | rfl

theorem test_meets_MaskAndFormat :
    let c := tRegs [(1, 0xFFFFFFFF)]
    let s := tAt c
    s.issuing c ∧ s.handledAt c 1 ∧ fmLegal ((c.rdS s.issue 1).setWidth 32) = false ∧ fmLegal ((c.rdS s.issue 2).setWidth 32) = true := by
  unfold State.handledAt
  and_intros <;> first | decide +kernel | rfl

theorem test_meets_ExceptionEntryReturn :
    let c := { tLvl 1 tCtx with sup := { Level.zero with busy := some 1, cause := 0x200 } }
    let d := { tLvl 1 tCtx with sup := { Level.zero with busy := some 1, cause := 0x300 } }
    let s := tAt c
    (tAt tCtx).issuing tCtx ∧ (tAt tCtx).handledAt tCtx 1 ∧ s.issuing c ∧ s.handledAt c 2 ∧
    ((c.level (s.here c).plvl).cause.toNat / 2 ^ 8) % 4 ≠ 3 ∧ c.parked = [] ∧ (tAt d).issuing d ∧ (tAt d).handledAt d 2 ∧
    ((d.level ((tAt d).here d).plvl).cause.toNat / 2 ^ 8) % 4 = 3 := by
  unfold State.handledAt
  and_intros <;> first | decide +kernel | rfl

/-- A lane of the cast's load that has faulted at level 0. -/
def tPark (lane : Nat) : Park :=
  { lane := lane, level := 1, pid := 1, rec0 := 0, rec1 := 0, rec2 := 0, rec3 := 0, cause := .pageFault, op := { tFar with lanes := 1, todo := 1 } }

/-- A TRAP after a word that still holds the path; an ERET that issues an access again, and one that waits because as many are under
way as the counter counts. -/
theorem test_meets_ExceptionEntryReturn_replay :
    let h : Ctx := { tCtx with a := { tCtx.a with held := some tHeld } }
    let c : Ctx := { tLvl 1 tCtx with sup := { Level.zero with busy := some 1, em := 1 }, parked := [tPark 0] }
    let s := tAt c
    let x : State := { s with fars := (List.range 63).map (fun k => { tFar with id := k + 2, todo := 0, done := false }) }
    (tAt h).issuing h ∧ (tAt h).handledAt h 1 ∧ ((tAt h).here h).held ≠ none ∧ s.issuing c ∧ ((c.level (s.here c).plvl).cause.toNat / 2 ^ 8) % 4 ≠ 3 ∧
    s.replayFull s.unit c (s.here c) = false ∧ c.parked ≠ [] ∧ active (c.level (s.here c).plvl).em 0 = true ∧ active (c.level (s.here c).plvl).park 0 = false ∧
    x.issuing c ∧ x.replayFull x.unit c (x.here c) = true ∧ (x.here c).held = none := by
  unfold State.handledAt
  and_intros <;> first | decide +kernel | rfl

/-- An ERET that reads the scratchpad again for a lane whose word was poisoned. -/
theorem test_meets_ExceptionEntryReturn_own :
    let k : Park := { tPark 0 with op := { (tPark 0).op with instr := .lds 1 2 3 4, cls := .fetch, dest := some 55, va := List.replicate 32 0xFEFFC } }
    let c : Ctx := { tLvl 1 tCtx with sup := { Level.zero with busy := some 1, em := 1 }, parked := [k] }
    let s := tAt c
    s.issuing c ∧ ((c.level (s.here c).plvl).cause.toNat / 2 ^ 8) % 4 ≠ 3 ∧ s.replayFull s.unit c (s.here c) = false ∧ c.parked = [k] ∧
    active (c.level (s.here c).plvl).em 0 = true ∧ active (c.level (s.here c).plvl).park 0 = false ∧ k.op.cls = .fetch ∧ k.op.instr = .lds 1 2 3 4 ∧
    k.op.dest = some 55 ∧ k.lane < 32 ∧ (∀ j, j < 4 → ((k.op.va.getD k.lane 0).toNat + j) / 4 ∉ s.scratchPoison) := by
  and_intros <;> first | decide +kernel | rfl | exact fun _ _ h => absurd h (by decide)

/-- SCENE in a diverged cast, with a counter above zero, and quiet; and the entry write of a cast that sleeps. -/
theorem test_meets_Scenes :
    let c := tCtx
    let s := tAt c
    let two : Ctx := { c with b := { Path.start 0 with pid := 2 } }
    let busy : State := { s with fars := [{ tFar with cls := .g }] }
    let h : Held := { tHeld with instr := .scene 0 8, asleep := true, tag := 5 }
    let z : Ctx := { c with a := { c.a with held := some h } }
    let e : State := { tAt z with ev := { kind := .sceneCommitComplete, unit := .cast 0 0 0, id := 5 } }
    s.issuing c ∧ s.cur.vals = none ∧ (s.here c).held = none ∧ s.castPaths s.unit ≤ 1 ∧ s.counter s.unit .g = 0 ∧ s.counter s.unit .a = 0 ∧
    s.counter s.unit .t = 0 ∧ s.counter s.unit .x = 0 ∧ busy.issuing c ∧ busy.counter busy.unit .g ≠ 0 ∧
    (tAt two).issuing two ∧ (tAt two).handledAt two 1 ∧ 1 < (tAt two).castPaths (tAt two).unit ∧
    e.ctxs.find e.ev.unit = some z ∧ e.troupeOf e.ev.unit = some (0, tTroupe) ∧ z.sleeper e.ev.id = some h ∧ e.pointOf tTroupe = some tPoint ∧
    e.vdis.find tTroupe.vdi = some tVdi := by
  unfold State.handledAt
  and_intros <;> first | decide +kernel | rfl


/-- At the last word of the scratchpad below the stack; one byte off; and at the stack, first and last lane. -/
theorem test_meets_ScratchAccess :
    let c : Ctx := { tRegs [(1, 0xFEFFC)] with v := tCtx.v.setIfInBounds 3 (.uni 0xFEFFC) }
    let e : Ctx := { tRegs [(1, 0xFEFFC)] with v := tCtx.v.setIfInBounds 2 (.gen (List.replicate 31 0 ++ [1])) }
    let o : Ctx := { tRegs [(1, 0xFEFFC)] with v := tCtx.v.setIfInBounds 2 (.gen (4 :: List.replicate 31 0)) }
    let s := tAt c
    let addr := fun (x : Ctx) (l : Nat) => ((x.rdS (tAt x).issue 1).toNat : Int) + ((x.rdV (tAt x).issue 2).lane l).toInt
    let aligned := fun (x : Ctx) l => addr x l % 4 = 0
    let inside := fun (x : Ctx) l => 0 ≤ addr x l ∧ addr x l < (1 : Nat) * 2 ^ 20 ∧ addr x l % 2 ^ 20 < 0xFF000
    s.issuing c ∧ s.troupeOf s.unit = some (0, tTroupe) ∧ s.cur.em ≠ 0#32 ∧ s.scratch.wf = true ∧
    (∀ l, l < 32 → aligned c l ∧ inside c l ∧ ∀ j, j < 4 → s.scratchPoison.contains ((tTroupe.scratchAddr (addr c l).toNat + j) / 4) = false) ∧
    (∀ l, l < 32 → let a := ((c.rdV s.issue 3).lane l).toNat; a % 4 = 0 ∧ a < tTroupe.quads.length * 2 ^ 20 ∧ a % 2 ^ 20 < 0xFF000 ∧
      s.scratchPoison.contains (tTroupe.scratchAddr a / 4) = false) ∧
    (tAt e).issuing e ∧ (tAt e).handledAt e 1 ∧ (∀ j, j < 31 → aligned e j ∧ inside e j) ∧ active (tAt e).cur.em 31 = true ∧ ¬ aligned e 31 ∧
    (tAt o).issuing o ∧ (tAt o).handledAt o 1 ∧ active (tAt o).cur.em 0 = true ∧ aligned o 0 ∧ ¬ inside o 0 := by
  unfold State.handledAt
  and_intros <;> first | decide +kernel | rfl

/-- A word with no lane; a compare-and-swap that fails in its first lane, and one that succeeds in every lane. -/
theorem test_meets_ScratchAccess_swap :
    let c : Ctx := { tCtx with v := tCtx.v.setIfInBounds 1 (.uni 5) }
    let s := tAt c
    let z : State := { s with cur := { s.cur with em := 0 } }
    s.issuing c ∧ s.troupeOf s.unit = some (0, tTroupe) ∧ (0xA : BitVec 4).toNat ≤ 0xB ∧ active s.cur.em 0 = true ∧
    (∀ l, l < 32 → let a := ((c.rdV s.issue 2).lane l).toNat; a % 4 = 0 ∧ a < tTroupe.quads.length * 2 ^ 20 ∧ a % 2 ^ 20 < 0xFF000 ∧
      s.scratchPoison.contains (tTroupe.scratchAddr a / 4) = false ∧ s.scratch.word (tTroupe.scratchAddr a) ≠ (c.rdV s.issue 1).lane 0 ∧
      s.scratch.word (tTroupe.scratchAddr a) = (c.rdV s.issue 3).lane l) ∧
    z.issuing c ∧ (∀ l, l < 32 → active z.cur.em l = false) := by
  and_intros <;> first | decide +kernel | rfl

/-- An atomic at the last word below the stack that releases at .device; one byte off; and at the stack, first and last lane. -/
theorem test_meets_ScratchAccess_atomic :
    let c : Ctx := { tCtx with v := tCtx.v.setIfInBounds 2 (.uni 0xFEFFC) }
    let e : Ctx := { c with v := tCtx.v.setIfInBounds 2 (.gen (List.replicate 31 0 ++ [0xFF001])) }
    let o : Ctx := { c with v := tCtx.v.setIfInBounds 2 (.gen (0xFF000 :: List.replicate 31 0)) }
    let s := tAt c
    let addr := fun (x : Ctx) (l : Nat) => ((x.rdV (tAt x).issue 2).lane l).toNat
    let inside := fun (x : Ctx) l => addr x l < tTroupe.quads.length * 2 ^ 20 ∧ addr x l % 2 ^ 20 < 0xFF000
    s.issuing c ∧ s.troupeOf s.unit = some (0, tTroupe) ∧ (0xB : BitVec 4).toNat ≤ 0xB ∧ (2 : BitVec 2).getLsbD 1 = true ∧ 2 ≤ (2 : BitVec 2).toNat ∧
    (∀ l, l < 32 → addr c l % 4 = 0 ∧ inside c l ∧ s.scratchPoison.contains (tTroupe.scratchAddr (addr c l) / 4) = false) ∧
    (tAt e).issuing e ∧ (tAt e).handledAt e 1 ∧ (∀ j, j < 31 → addr e j % 4 = 0 ∧ inside e j) ∧ active (tAt e).cur.em 31 = true ∧ addr e 31 % 4 ≠ 0 ∧
    (tAt o).issuing o ∧ (tAt o).handledAt o 1 ∧ active (tAt o).cur.em 0 = true ∧ addr o 0 % 4 = 0 ∧ ¬ inside o 0 := by
  unfold State.handledAt
  and_intros <;> first | decide +kernel | rfl

/-- Far words with lanes and without; a tile of sixteen words that ends at the stack; remote words to the own core. -/
theorem test_meets_FarIssue :
    let c : Ctx := { tRegs [(1, 0xFEFC0), (11, 16)] with h := tCtx.h.setIfInBounds 0 tHandle, v := tCtx.v.setIfInBounds 2 (.uni 0xFEFFC) }
    let s := tAt c
    let z : State := { s with cur := { s.cur with em := 0 } }
    let origin := c.rdS s.issue 10
    let extent := c.rdS s.issue 11
    let n := ((c.rdV s.issue 2).lane 0).toNat
    s.issuing c ∧ s.cur.em ≠ 0#32 ∧ s.troupeOf s.unit = some (0, tTroupe) ∧ hLegal (c.handle 0) = true ∧ tileFits (c.handle 0) origin extent = true ∧
    (c.rdS s.issue 1).toNat % 64 = 0 ∧
    tTroupe.regionBad (c.rdS s.issue 1).toNat (if (extentOf (c.handle 0) extent).contains 0 then 0
      else tileBytes (elemWidth (hFmt (c.handle 0))) (hSpitch (c.handle 0)) (extentOf (c.handle 0) extent)) = false ∧
    hDense (c.handle 0) = true ∧ z.issuing c ∧ z.cur.em = 0#32 ∧ z.troupeOf z.unit = some (0, tTroupe) ∧
    s.vdis.find (s.vdiOf s.unit) = some tVdi ∧ n < 2 ^ 22 ∧ coreOffset s.unit.place.1 0 0 = some 0 ∧ tVdi.hasCore 0 = true ∧
    s.troupeAt 0 (n / 2 ^ 20 % 4) = some (0, tTroupe) ∧ tTroupe.vdi = s.vdiOf s.unit ∧ n % 4 = 0 ∧ n % 2 ^ 20 < 0xFF000 ∧
    inFootprint tVdi.img 0 0 = true := by
  unfold State.issuing
  and_intros <;> first | decide +kernel | rfl

theorem test_meets_FenceWaitTranslate :
    let c := tCtx
    let s := tAt c
    let p : State := { s with fars := [{ tFar with id := 0 }] }
    let t : State := { s with cur := { s.cur with vals := some [0x3FFFFFFF, 1] } }
    s.issuing c ∧ (s.here c).held = none ∧ s.cur.vals = none ∧ (∀ f ∈ s.fars, f.performed = true) ∧ s.counter s.unit .g ≤ (0 : BitVec 6).toNat ∧
    p.issuing c ∧ (p.fars.any (fun f => decide (f.unit = p.unit) && decide (f.id < p.cur.tag) && decide (f.cls = .g) && !f.performed)) = true ∧
    (0 : BitVec 6).toNat < p.counter p.unit .g ∧
    t.issuing c ∧ addressCheck (0x3FFFFFFF : Int) 1 = none ∧ (t.translate (t.vdiOf t.unit) 0x3FFFFFFF).2.isOk = true := by
  and_intros <;> first | decide +kernel | rfl | exact ⟨_, rfl⟩

/-- A walk that both stages answer, to an address that something backs. -/
theorem test_meets_FenceWaitTranslate_walk :
    (match tS.translate (tS.vdiOf tS.unit) 0x3FFFFFFF with | (s2, .ok x) => s2.backed x.pa | _ => false) = true := by decide +kernel

/-- A load's lanes 0 to 31; a device store; an atomic's result; a tile without rows, and one of one row. -/
theorem test_meets_FarAccessPerforms :
    let f : FarOp := { tFar with checked := true, dest := some 55 }
    let g : FarOp := { tFar with instr := .stg 1 2 0 2 2, checked := true, scope := 2 }
    let a : FarOp := { tFar with instr := .atom 1 2 0 0 0 0, cls := .a, todo := 0, dest := some 0 }
    let t0 : FarOp := { tFar with instr := .tld 1 10 0, cls := .t, tile := tHandle.toList ++ [0, 0, 0] }
    let t1 : FarOp := { t0 with tile := tHandle.toList ++ [0, 1, 0xFEFC0], checked := true }
    let on := fun (x : FarOp) => ({ tAt tCtx with fars := [x], ev := { kind := .nop, id := 1, word := BitVec.allOnes 32 } } : State)
    let finds := fun (x : FarOp) => (on x).fars.find? (fun y => decide (y.id = (on x).ev.id)) = some x
    finds f ∧ (on f).troupeOf f.unit = some (0, tTroupe) ∧ (on f).ctxs.find f.unit = some tCtx ∧ ((on f).ev.word &&& f.todo) ≠ 0#32 ∧
    (on f).mayPerform f ((on f).ev.word &&& f.todo) = true ∧ (on f).homeBad tTroupe 0 4 = false ∧
    finds g ∧ (on g).mayPerform g ((on g).ev.word &&& g.todo) = true ∧ 2 ≤ g.scope.toNat ∧ g.rel = false ∧ (on g).mem.wf = true ∧
    (∀ l : Nat, g.hits[l]?.getD none = none) ∧ (∀ l : Nat, (on g).heldEntry tTroupe (((g.pa[l]?.getD none).getD 0) / 64) = none) ∧
    finds a ∧ isRmw a.instr = true ∧ a.todo = 0#32 ∧ a.done = false ∧ (on a).ev.flag = false ∧ a.casFailed = false ∧
    finds t0 ∧ t0.todo ≠ 0#32 ∧ t0.tileOf.rowCount = 0 ∧ finds t1 ∧ t1.checked = true ∧ t1.tileOf.rowCount = 1 ∧
    (((on t1).rowIn t1.unit t1.tileOf 0).2.isOk) = true := by
  and_intros <;> first | decide +kernel | rfl | exact fun _ => rfl

/-- An atomic at the home, and one of each class whose compare-and-swap has failed; a tile's check and its rows. -/
theorem test_meets_FarAccessPerforms_more :
    let a : FarOp := { tFar with instr := .atom 1 2 0 0 0 0, cls := .a, checked := true }
    let x : FarOp := { tFar with instr := .atom 1 2 0 0 0 7, cls := .a, todo := 0, dest := some 0, data := List.replicate 32 1, old := List.replicate 32 0 }
    let r : FarOp := { x with instr := .atoms 1 2 0xA 0 0 1 }
    let t1 : FarOp := { tFar with instr := .tld 1 10 0, cls := .t, tile := tHandle.toList ++ [0, 1, 0xFEFC0] }
    let on := fun (y : FarOp) => ({ tAt tCtx with fars := [y], ev := { kind := .nop, id := 1, word := BitVec.allOnes 32 } } : State)
    let finds := fun (y : FarOp) => (on y).fars.find? (fun z => decide (z.id = (on y).ev.id)) = some y
    let t2 : FarOp := { t1 with checked := true }
    (finds a ∧ ((on a).ev.word &&& a.todo) ≠ 0#32 ∧ (on a).mayPerform a ((on a).ev.word &&& a.todo) = true ∧ a.rel = false ∧ (on a).mem.wf = true ∧
      (∀ l : Nat, a.hits[l]?.getD none = none) ∧ (∀ l : Nat, (on a).heldEntry tTroupe (((a.pa[l]?.getD none).getD 0) / 64) = none) ∧
      (on a).homeBad tTroupe 0 4 = false ∧ 0 / 64 ∉ tFar.spoiled) ∧
    (∀ y ∈ [x, r], finds y ∧ isRmw y.instr = true ∧ y.todo = 0#32 ∧ y.done = false ∧ (on y).ev.flag = false ∧ y.casFailed = true ∧ (on y).oldestSpilled y.unit tCtx = none) ∧
    tCtx.a.live = true ∧ tCtx.a.pid = x.pid ∧
    (finds t1 ∧ t1.done = false ∧ t1.todo ≠ 0#32 ∧ t1.moving = false ∧ (on t1).hands.find t1.unit = none ∧ t1.tileOf.rowCount ≠ 0 ∧ t1.checked = false ∧
      (on t1).olderUnchecked t1 = false ∧ ((on t1).tryRows t1.unit t1.tileOf false t1.tileOf.rowCount 0).2.isOk = true) ∧
    (finds t2 ∧ (on t2).tileWaits t2 = false ∧
      ((on t2).rowsIn t2.unit t2.tileOf (t2.tileOf.chunk (t2.tileOf.rowCount - t2.rows) t2.rows) t2.rows).2.isOk = true ∧
      t2.tileOf.rowCount ≤ t2.rows + t2.tileOf.chunk (t2.tileOf.rowCount - t2.rows) t2.rows) := by
  and_intros <;> first | decide +kernel | rfl | exact fun _ => rfl

/-- Loads of each width and the remote load, a poll, a store that is absorbed, one that releases at .device, and a remote store. -/
theorem test_meets_FarAccessPerforms_forms :
    let ld : FarOp := { tFar with checked := true, dest := some 55 }
    let st : FarOp := { tFar with instr := .stg16 1 2 0 1 0, checked := true, scope := 1 }
    let rel : FarOp := { st with instr := .stg8 1 2 0 2 2, scope := 2, rel := true }
    let rx : FarOp := { tFar with instr := .ldsx 1 2 0 0 0, cls := .x, checked := true, dest := some 0 }
    let sx : FarOp := { rx with instr := .stsx 1 2 0 0 0, dest := none }
    let on := fun (y : FarOp) => ({ tAt tCtx with fars := [y], ev := { kind := .nop, id := 1, word := BitVec.allOnes 32 } } : State)
    let finds := fun (y : FarOp) => (on y).fars.find? (fun z => decide (z.id = (on y).ev.id)) = some y
    let performs := fun (y : FarOp) => finds y ∧ ((on y).ev.word &&& y.todo) ≠ 0#32 ∧ (on y).mayPerform y ((on y).ev.word &&& y.todo) = true
    (∀ q ∈ [Instr.ldg 1 2 0 0 0, .poll 1 2 0 0 0, .ldgN16 1 2 0 0 0, .ldgN8 1 2 0 0 0], performs { ld with instr := q }) ∧
    (on ld).homeBad tTroupe 0 4 = false ∧ 0 / 64 ∉ tFar.spoiled ∧ performs rx ∧ (on rx).scratchBad 0 4 = false ∧
    (performs st ∧ (on st).mem.wf = true ∧ (on st).scratch.wf = true ∧ (∀ l : Nat, st.hits[l]?.getD none = none) ∧ st.scope.toNat ≤ 1 ∧
      (∀ g ∈ (on st).fars, g.shown = []) ∧ st.unit.quadKey ∈ tTroupe.quads.map (quadKey tTroupe.core) ∧
      ((on st).quad st.unit.quadKey).entries.length ≤ 31 ∧ ∀ l, l < 32 → ((st.pa[l]?.getD none).getD 0) % 2 = 0) ∧
    (performs rel ∧ 2 ≤ rel.scope.toNat ∧ rel.rel = true ∧ (∀ l : Nat, rel.hits[l]?.getD none = none) ∧
      ∀ l : Nat, (on rel).heldEntry tTroupe (((rel.pa[l]?.getD none).getD 0) / 64) = none) ∧
    performs sx ∧ (on sx).scratch.wf = true ∧ ∀ l : Nat, sx.hits[l]?.getD none = none := by
  and_intros <;> first | decide +kernel | rfl | exact fun _ => rfl

/-- A window and an entry that have stood for 64 cycles; a store whose lanes pass; a lane that is misaligned. -/
theorem test_meets_FarEngineEvents :
    let b : State := { tAt tCtx with cycle := 64 }
    let w : State := (({ b with ev := { kind := .usherWindowClose, a := 0, b := 7 } } : State).setQuad 0 { Quad.zero with windows := [{ line := 7, opened := 0, reqs := [] }] })
    let n : Entry := { line := 7, since := 0, bytes := [(0, 1), (63, 2)], units := [] }
    let e : State := (({ b with ev := { kind := .coalesceEntryAgeDrain, a := 0, b := 7 } } : State).setQuad 0 { Quad.zero with entries := [n] })
    let g : FarOp := { tFar with instr := .stg 1 2 0 0 0 }
    let on := fun (x : FarOp) => ({ tAt tCtx with fars := [x], ev := { kind := .nop, id := 1 } } : State)
    let m : FarOp := { tFar with va := 2 :: List.replicate 31 0 }
    (∃ x ∈ (w.quad w.ev.a).windows, x.line = w.ev.b ∧ x.opened + 64 ≤ w.cycle) ∧
    e.troupeAt (e.ev.a / 4) (e.ev.a % 4) = some (0, tTroupe) ∧ e.mem.wf = true ∧ (e.quad e.ev.a).entries = [n] ∧ n.line = e.ev.b ∧ n.since + 64 ≤ e.cycle ∧
    (n.bytes.map Prod.fst).Nodup ∧
    (on g).fars.find? (fun x => decide (x.id = (on g).ev.id)) = some g ∧ g.checked = false ∧ g.done = false ∧ g.todo ≠ 0#32 ∧
    (on g).olderUnchecked g = false ∧ (on g).fits g = true ∧
    (∀ l, l < 32 → active g.wild l = false ∧ addressCheck ((g.va.getD l 0).toNat : Int) 4 = none ∧ g.pa[l]? = some (some 0)) ∧ (on g).movingAt 0 = false ∧
    (on m).fars.find? (fun x => decide (x.id = (on m).ev.id)) = some m ∧ (on m).ctxs.find m.unit = some tCtx ∧ tCtx.a.live = true ∧ tCtx.a.pid = m.pid ∧
    m.wild = 0#32 ∧ active m.todo 0 = true ∧ addressCheck ((m.va.getD 0 0).toNat : Int) 4 = some .misaligned := by
  and_intros <;> first | decide +kernel | rfl | exact ⟨_, List.mem_singleton.2 rfl, rfl, by decide⟩


/-- The move of the first GiB of the guest to the next, with a store in it that is held. -/
theorem test_meets_FarEngineEvents_move :
    let g : FarOp := { tFar with instr := .stg 1 2 0 0 0 }
    let s : State := { tAt tCtx with fars := [g], ev := { kind := .pageMoveStart, a := 0x12000 } }
    let size := pageOf (bits (s.mem.dword s.ev.a).toNat 60 3)
    let base := frameOf (s.mem.dword s.ev.a).toNat - frameOf (s.mem.dword s.ev.a).toNat % size
    let h : FarOp := { g with moving := true, lines := [1], va := List.replicate 32 64, pa := List.replicate 32 (some 64) }
    let t : State := { s with fars := [h], moves := [(0x12000, 0, 2 ^ 30)], ev := { kind := .heldWriteRetranslate, a := 0x12000, dword := 0x400000004000007F } }
    let leaf := t.ev.dword &&& ~~~ 0x80#64
    let new := frameOf leaf.toNat - frameOf leaf.toNat % 2 ^ 30
    s.moves = [] ∧ (∀ f ∈ s.fars, f.passed = false) ∧ base = 0 ∧ size = 2 ^ 30 ∧ g.done = false ∧ active g.todo 31 = true ∧ g.pa[31]? = some (some 0) ∧
    t.moves.find? (fun m => decide (m.1 = t.ev.a)) = some (0x12000, 0, 2 ^ 30) ∧ t.mem.wf = true ∧ new = 2 ^ 30 ∧ (∀ k, (tS.quad k).entries = []) ∧ t.quads = tS.quads ∧
    h.moving = true ∧ (∃ l ∈ h.lines, 0 ≤ 64 * l ∧ 64 * l < 0 + 2 ^ 30) := by
  and_intros <;> first | decide +kernel | rfl | exact fun _ => rfl | exact ⟨1, by decide +kernel, by decide, by decide⟩

/-- The premises of the end of that move; and a leaf of 64 KiB, which stands in sixteen entries. -/
theorem test_meets_FarEngineEvents_leaves :
    let s : State := { tAt tCtx with moves := [(0x12000, 0, 2 ^ 30)], ev := { kind := .heldWriteRetranslate, a := 0x12000, dword := 0x400000004000007F } }
    let leaf := s.ev.dword &&& ~~~ 0x80#64
    let new := frameOf leaf.toNat - frameOf leaf.toNat % 2 ^ 30
    let m : Memory := (List.range 16).foldl (fun (m : Memory) k => m.putDword (0x40000 + 8 * k) (0x100000000010007F + BitVec.ofNat 64 (0x1000 * k))) []
    let w : State := { tAt tCtx with mem := m, ev := { kind := .pageMoveStart, a := 0x40018 } }
    let t : State := { w with moves := [(0x40000, 0x100000, 0x10000)], ev := { kind := .heldWriteRetranslate, a := 0x40018, dword := 0x100000000020007F } }
    let wide := t.ev.dword &&& ~~~ 0x80#64
    bits (s.mem.dword 0x12000).toNat 60 3 = 4 ∧ bits leaf.toNat 60 3 = 4 ∧ 0 + 2 ^ 30 ≤ new ∧ 0x12000 + 8 ≤ new ∧ (∀ k, (tS.quad k).entries = []) ∧
    bits (w.mem.dword 0x40018).toNat 60 3 = 1 ∧ 0x40018 - 0x40018 % 128 + 8 * 3 = 0x40018 ∧ (∀ x ∈ w.moves, x.1 ≠ 0x40000) ∧ (∀ f ∈ w.fars, f.passed = false) ∧
    t.mem.wf = true ∧ bits wide.toNat 60 3 = 1 ∧ (frameOf wide.toNat - frameOf wide.toNat % 0x10000) = 0x200000 ∧
    pageOf (bits (t.mem.dword 0x40000).toNat 60 3) = 0x10000 ∧ frameOf (t.mem.dword 0x40000).toNat = 0x100000 := by
  and_intros <;> first | decide +kernel | rfl | exact fun _ => rfl

/-! The translations of bytes 0 to 319 are the same whether or not the first translation has stayed cached (R143), so a
descriptor at 0 and a record at 0x40 can be read whatever the free values are. -/

def tOne : Leaf := { base := 0, size := 0x40000000, target := 0, r := true, w := true, x := true, u := true, entry := 0x22000, moving := false, word := 0x400000000000007F }
def tTwo : Leaf := { tOne with entry := 0x12000 }

/-- The pages in which the three tables of the walk stand. -/
def tVia : List (Nat × Nat) := List.replicate 3 (0, 0x40000000)

def tCopy : Copy := { vdi := 0, addr := 0x100, w0 := 0, src := 0x40, dst := 0x48, len := 1, pos := 0, faulted := false }

/-- The entry write of a scene goes through stage 2, which maps its page (R181). -/
theorem test_meets_Scenes_write :
    let gpa := tVdi.img.resumeBase + 0x4000 * tPoint.resume + 128 * (16 * tTroupe.member + tTroupe.castNumber (.cast 0 0 0))
    (∃ old, tS.readGuest tVdi gpa 128 = .ok old) ∧ ∀ bs, ∃ w, tS.writeGuest tVdi gpa bs = .ok w := by
  intro gpa
  have h : tS.stage2 tVdi gpa = .ok tTwo := by decide +kernel
  have b : tS.backed (tTwo.apply gpa) = true := by decide +kernel
  exact ⟨⟨_, by simp only [State.readGuest, h, b]; rfl⟩, fun bs => ⟨_, by simp only [State.writeGuest, h, b]; rfl⟩⟩

def tPost : Post :=
  { gen := 1, state := .posted, vdi := 0, addr := 0, desc := [5, 0x0001000000000001, 0, 0, 0, 0, 0, 0], group := 1, key := none, held := true, lvl := 0,
    ticket := none, n := 1, rank := 0, root := 0, startedAt := 0, heard := [], data := [], failed := none }

/-- The interface with a launch queue. -/
def tVl (q : List Launch) : Vdi := { tVdi with launches := q }

/-- The machine as a member of group 1, whose home switch is endpoint 9, with the translation of the first GiB cached, and the
values `v` of a word whose engine has answered. -/
def tRead (v : List Dword) (q : List Launch := []) (ps : Map Nat Post := []) (x : Ctx := tCtx) : State :=
  { tAt x with
    coll := { State.reset.coll with groups := [(1, 0, 9, 0, false)], posts := ps }, vdis := [(0, tVl q)]
    engines := [(0, tCopy)], tlb := [{ vdi := 0, one := tOne, two := some tTwo, via := tVia }], cur := { tS.cur with vals := some v } }

/-- A machine with the tables and the cached translation of the first GiB. -/
structure TReads (s : State) : Prop where
  mem : s.mem = tMem
  poison : s.poison = []
  expanders : s.expanders = tS.expanders
  tlb : s.tlb = [{ vdi := 0, one := tOne, two := some tTwo, via := tVia }]
  vdi : ∃ v, s.vdis.find 0 = some v ∧ v.hptr = tVdi.hptr ∧ v.sptr = tVdi.sptr

theorem walk2_same (s t : State) (m : s.mem = t.mem) (p : s.poison = t.poison) (x : s.expanders = t.expanders) (g : Nat) (ls : List Nat) (a : Nat) :
    s.walk2 g ls a = t.walk2 g ls a := by
  induction ls generalizing a with
  | nil => rfl
  | cons l ls ih => simp only [State.walk2, ih, State.backed, State.lineBad, m, p, x]; rfl

theorem walk1_same (s t : State) (m : s.mem = t.mem) (p : s.poison = t.poison) (x : s.expanders = t.expanders) (v w : Vdi) (h : v.hptr = w.hptr)
    (g : Nat) (ls : List Nat) (a : Nat) : s.walk1 v g ls a = t.walk1 w g ls a := by
  induction ls generalizing a with
  | nil => rfl
  | cons l ls ih => simp only [State.walk1, ih, State.stage2, h, walk2_same s t m p x, State.backed, State.lineBad, m, p, x]; rfl

theorem walkVia_same (s t : State) (m : s.mem = t.mem) (p : s.poison = t.poison) (x : s.expanders = t.expanders) (v w : Vdi) (h : v.hptr = w.hptr)
    (g : Nat) (ls : List Nat) (a : Nat) : s.walkVia v g ls a = t.walkVia w g ls a := by
  induction ls generalizing a with
  | nil => rfl
  | cons l ls ih => simp only [State.walkVia, ih, State.stage2, h, walk2_same s t m p x, m]

theorem TReads.fresh {s : State} (h : TReads s) (n : Nat) : TReads { s with fresh := n } := ⟨h.mem, h.poison, h.expanders, h.tlb, h.vdi⟩

theorem TReads.two {s : State} (h : TReads s) (v : Vdi) (hv : v.hptr = tVdi.hptr) (k : Nat) (hk : k < 320) (h8 : k % 8 = 0) : s.stage2 v k = .ok tTwo := by
  obtain ⟨m, rfl⟩ : ∃ m, k = 8 * m := ⟨k / 8, by omega⟩
  have e : ∀ m : Fin 40, tS.stage2 tVdi (8 * m) = .ok tTwo := by decide +kernel
  rw [← e ⟨m, by omega⟩]
  simp only [State.stage2, hv]
  exact walk2_same s tS (h.mem.trans rfl) (h.poison.trans rfl) h.expanders (8 * m) levels _

theorem TReads.one {s : State} (h : TReads s) (v : Vdi) (hv : v.hptr = tVdi.hptr) (hw : v.sptr = tVdi.sptr) (k : Nat) (hk : k < 320) (h8 : k % 8 = 0) :
    s.stage1 v k = .ok tOne := by
  obtain ⟨m, rfl⟩ : ∃ m, k = 8 * m := ⟨k / 8, by omega⟩
  have e : ∀ m : Fin 40, tS.stage1 tVdi (8 * m) = .ok tOne := by decide +kernel
  rw [← e ⟨m, by omega⟩]
  simp only [State.stage1, hw]
  exact walk1_same s tS (h.mem.trans rfl) (h.poison.trans rfl) h.expanders v tVdi hv _ levels _

theorem TReads.entry {s : State} (h : TReads s) (e : Nat) (he : tMem.putDword e (tMem.dword e ||| BitVec.ofNat 64 0x20) = tMem) : s.setEntry e 0x20 = s := by
  unfold State.setEntry
  rw [h.mem, he, ← h.mem]

theorem TReads.via {s : State} (h : TReads s) (v : Vdi) (hv : v.hptr = tVdi.hptr) (hw : v.sptr = tVdi.sptr) (k : Nat) (hk : k < 320) (h8 : k % 8 = 0) :
    s.walkVia v k levels (frameOf v.sptr.toNat) = tVia := by
  obtain ⟨m, rfl⟩ : ∃ m, k = 8 * m := ⟨k / 8, by omega⟩
  have e : ∀ m : Fin 40, tS.walkVia tVdi (8 * m) levels (frameOf tVdi.sptr.toNat) = tVia := by decide +kernel
  rw [hw, ← e ⟨m, by omega⟩]
  exact walkVia_same s tS (h.mem.trans rfl) (h.poison.trans rfl) h.expanders v tVdi hv _ levels _

theorem TReads.cache {s : State} (h : TReads s) (w : Bool) : s.cache 0 tOne tTwo tVia w = s := by
  have one := h.entry tOne.entry (by decide +kernel)
  have two := h.entry tTwo.entry (by decide +kernel)
  have : ({ vdi := 0, one := tOne, two := some tTwo, via := tVia } :: [({ vdi := 0, one := tOne, two := some tTwo, via := tVia } : Tlb)].filter
    (fun t => !(decide (t.vdi = 0) && t.one.holds tOne.base && decide (t.one.base = tOne.base)))) = s.tlb := by rw [h.tlb]; rfl
  unfold State.cache
  cases w <;> simp only [if_true, Bool.false_eq_true, if_false, one, two, h.tlb] <;> rw [this]

theorem TReads.translate {s : State} (h : TReads s) (k : Nat) (hk : k < 320) (h8 : k % 8 = 0) :
    s.translate 0 k = ({ s with fresh := s.fresh + 2 }, .ok { one := tOne, two := tTwo, pa := k }) := by
  have h57 : k % 2 ^ 57 = k := Nat.mod_eq_of_lt (by omega)
  obtain ⟨v, vd, hv, hw⟩ := h.vdi
  have hit : s.tlb.find? (fun t => decide (t.vdi = 0) && t.one.holds k) = some { vdi := 0, one := tOne, two := some tTwo, via := tVia } := by
    have : tOne.holds k = true := by simp [Leaf.holds, tOne]; omega
    simp [h.tlb, this]
  have a : tOne.apply k = k := by simp [Leaf.apply, tOne]
  have a2 : tTwo.apply k = k := by simp [Leaf.apply, tOne, tTwo]
  have n := h.fresh (s.fresh + 2)
  have s2 := n.two v hv k hk h8
  have s1 := n.one v hv hw k hk h8
  unfold State.translate
  simp only [vd, h57, hit, a, a2]
  change (if _ then _ else _) = _
  simp only [s1, s2, a, a2, n.via v hv hw k hk h8, n.cache]
  split
  · rfl
  · split <;> rfl

theorem TReads.access {s : State} (h : TReads s) (need : Need) (k : Nat) (hk : k < 320) (h8 : k % 8 = 0) :
    s.access 0 need k = ({ s with fresh := s.fresh + 2 }, .ok { one := tOne, two := tTwo, pa := k }) := by
  have b : ({ s with fresh := s.fresh + 2 } : State).backed k = true := by simp [State.backed]; omega
  have g : Xlat.grants { one := tOne, two := tTwo, pa := k } need = true := by simp [Xlat.grants, tOne, tTwo]
  simp only [State.access, h.translate k hk h8, b, g]
  rfl

theorem TReads.bytes {s : State} (h : TReads s) (lvl : BitVec 2) (m j : Nat) (hj : j + 8 * m ≤ 320) (h8 : j % 8 = 0) : ∀ f, m ≤ f →
    s.readVirtual 0 lvl f j (8 * m) = ({ s with fresh := s.fresh + 2 * m }, .ok ((List.range m).flatMap (fun i => tMem.bytes (j + 8 * i) 8))) := by
  induction m generalizing s j with
  | zero => intro f _; cases f <;> simp [State.readVirtual]
  | succ m ih =>
    intro f hf
    obtain ⟨f, rfl⟩ : ∃ g, f = g + 1 := ⟨f - 1, by omega⟩
    have ac : addressCheck (j : Int) 1 = none :=
      (by decide +kernel : ∀ j : Fin 320, addressCheck ((j : Nat) : Int) 1 = none) ⟨j, by omega⟩
    have n := h.fresh (s.fresh + 2)
    have lb : ({ s with fresh := s.fresh + 2 } : State).lineBad j = false := by simp [State.lineBad, h.poison]
    have k8 : min (8 * (m + 1)) (8 - j % 8) = 8 := by omega
    unfold State.readVirtual
    rw [if_neg (by omega)]
    simp only [ac, k8, h.access _ j (by omega) h8, lb]
    have := ih n (j + 8) (by omega) (by omega) f (by omega)
    rw [show 8 * (m + 1) - 8 = 8 * m by omega, this]
    have e : ∀ i, j + 8 + 8 * i = j + 8 * (i + 1) := fun i => by omega
    simp only [e, List.range_succ_eq_map, List.flatMap_cons, List.flatMap_map, Nat.mul_zero, Nat.add_zero, h.mem, Nat.mul_succ, Nat.add_assoc, Nat.add_comm 2, Bool.false_eq_true,
      if_false]

/-- What an engine of the base die reads (R19, R299). -/
theorem TReads.reads {s : State} (h : TReads s) (lvl : BitVec 2) (m j : Nat) (hj : j + 8 * m ≤ 320) (h8 : j % 8 = 0) (f : Nat) (hf : m ≤ f)
    (P : List Byte → Prop) (hp : P ((List.range m).flatMap (fun i => tMem.bytes (j + 8 * i) 8))) :
    ∃ s2 r, s.readBase 0 lvl f j (8 * m) = (s2, .ok r) ∧ P r :=
  ⟨_, _, by rw [State.readBase, h.bytes lvl m j hj h8 f hf], hp⟩

theorem tRead_reads (v : List Dword) (q : List Launch) (ps : Map Nat Post) (x : Ctx) : TReads (tRead v q ps x) := ⟨rfl, rfl, rfl, rfl, _, rfl, rfl, rfl⟩


/-- A ring of two slots whose producer and consumer are casts: empty, full, with a ticket to fill, with an element to take and
to free; and an absent ring. -/
theorem test_meets_RingsAndBarriers :
    let ring := fun (tail head freed : BitVec 16) (full : List Nat) => ({ desc := 0x1000001, tail := tail, head := head, freed := freed, full := full } : Ring)
    let tr := fun (r : Ring) => { tTroupe with rings := tTroupe.rings.setIfInBounds 15 r }
    let on := fun (r : Ring) => { tAt tCtx with troupes := [(0, tr r)] }
    let s := on (ring 0xFFFF 0xFFFF 0xFFFF [])
    let mine := fun (r : Ring) lo => r.desc.getLsbD 0 = true ∧ r.desc.toNat / 2 ^ lo % 4 = 0
    let since := fun (r : Ring) (x : BitVec 16) => (x - r.freed).toNat
    s.issuing tCtx ∧ s.unit.kind = .cast ∧ s.handledAt tCtx 1 ∧ s.troupeOf s.unit = some (0, tr (ring 0xFFFF 0xFFFF 0xFFFF [])) ∧
    s.troupes.find 0 = some (tr (ring 0xFFFF 0xFFFF 0xFFFF [])) ∧ s.ringQueued (.ringTicket 1 15) = false ∧ s.ringQueued (.ringTake 1 15) = false ∧
    s.ringQueued (.ringFill 1 15) = false ∧ s.ringQueued (.ringFree 15) = false ∧
    (let r := ring 0xFFFF 0xFFFF 0xFFFF []; mine r 22 ∧ mine r 20 ∧ since r r.tail < 2 ∧ r.head.toNat % 2 ∉ r.full ∧ r.freed = r.head) ∧
    (let r := ring 1 0xFFFF 0xFFFF [0]; 2 ≤ since r r.tail ∧ since r r.head ≤ since r 0xFFFF ∧ since r 0xFFFF < since r r.tail ∧ (0xFFFF : BitVec 16).toNat % 2 ∉ r.full ∧
      (0 : BitVec 16).toNat % 2 ∈ r.full ∧ since r r.tail ≤ since r 1) ∧
    (let r := ring 1 0 0 [0]; r.head.toNat % 2 ∈ r.full) ∧ (let r := ring 2 1 0 [0]; r.freed ≠ r.head ∧ since r 0 < since r r.head) ∧
    ¬ mine Ring.zero 22 ∧ ¬ mine Ring.zero 20 ∧ (on Ring.zero).handledAt tCtx 1 := by
  unfold State.handledAt
  and_intros <;> first | decide +kernel | rfl

/-- No ring and no barrier of the troupe is poisoned; a handle that names no spawn nest. -/
theorem test_meets_RingsAndBarriers_clean :
    (∀ n : BitVec 4, n.toNat ∉ tTroupe.badSync) ∧ 16 ∉ tTroupe.badSync ∧ (tAt tCtx).nestNamed tTroupe 0 = some (0, tNest) ∧ nSpawn tNest.record = false := by
  and_intros <;> first | decide +kernel | rfl

/-- One cast alone, and beside a second; arrived or not; the cue stream arrived or not; and a diverged cast. -/
theorem test_meets_RingsAndBarriers_barriers :
    let one : State := tAt tCtx
    let two : State := { one with ctxs := one.ctxs ++ [(.cast 0 0 1, tCtx)] }
    let t := fun (b q : List UnitId) => { tTroupe with bars := if b = [] then [] else [(15, b)], cues := if q = [] then [] else [(15, q)] }
    let on := fun (s : State) b q => { s with troupes := [(0, t b q)] }
    let split : Ctx := { tCtx with b := { Path.start 0 with pid := 2 } }
    let me : UnitId := .cast 0 0 0
    let s := on one [] []
    s.issuing tCtx ∧ s.unit = me ∧ s.unit.kind = .cast ∧ (s.here tCtx).held = none ∧ s.troupeOf s.unit = some (0, t [] []) ∧ s.troupes.find 0 = some (t [] []) ∧
    ((t [] []).bars.map Prod.fst).Nodup ∧ (∀ w ∈ (t [] []).waits, w.2.1 ≠ s.unit) ∧ s.castPaths s.unit ≤ 1 ∧
    ((t [] []).casts.all (fun u => decide (u = me) || decide (s.castPaths u = 0))) = true ∧
    ((t [] []).casts.any (fun u => decide (u ≠ me) && decide ((on two [] []).castPaths u ≠ 0))) = true ∧
    (t [me] []).bars.find 15 = some [me] ∧ (on two [me] []).issuing tCtx ∧
    (((t [] []).cue :: (t [] []).casts).any (fun u => decide (u ≠ me) && !(s.cueArrived (t [] []) 15 u))) = true ∧
    (((t [] [(t [] []).cue]).cue :: (t [] []).casts).all (fun u => decide (u = me) || (on one [] [(t [] []).cue]).cueArrived (t [] [(t [] []).cue]) 15 u)) = true ∧
    (tAt split).issuing split ∧ (tAt split).handledAt split 1 ∧ ¬ (tAt split).castPaths (tAt split).unit ≤ 1 := by
  unfold State.handledAt
  and_intros <;> first | decide +kernel | rfl

theorem test_meets_HandleFields :
    let s := tAt tCtx
    s.issuing tCtx ∧ s.troupeOf s.unit = some (0, tTroupe) ∧ s.ctxs.find tTroupe.cue = some tCtx ∧ (7 : BitVec 6).toNat < 8 :=
  ⟨rfl, rfl, rfl, by decide⟩

/-- The last semaphore and the last bin of the share, and the first beyond; a semaphore that has and has not reached its value; an
unperformed access before a release. -/
theorem test_meets_SemaphoresAndBins :
    let c : Ctx := { tRegs [(1, 5)] with v := tCtx.v.setIfInBounds 3 (.uni 15) |>.setIfInBounds 4 (.uni 16) }
    let s := tAt c
    let p : State := { s with fars := [{ tFar with id := 0 }] }
    let b : FarOp := { tFar with instr := .bin 3 1, cls := .a, todo := 1, va := List.replicate 32 15 }
    let e : State := { s with fars := [b], ev := { kind := .binAdditionPerformed, id := 1 } }
    s.issuing c ∧ (s.here c).held = none ∧ s.cur.vals = none ∧ s.vdis.find (s.vdiOf s.unit) = some tVdi ∧ s.cur.em ≠ 0#32 ∧ s.handledAt c 1 ∧
    (7 : BitVec 12).toNat < tVdi.img.semShare ∧ tVdi.img.semShare ≤ (8 : BitVec 12).toNat ∧ (s.drainUnit s.unit).priorDone s.unit s.cur.tag = true ∧
    p.issuing c ∧ (p.drainUnit p.unit).priorDone p.unit p.cur.tag = false ∧ (c.rdS s.issue 2).toNat ≤ ((s.sems.find 7).getD 0).toNat ∧
    ((s.sems.find 7).getD 0).toNat < (c.rdS s.issue 1).toNat ∧
    (∀ l, l < 32 → ((c.rdV s.issue 3).lane l).toNat < tVdi.img.binShare) ∧ active s.cur.em 31 = true ∧ ¬ ((c.rdV s.issue 4).lane 31).toNat < tVdi.img.binShare ∧
    e.fars.find? (fun x => decide (x.id = e.ev.id)) = some b ∧ b.done = false ∧ e.olderUnchecked b = false ∧ e.vdis.find (e.vdiOf b.unit) = some tVdi ∧
    lanesOf b.todo = [0] ∧ (b.va.getD 0 0).toNat < tVdi.img.binShare := by
  unfold State.handledAt
  and_intros <;> first | decide +kernel | rfl


/-- NEST.LAUNCH of a record of zeros at 0x40 that has been read. -/
theorem test_meets_NestWords_read :
    let s := tRead [0x40, 1]
    s.issuing tCtx ∧ (s.here tCtx).held = none ∧ s.troupeOf s.unit = some (0, tTroupe) ∧ s.vdis.find (s.vdiOf s.unit) = some tVdi ∧
    s.cur.em ≠ 0#32 ∧ s.cur.vals = some [0x40, 1] ∧ (0x40 : Dword).toNat % 64 = 0 ∧ tVdi.launches.length < 64 ∧
    ∃ s2 r, s.readBase (s.vdiOf s.unit) (s.here tCtx).plvl 40 (0x40 : Dword).toNat 256 = (s2, .ok r) ∧ nestLegal tVdi (0x40 : Dword).toNat r = true := by
  exact ⟨rfl, rfl, rfl, rfl, by decide, rfl, by decide, by decide,
    (tRead_reads _ _ _ _).reads _ 32 0x40 (by decide) (by decide) 40 (by decide) _ (by decide +kernel)⟩

def tRecord (ctl : Dword) : List Byte := leBytes 8 ctl.toNat ++ List.replicate 248 0

def tRow : Row := { key := [], state := 2, lo := 0, hi := 1, p := 0, win := 0, released := [] }

theorem test_meets_NestWords :
    let c := tRegs [(1, 64), (2, 0x7FFFFFFF), (3, 1)]
    let g : Nest := { tNest with record := tRecord 0x100 }
    let p : Nest := { tNest with record := tRecord 0x200, rows := [tRow], cap := 2 }
    let on := fun (n : Nest) => { tAt c with nests := [(0, n)] }
    let s := on g
    let z : State := { s with cur := { s.cur with em := 0 } }
    let w : State := { on p with cur := { s.cur with vals := some [0, 5, 1] } }
    let full : Nest := { p with cap := 1 }
    s.issuing c ∧ (s.here c).held = none ∧ s.troupeOf s.unit = some (0, tTroupe) ∧ s.vdis.find (s.vdiOf s.unit) = some tVdi ∧ s.handledAt c 1 ∧
    z.issuing c ∧ z.cur.em = 0#32 ∧ s.cur.em ≠ 0#32 ∧ s.cur.vals = none ∧ (s.drainUnit s.unit).priorDone s.unit s.cur.tag = true ∧
    s.nestNamed tTroupe ((c.rdS s.issue 4).setWidth 16) = some (0, g) ∧ (c.rdS s.issue 2).toInt = 2 ^ 31 - 1 ∧ nSpawn g.record = false ∧
    nGrow g.record = true ∧ g.floor ≤ (c.rdS s.issue 4).toInt ∧
    (match s.unitStore g.vdi (nCell g.record) (leBytes 4 0x7FFFFFFF) with | .ok _ => true | .error _ => false) = true ∧
    (on p).nestNamed tTroupe 0 = some (0, p) ∧ nSpawn p.record = true ∧ ((p.rows.head?).map (fun r => r.hi)).getD p.cap ≤ (c.rdS s.issue 3).toInt ∧
    (c.rdS s.issue 3).toInt ≤ p.cap ∧
    w.cur.vals = some [0, 5, 1] ∧ w.nestNamed tTroupe 0 = some (0, p) ∧ p.rows = [tRow] ∧ p.closed = false ∧ p.stopped = false ∧ tRow.hi < p.cap ∧
    (match w.unitStore p.vdi (nCell p.record + 8 * tRow.hi.toNat) (leBytes 8 5) with | .ok _ => true | .error _ => false) = true ∧
    (on full).nestNamed tTroupe 0 = some (0, full) ∧ full.cap ≤ tRow.hi ∧
    s.nestNamed tTroupe ((c.rdS s.issue 1).setWidth 16) = none := by
  unfold State.handledAt
  and_intros <;> first | decide +kernel | rfl

theorem test_meets_NestWords_refused :
    let full := List.replicate 64 ({ record := [], addr := 0 } : Launch)
    let s := tRead [0x40, 1] full
    let r := tRead [0, 1]
    let m : State := { tAt tCtx with cur := { tS.cur with vals := some [0x41, 1] } }
    let p : State := { tAt tCtx with fars := [{ tFar with id := 0 }] }
    let n : State := { tAt tCtx with cur := { tS.cur with vals := some [1, 5, 1] } }
    let zeros := List.replicate 256 (0 : Byte)
    let kept := fun (v : Dword) => ({ tAt tCtx with cur := { tS.cur with vals := some (v :: 1 :: (List.range 32).map (recWord zeros)) } } : State)
    s.issuing tCtx ∧ s.vdis.find (s.vdiOf s.unit) = some (tVl full) ∧ 64 ≤ (tVl full).launches.length ∧
    (∃ s2 x, s.readBase (s.vdiOf s.unit) (s.here tCtx).plvl 40 (0x40 : Dword).toNat 256 = (s2, .ok x) ∧ nestLegal (tVl full) (0x40 : Dword).toNat x = true) ∧
    r.issuing tCtx ∧ r.vdis.find (r.vdiOf r.unit) = some tVdi ∧ (0 : Dword).toNat % 64 = 0 ∧ r.handledAt tCtx 1 ∧
    (∃ s2 x, r.readBase (r.vdiOf r.unit) (r.here tCtx).plvl 40 (0 : Dword).toNat 256 = (s2, .ok x) ∧ nestLegal tVdi (0 : Dword).toNat x = false) ∧
    (∀ v, (kept v).issuing tCtx ∧ zeros.length = 256) ∧ nestLegal tVdi (0x40 : Dword).toNat zeros = true ∧ nestLegal tVdi (0 : Dword).toNat (List.replicate 256 0xFF) = false ∧
    m.issuing tCtx ∧ (0x41 : Dword).toNat % 64 ≠ 0 ∧ m.handledAt tCtx 1 ∧
    p.issuing tCtx ∧ p.cur.vals = none ∧ (p.drainUnit p.unit).priorDone p.unit p.cur.tag = false ∧
    nSpawn tNest.record = false ∧ nGrow tNest.record = false ∧ (tAt tCtx).nestNamed tTroupe 0 = some (0, tNest) ∧
    n.issuing tCtx ∧ n.nestNamed tTroupe 1 = none := by
  unfold State.handledAt
  refine ⟨rfl, rfl, by decide, (tRead_reads _ _ _ _).reads _ 32 0x40 (by decide) (by decide) 40 (by decide) _ (by decide +kernel), rfl, rfl, by decide, ?_,
    (tRead_reads _ _ _ _).reads _ 32 0 (by decide) (by decide) 40 (by decide) _ (by decide +kernel), fun _ => ⟨rfl, rfl⟩, by decide +kernel, by decide +kernel, rfl, by decide, ?_⟩
  · and_intros <;> first | decide +kernel | rfl
  · and_intros <;> first | decide +kernel | rfl

/-- A record for the last free slot; a row to activate; two points to release in one cycle; a point to start, to retire; a
stopped nest without a point. -/
theorem test_meets_NestEvents :
    let l : Launch := { record := tRecord 0, addr := 0 }
    let v : Vdi := { tVdi with launches := [l] }
    let s0 : State := { tS with nests := (List.range 63).map (fun k => (k, { tNest with vdi := 1 })), vdis := [(0, v)], ev := { kind := .nestSlotEntry, a := 0 } }
    let n1 : Nest := { tNest with record := tRecord 0 |>.set 16 1 }
    let s1 : State := { tS with nests := [(0, n1)], ev := { kind := .rowActivate, a := 0 } }
    let n2 : Nest := { n1 with rows := [{ tRow with hi := 2 }] }
    let s2 : State := { tS with nests := [(0, n2)], points := [], troupes := [], ctxs := [], hands := [] }
    let t2 : State := { s2 with nests := [(0, { n1 with flushed := [([0], 0), ([1], 1)] })] }
    let none_ : State := { tS with nests := [] }
    let pt : Point := { tPoint with phase := .starting }
    let idle : Troupe := { tTroupe with started := false }
    let s3 := fun (p : Point) => ({ tS with points := [p], troupes := [(0, idle)], ev := { kind := .stagehandStart, a := 0 } } : State)
    let dr : Point := { tPoint with phase := .draining 1 2 }
    let pr : Point := { tPoint with retireAt := some 0 }
    let s4 : State := { tS with points := [pr], ev := { kind := .pointRetire, a := 0, point := [0] } }
    let n5 : Nest := { tNest with stopped := true }
    let s5 : State := { tS with nests := [(0, n5)], points := [], ev := { kind := .nestStopSlotFree, a := 0 } }
    s0.vdis.find s0.ev.a = some v ∧ v.launches = [l] ∧ s0.freeSlots s0.ev.a v = [63] ∧ s0.nests.find 63 = none ∧ nSpawn l.record = false ∧
    nGrow l.record = false ∧ (∀ k, k < 9 → 1 ≤ k → (recWord l.record k).toNat < 2 ^ 63) ∧
    s1.nests.find s1.ev.a = some n1 ∧ n1.stopped = false ∧ n1.rows.length < 512 ∧ n1.candidate = .ok (some ([], true)) ∧
    n1.range (nLevels n1.record - 1) [] = .ok (0, 1) ∧
    (∀ slot, slot < 64 → none_.releaseOne slot = none) ∧
    s2.rr < 64 ∧ n2.flushed = [] ∧ n2.ready = some [0] ∧ (s2.releaseOne s2.rr).isSome = true ∧
    t2.rr < 64 ∧ ((t2.releaseOne t2.rr).bind (fun x => (x.releaseOne t2.rr).map (fun _ => ()))).isSome = true ∧
    (∀ p ∈ [pt, dr], (s3 p).troupes.find (s3 p).ev.a = some idle ∧ (s3 p).pointOf idle = some p ∧ ∀ q ∈ (s3 p).points, q = p) ∧ idle.started = false ∧
    pt.phase = .starting ∧ dr.phase = .draining 1 2 ∧
    s4.points.find? (fun p => decide (p.slot = s4.ev.a) && decide (p.point = s4.ev.point)) = some pr ∧ pr.retireAt ≠ none ∧
    s5.nests.find s5.ev.a = some n5 ∧ n5.stopped = true ∧ (∀ p ∈ s5.points, p.slot ≠ s5.ev.a) := by
  and_intros <;> first | decide +kernel | rfl



/-- The next row of a nest holds no point. -/
theorem test_meets_NestEvents_empty :
    let n : Nest := { tNest with record := tRecord 0 }
    let s : State := { tS with nests := [(0, n)], ev := { kind := .rowActivate, a := 0 } }
    s.nests.find s.ev.a = some n ∧ n.stopped = false ∧ n.candidate = .ok (some ([], true)) ∧ n.range (nLevels n.record - 1) [] = .ok (0, 0) ∧
    (∀ q ∈ tTroupe.quads, quadKey tTroupe.core q ∉ tS.stopped) := by
  and_intros <;> first | decide +kernel | rfl

theorem test_meets_CollectiveWords :
    let c := tRegs [(1, 1), (2, 0x200), (3, 0x400)]
    let g := fun (p : Post) (v : Option (List Dword)) =>
      { tRead [] with coll := { (tRead []).coll with posts := [(0, p)] }, ctxs := [(.cast 0 0 0, c), (.cue 0 0, tCtx)], cur := { tS.cur with vals := v } }
    let s := g tPost none
    let z : State := { s with cur := { s.cur with em := 0 } }
    let x := c.rdS s.issue 2
    s.issuing c ∧ (s.here c).held = none ∧ s.troupeOf s.unit = some (0, tTroupe) ∧ s.vdis.find tTroupe.vdi = some tVdi ∧
    z.issuing c ∧ z.cur.em = 0#32 ∧ s.cur.em ≠ 0#32 ∧ s.cur.vals = none ∧ (s.drainUnit s.unit).priorDone s.unit s.cur.tag = true ∧
    s.coll.posts.find ((c.rdS s.issue 1).toNat % 512) = none ∧ s.coll.posts.find (x.toNat % 512) = some tPost ∧ tPost.gen = x.toNat / 512 % 128 ∧
    tPost.gen ≠ (c.rdS s.issue 3).toNat / 512 % 128 ∧ tPost.state = .posted ∧
    (g { tPost with state := .complete } none).coll.posts.find (x.toNat % 512) = some { tPost with state := .complete } ∧
    s.coll.member tTroupe.vdi ((c.rdS s.issue 1).toNat % 2 ^ 24) = some (9, 0, false) ∧ s.coll.member tTroupe.vdi (x.toNat % 2 ^ 24) = none := by
  and_intros <;> first | decide +kernel | rfl

/-- A descriptor that has been read: with a free entry, with the share used up, and with its key in the table; and one kept with its word. -/
theorem test_meets_CollectiveWords_post :
    let full : Map Nat Post := [(0, tPost), (1, tPost)]
    let key := fun (s : State) => s.postKey tTroupe tCtx 0
    let mine : Post := { tPost with key := some ((tRead []).postKey tTroupe tCtx 0) }
    let ok := fun (s : State) => s.issuing tCtx ∧ (s.here tCtx).held = none ∧ s.troupeOf s.unit = some (0, tTroupe) ∧ s.vdis.find tTroupe.vdi = some tVdi ∧
      s.cur.em ≠ 0#32 ∧ s.cur.vals = some [0, 1] ∧ tCtx.ordinal = 0 ∧
      (∃ s2 r, s.readBase tTroupe.vdi (s.here tCtx).plvl 10 (0 : Dword).toNat 64 = (s2, .ok r) ∧
        descLegal ((List.range 8).map (recWord r)) = true ∧ s.coll.member tTroupe.vdi (dGroup ((List.range 8).map (recWord r))) = some (9, 0, false))
    let found := fun (s : State) => s.coll.posts.find? (fun e => e.2.held && decide (e.2.key = some (key s)))
    let s := tRead [0, 1]
    let f := tRead [0, 1] [] full
    let m := tRead [0, 1] [] [(3, mine)]
    let k := tRead (0 :: 1 :: 0 :: tPost.desc)
    (ok s ∧ ok f ∧ ok m) ∧ found s = none ∧ s.coll.freeEntries ≠ [] ∧ s.coll.shareUsed tTroupe.vdi < tVdi.img.pctShare ∧
    found f = none ∧ tVdi.img.pctShare ≤ f.coll.shareUsed tTroupe.vdi ∧ found m = some (3, mine) ∧
    k.issuing tCtx ∧ k.cur.vals = some (0 :: 1 :: 0 :: tPost.desc) ∧ descLegal tPost.desc = true ∧ k.coll.member tTroupe.vdi (dGroup tPost.desc) = some (9, 0, false) := by
  have ok (ps : Map Nat Post) : let s := tRead [0, 1] [] ps
      s.issuing tCtx ∧ (s.here tCtx).held = none ∧ s.troupeOf s.unit = some (0, tTroupe) ∧ s.vdis.find tTroupe.vdi = some tVdi ∧
      s.cur.em ≠ 0#32 ∧ s.cur.vals = some [0, 1] ∧ tCtx.ordinal = 0 ∧
      (∃ s2 r, s.readBase tTroupe.vdi (s.here tCtx).plvl 10 (0 : Dword).toNat 64 = (s2, .ok r) ∧
        descLegal ((List.range 8).map (recWord r)) = true ∧ s.coll.member tTroupe.vdi (dGroup ((List.range 8).map (recWord r))) = some (9, 0, false)) := by
    refine ⟨rfl, rfl, rfl, rfl, (by decide : (BitVec.allOnes 32 : Word) ≠ 0#32), rfl, rfl,
      (tRead_reads _ _ _ _).reads _ 8 0 (by decide) (by decide) 10 (by decide) _ ⟨by decide +kernel, ?_⟩⟩
    exact (show (tRead []).coll.member tTroupe.vdi (dGroup ((List.range 8).map (recWord ((List.range 8).flatMap (fun i => tMem.bytes (0 + 8 * i) 8))))) =
      some (9, 0, false) by decide +kernel)
  refine ⟨⟨ok _, ok _, ok _⟩, ?_⟩
  and_intros <;> first | decide +kernel | rfl

/-- COLL.POST of an address that is not aligned, with older accesses performed and not, and of a group that its tenant is no member of;
a descriptor that was kept, whose ordinal goes back to 0, or is no longer the last. -/
theorem test_meets_CollectiveWords_refused :
    let c := tRegs [(2, 0x20)]
    let x : Ctx := { tCtx with ordinal := 1 }
    let s := tAt c
    let p : State := { s with fars := [{ tFar with id := 0 }] }
    let r := tRead [0x40, 1]
    let k := tRead (0x40 :: 1 :: 0 :: List.replicate 8 0) [] [] x
    s.issuing c ∧ s.cur.em ≠ 0#32 ∧ s.cur.vals = none ∧ (c.rdS s.issue 2).toNat % 64 ≠ 0 ∧ (c.rdS s.issue 1).toNat % 64 = 0 ∧ s.handledAt c 1 ∧
    (s.drainUnit s.unit).priorDone s.unit s.cur.tag = true ∧ p.issuing c ∧ (p.drainUnit p.unit).priorDone p.unit p.cur.tag = false ∧
    r.issuing tCtx ∧ (r.here tCtx).held = none ∧ r.handledAt tCtx 1 ∧ r.cur.vals = some [0x40, 1] ∧ (0x40 : Dword).toNat % 64 = 0 ∧
    (∃ s2 b, r.readBase tTroupe.vdi (r.here tCtx).plvl 10 (0x40 : Dword).toNat 64 = (s2, .ok b) ∧
      r.coll.member tTroupe.vdi (dGroup ((List.range 8).map (recWord b))) = none) ∧
    k.issuing x ∧ (k.here x).held = none ∧ k.handledAt x 1 ∧ x.ordinal = (0 : Dword).toNat + 1 ∧ k.cur.vals = some (0x40 :: 1 :: 0 :: List.replicate 8 0) ∧
    k.coll.member tTroupe.vdi (dGroup (List.replicate 8 0)) = none := by
  unfold State.handledAt
  refine ⟨rfl, by decide, rfl, by decide, by decide, ?_, by decide +kernel, rfl, by decide +kernel, rfl, rfl, ?_, rfl, by decide,
    (tRead_reads _ _ _ _).reads _ 8 0x40 (by decide) (by decide) 10 (by decide) _ (by decide +kernel), rfl, rfl, ?_, by decide, rfl, by decide +kernel⟩ <;>
  · and_intros <;> first | decide +kernel | rfl

/-- A ticket, one that orders an abort, and one that names no entry; a horizon, data and an acknowledgement that arrive; a post that may
start, and a barrier that completes. -/
theorem test_meets_CollectiveEvents :
    let up : Port := { up := true, dgen := 0, dtype := 0, ddst := 0 }
    let f := fun (ty : BitVec 4) => ({ dst := 0, src := 9, gen := 0, type := ty, len := 1, seq := 1, ctx := 0, payload := [7] } : Flit)
    let base : State := { tAt tCtx with fabric := { State.reset.fabric with ports := [(17, up)] },
                                        coll := { State.reset.coll with groups := [(1, 0, 9, 0, false)], horizon := 1 } }
    let on := fun (p : Post) (e : Event) => { base with coll := { base.coll with posts := [(0, p)] }, ev := e }
    let ev : Event := { kind := .nop, a := 0, b := 1, c := 1, port := 17 }
    let s := on tPost { ev with flit := some (f 3) }
    let z := on tPost { ev with flit := some (f 3), c := 0 }
    let o := on tPost { ev with flit := some (f 3), b := 2 }
    let arrived := fun (s : State) => (s.arrive 17 (f 3)).1
    let run : Post := { tPost with state := .running }
    let r := on run { ev with flit := some (f 0) }
    let tk : Post := { tPost with state := .ticketed, ticket := some 0, desc := [0x3FFF05 ||| 0x1F000000, 0, 0, 0, 0, 0, 0, 0] }
    let w := on tk ev
    (s.ev.flit = some (f 3) ∧ s.arrive s.ev.port (f 3) = (arrived s, true) ∧ (arrived s).coll.posts.find 0 = some tPost ∧ tPost.state = .posted ∧
      tPost.gen = s.ev.b % 128 ∧ s.ev.c ≠ 0) ∧
    (z.arrive z.ev.port (f 3) = (arrived z, true) ∧ (arrived z).coll.posts.find 0 = some tPost ∧ tPost.isFree = false ∧ tPost.gen = z.ev.b % 128 ∧ z.ev.c = 0) ∧
    (o.arrive o.ev.port (f 3) = (arrived o, true) ∧ (arrived o).coll.posts.find 0 = some tPost ∧ tPost.gen ≠ o.ev.b % 128 ∧ o.ev.c ≠ 0) ∧
    (r.ev.flit = some (f 0) ∧ (r.arrive r.ev.port (f 0)).2 = true ∧ ((r.arrive r.ev.port (f 0)).1.coll.posts.find ((f 0).ctx.toNat / 2 ^ 39 % 512)) = some run ∧
      run.state = .running) ∧
    ((on tPost { ev with flit := some (f 5) }).arrive 17 (f 5)).2 = true ∧ s.vdis.find s.ev.a = some tVdi ∧
    (w.coll.lowest = some (0, tk) ∧ w.coll.posts.find 0 = some tk ∧ (tk.ticket.getD 0).toNat < w.coll.horizon ∧
      w.coll.staging + dRsv tk.desc ≤ 1024 ∧ w.coll.shares + dLsh tk.desc + 1 ≤ 64 ∧ w.coll.contexts < 32) ∧
    (r.coll.posts.find r.ev.a = some run ∧ run.failed = none ∧ run.bad = false ∧ run.waitsOn = [] ∧ dOp run.desc = 5 ∧ run.inBytes = 0 ∧
      (r.writeVirtual run.vdi run.lvl true 2 (dOut run.desc) (run.output r.fresh (run.input []))).2.isOk = true) := by
  and_intros <;> first | decide +kernel | rfl

/-- A sum of one unsigned word over one participant: its input is read, and its output can be written. -/
theorem test_meets_CollectiveEvents_data :
    let p : Post := { tPost with state := .running, desc := [0xD00, 0x0001000000000001, 1, 0x30000, 0x30040, 0, 0, 0] }
    let done : Post := { p with own := some [1, 2, 3, 4] }
    let on := fun (q : Post) => ({ tAt tCtx with coll := { State.reset.coll with posts := [(0, q)] }, ev := { kind := .collectiveComplete, a := 0 } } : State)
    let s := on done
    let out := done.output s.fresh (done.input [1, 2, 3, 4])
    (on p).coll.posts.find (on p).ev.a = some p ∧ p.state = .running ∧ p.failed = none ∧ p.inBytes = 4 ∧ p.own = none ∧
    ((on p).readBase p.vdi p.lvl (p.inBytes / 8 + 2) (dIn p.desc) p.inBytes).2.isOk = true ∧
    s.coll.posts.find s.ev.a = some done ∧ done.bad = false ∧ done.waitsOn = [] ∧ done.inBytes ≠ 0 ∧ dOp done.desc = 0 ∧ dFmt done.desc = 0xD ∧
    dRop done.desc = 0 ∧ 0 < done.n ∧ 0 < dCount done.desc ∧ out = [1, 2, 3, 4] ∧
    (s.writeVirtual done.vdi done.lvl true (out.length / 8 + 2) (dOut done.desc) out).2.isOk = true := by
  and_intros <;> first | decide +kernel | rfl

theorem test_meets_CollectiveEvents_silence :
    let p : Post := { tPost with state := .running, n := 2, desc := [0, 0x0002000000000001, 1, 0, 0, 0, 0, 0] }
    let u : Unacked := { flit := { dst := 9, src := 0, gen := 0, type := 1, len := 0, seq := 1, ctx := 0, payload := [] }, first := 0, last := 0 }
    let s : State := { tAt tCtx with dt := 1000000000, ev := { kind := .collectiveTimeout, a := 0 },
                                     coll := { State.reset.coll with posts := [(0, p)], groups := [(0, 0, 9, 0, false)] },
                                     fabric := { State.reset.fabric with unacked := [u] } }
    s.coll.posts.find s.ev.a = some p ∧ s.silent p = true ∧ p.failed = none ∧
    s.homeSilent s.ev.a = true ∧ (0, { tPost with group := 0 }) ∈ [(0, { tPost with group := 0 })] := by
  have h : collToNs ≤ 1000000000 := by unfold collToNs; omega
  have e : (1000000000#64 - 0#64).toNat = 1000000000 := by decide
  refine ⟨rfl, ?_, rfl, ?_, List.mem_singleton.2 rfl⟩
  · have w : ({ tPost with state := .running, n := 2, desc := [0, 0x0002000000000001, 1, 0, 0, 0, 0, 0] } : Post).waitsOn = [1] := by decide +kernel
    simp only [State.silent, w, List.any_cons, List.any_nil, Bool.or_false, Bool.and_eq_true, decide_eq_true_eq]
    refine ⟨trivial, ?_⟩
    change collToNs ≤ (1000000000#64 - 0#64).toNat
    rw [e]; exact h
  · simp only [State.homeSilent, List.any_cons, List.any_nil, Bool.or_false, Bool.and_eq_true, decide_eq_true_eq]
    refine ⟨trivial, rfl, ?_⟩
    change collToNs ≤ (1000000000#64 - 0#64).toNat
    rw [e]; exact h

theorem test_meets_FabricEvents :
    let x : Port := { up := true, dgen := 0, dtype := 0xFFFF, ddst := 0 }
    let f : Flit := { dst := 9, src := 0, gen := 0, type := 8, len := 0, seq := 1, ctx := 0, payload := [] }
    let u : Unacked := { flit := f, first := 0, last := 0 }
    let fb : Fabric := { State.reset.fabric with ports := [(17, x)], unacked := [u], state := 1 }
    let s : State := { tS with fabric := fb, dt := 1000000000, ev := { kind := .nop, a := 17, port := 17, flit := some f } }
    let r : State := { s with ev := { kind := .flitResend, a := 1, b := 9 } }
    let q : Fabric := { fb with queued := [(some 3, f), (some 17, f), (some 17, f)], seen := [((0, 9), 0xFFFF)] }
    s.fabric.ports.find s.ev.a = some x ∧ s.ev.a < 18 ∧ s.ev.flit = some f ∧ 8 ≤ f.type.toNat ∧ s.fabric.ports.find s.ev.port = some x ∧
    r.fabric.unacked = [u] ∧ u.flit.seq.toNat = r.ev.a ∧ u.flit.dst.toNat = r.ev.b ∧ 100000 ≤ (r.dt - u.last).toNat ∧
    State.reset.fabric.state = 0#2 ∧ s.fabric.state = 1#2 ∧ 1000000000 ≤ (s.dt - s.fabric.remapAt).toNat ∧
    ({ fb with state := 2 } : Fabric).state = 2#2 ∧ ({ State.reset.fabric with standby := true } : Fabric).standby = true ∧
    State.reset.fabric.standby = false ∧ q.linked 17 = true ∧ q.queued = [(some 3, f)] ++ (some 17, f) :: [(some 17, f)] ∧ q.waiting = [] ∧
    q.seen.find (f.src.toNat, f.dst.toNat) = some 0xFFFF ∧ (0 : BitVec 16) = 0xFFFF + 1 ∧ f.seq = 0xFFFF + 2 ∧
    ({ f with seq := 0xFFFF } : Flit).seq = 0xFFFF := by
  and_intros <;> first | decide +kernel | rfl

def tCueS (c : Ctx) (t : Troupe) (fm : Word) : State :=
  { tIn (.cue 0 0) c with troupes := [(0, t)], cur := { (tIn (.cue 0 0) c).cur with fm := fm } }

/-- The cue stream at a CUE.BAR with a matrix operation that has not ended. -/
theorem test_meets_RingsAndBarriers_cue :
    let o : MatOp := { id := 0, engine := .array, instr := .mzero, vals := [], fm := 0, mask := 0, reads := [], writes := [], due := some 9, done := false }
    let t : Troupe := { tTroupe with mx := { tTroupe.mx with ops := [o] } }
    let s := tCueS tCtx t 0
    s.issuing tCtx ∧ s.unit.kind = .cue ∧ (s.here tCtx).held = none ∧ s.troupeOf s.unit = some (0, t) ∧ ∃ o ∈ t.mx.ops, o.done = false := by
  exact ⟨rfl, rfl, rfl, rfl, _, List.mem_singleton.2 rfl, rfl⟩

/-- A rank-2 handle whose tensor is empty (R215). -/
def tEmpty : Handle := (Vector.replicate 8 (0 : Dword)).setIfInBounds 0 0x8000000000000001

theorem test_meets_MatrixArrayWords :
    let c := { tRegs [(3, 8), (4, 0x10040), (5, 16), (7, 0x8000)] with h := tCtx.h.setIfInBounds 0 tEmpty }
    let plane : Plane := { Plane.zero with loaded := true, cls := 32 }
    let t := { tTroupe with mx := { Matrix.start 0 with active := plane } }
    let u := { t with mx := { t.mx with slots := [(15, { fmt := 0, rows := [] })] } }
    let s := tCueS c t 0
    let q := fun (n : Nat) => c.s[n]?.getD 0
    let fine := fun (A : Area) => A.misaligned = false ∧ t.regionBad A.addr A.len = false ∧ s.areaBad t A = false
    s.issuing c ∧ s.troupeOf s.unit = some (0, t) ∧ s.troupes.find 0 = some t ∧ s.unit = t.cue ∧ s.cur.vals = none ∧ t.mx.ops = [] ∧
    (opReserved false (q 0) = false ∧ badK (q 3) = false ∧ pairLegal 0 0 0 = true ∧ fine (areaOf (q 0) 64 8 32) ∧ t.mx.otherFmt 0 = false ∧
      t.mx.badIn [0] = false) ∧
    fine (areaOf (q 0) 64 (64 * stepP 32 false) 32) ∧
    (badR (q 4) = false ∧ mmawAuto (q 4) = true ∧ t.mx.active.loaded = true ∧ pairLegal 0 t.mx.active.fmt 0 = true ∧ elemWidth 0 = t.mx.active.cls ∧
      fine (areaOf (q 0) (mmawR (q 4)) (64 * t.mx.active.p) 32) ∧ mmawS t (q 4) ≤ t.mx.free.length ∧ t.mx.badIn [17] = false) ∧
    (1 ≤ (q 5).toNat ∧ (q 5).toNat ≤ 16 ∧ (q 5).toNat ≤ t.mx.free.length) ∧
    (tCueS c u 0).issuing c ∧ (q 7).toNat < 2 ^ 16 ∧ u.mx.takenAll (slotsOf (q 7).toNat) = true ∧
    (refReserved (q 0) = false ∧ matrixHandle (refHandle c (q 0)) (q 0) = true ∧ hDense (refHandle c (q 0)) = true ∧
      hStructured (refHandle c (q 0)) = false ∧ pairLegal (hFmt (refHandle c (q 0))) (hFmt (refHandle c (q 0))) 0 = true ∧
      elemWidth (hFmt (refHandle c (q 0))) = t.mx.active.cls) ∧
    ((q 0).toNat < 4 ∧ shapeWithin t.shape.toNat (q 0).toNat = true ∧ t.mx.slots = []) := by
  and_intros <;> first | decide +kernel | rfl

/-- Activations that go into slots which are taken: as an area and as a handle (AUTO = 0). -/
theorem test_meets_MatrixArrayWords_slots :
    let c := { tRegs [(4, 0x40), (7, 0x8000)] with h := tCtx.h.setIfInBounds 0 tEmpty }
    let t := { tTroupe with mx := { Matrix.start 0 with active := { Plane.zero with loaded := true, cls := 32 }, slots := [(15, { fmt := 0, rows := [] })] } }
    let s := tCueS c t 0
    let q := fun (n : Nat) => c.s[n]?.getD 0
    let X := areaOf (q 0) 64 (64 * t.mx.active.p) 32
    s.issuing c ∧ s.troupeOf s.unit = some (0, t) ∧ s.troupes.find 0 = some t ∧ s.unit = t.cue ∧ s.cur.vals = none ∧ t.mx.ops = [] ∧
    opReserved false (q 0) = false ∧ refReserved (q 0) = false ∧ badR (q 4) = false ∧ mmawAuto (q 4) = false ∧ (q 7).toNat < 2 ^ 16 ∧
    (q 4).toNat % 2 ^ 11 = 64 ∧ slotsOf (q 7).toNat = [15] ∧ (64 + 64 - 1) / 64 = 1 ∧ t.mx.slots.find 15 = some { fmt := 0, rows := [] } ∧
    t.mx.active.loaded = true ∧ pairLegal 0 t.mx.active.fmt 0 = true ∧ elemWidth 0 = t.mx.active.cls ∧
    (X.misaligned = false ∧ t.regionBad X.addr X.len = false ∧ s.areaBad t X = false) ∧ t.mx.badIn [17, 16] = false ∧
    matrixHandle (refHandle c (q 0)) (q 0) = true ∧ hDense (refHandle c (q 0)) = true ∧ hFmt (refHandle c (q 0)) = 0 := by
  and_intros <;> first | decide +kernel | rfl

/-- K = 8, of signed bytes. -/
theorem test_meets_IntegerProduct :
    let c := tRegs [(1, 0x200), (3, 8)]
    let s := tCueS c tTroupe 0x88400000
    let fine := fun (A : Area) => A.misaligned = false ∧ tTroupe.regionBad A.addr A.len = false ∧ s.areaBad tTroupe A = false
    s.issuing c ∧ s.troupeOf s.unit = some (0, tTroupe) ∧ s.troupes.find 0 = some tTroupe ∧ s.unit = tTroupe.cue ∧ s.cur.vals = none ∧
    tTroupe.mx.ops = [] ∧ opReserved false (c.rdS s.issue 0) = false ∧ opReserved false (c.rdS s.issue 1) = false ∧ (c.rdS s.issue 3).toNat = 8 ∧
    fmA s.cur.fm = 8 ∧ fmB s.cur.fm = 8 ∧ fmAcc s.cur.fm = 1#2 ∧ fine (areaOf (c.rdS s.issue 0) 64 8 8) ∧ fine (areaOf (c.rdS s.issue 1) 64 8 8) ∧
    tTroupe.mx.otherFmt 1 = false ∧ tTroupe.mx.badIn [0] = false := by
  and_intros <;> first | decide +kernel | rfl

/-- MSHO of the cells and LSCAN at the least and the greatest counts that the scratchpad holds; a gate program; a fetched tile. -/
theorem test_meets_MatrixStatusCompletions :
    let c := tRegs [(1, 0x8000), (3, 0x10001), (4, 0x100010)]
    let s := tCueS c tTroupe 0
    let q := fun (n : Nat) => c.s[n]?.getD 0
    let fine := fun (A : Area) => A.misaligned = false ∧ tTroupe.regionBad A.addr A.len = false ∧ s.areaBad tTroupe A = false
    s.issuing c ∧ s.troupeOf s.unit = some (0, tTroupe) ∧ s.troupes.find 0 = some tTroupe ∧ s.unit = tTroupe.cue ∧ s.cur.vals = none ∧
    tTroupe.mx.ops = [] ∧ s.scratch.wf = true ∧ opReserved true (q 0) = false ∧ tTroupe.mx.takenAll (slotsOf 0) = true ∧
    fine (areaOf (q 0) 64 64 32) ∧ tTroupe.mx.gate.filterMap (gateArea 64 64) = [] ∧ tTroupe.mx.badIn [0] = false ∧
    (∀ n ∈ [3, 4], let b := (q n).toNat
      b / 2 ^ 11 % 2 ^ 5 = 0 ∧ b < 2 ^ 29 ∧ 1 ≤ b % 2 ^ 11 ∧ b % 2 ^ 11 ≤ 1024 ∧ 1 ≤ b / 2 ^ 16 % 2 ^ 13 ∧ b / 2 ^ 16 % 2 ^ 13 ≤ 4096 ∧
      fine (areaOf (q 0) (b % 2 ^ 11) (b / 2 ^ 16 % 2 ^ 13) 32) ∧ fine (areaOf (q 1) (b % 2 ^ 11) (b / 2 ^ 16 % 2 ^ 13) 32) ∧
      (areaOf (q 0) (b % 2 ^ 11) (b / 2 ^ 16 % 2 ^ 13) 32).overlaps (areaOf (q 1) (b % 2 ^ 11) (b / 2 ^ 16 % 2 ^ 13) 32) = false) ∧
    ((q 0).toNat < 2 ^ 22 ∧ (q 0).toNat % 64 = 0 ∧ tTroupe.regionBad 0 64 = false ∧
      s.areaBad tTroupe { addr := 0, pitch := 0, rows := 1, rowBytes := 64 } = false) ∧
    fmLegal ((q 0).setWidth 32) = true := by
  and_intros <;> first | decide +kernel | rfl

/-- MSHO of a slot that is taken, through a gate program of one operation. -/
theorem test_meets_MatrixStatusCompletions_slot :
    let c := tRegs [(1, 0x1000000008000)]
    let t := { tTroupe with mx := { Matrix.start 0 with slots := [(0, { fmt := 0, rows := [] })], gate := [0x3000000000000000] } }
    let s := tCueS c t 0
    let q := c.s[1]?.getD 0
    let D := areaOf q 64 64 32
    s.issuing c ∧ s.troupeOf s.unit = some (0, t) ∧ s.scratch.wf = true ∧ opReserved true q = false ∧ slotsOf (q.toNat / 2 ^ 48 % 2 ^ 16) = [0] ∧
    t.mx.takenAll [0] = true ∧ D.misaligned = false ∧ t.regionBad D.addr D.len = false ∧ t.mx.gate.filterMap (gateArea 64 64) = [] ∧
    t.mx.badIn [1] = false := by
  and_intros <;> first | decide +kernel | rfl

theorem test_meets_MatrixStatusCompletions_fetch :
    let o : MatOp := { id := 1, engine := .loader, instr := .mldwH 0, vals := [0], fm := 0, mask := 0, reads := [], writes := [], due := none, done := false }
    let t := { tTroupe with mx := { Matrix.start 0 with ops := [o] } }
    let f : FarOp := { tFar with unit := .cue 0 0, instr := .mldwH 0, cls := .fetch, tile := tEmpty.toList }
    let s : State := { tCueS tCtx t 0 with fars := [f], ev := { kind := .handleFetchComplete, unit := .cue 0 0, id := 1 } }
    s.troupeOf s.ev.unit = some (0, t) ∧ s.troupes.find 0 = some t ∧ s.fars.find? (fun x => decide (x.id = s.ev.id)) = some f ∧
    t.mx.ops.find? (fun o => decide (o.id = f.id)) = some o ∧ o.instr = .mldwH 0 ∧
    (match (s.handleTile f.unit f.level (f.handleAt 0) 0 (64 * stepP (pairWidth (hFmt (f.handleAt 0)) 0) (hStructured (f.handleAt 0))) 64 0).2 with
      | .ok (_, b) => !b | .error _ => false) = true := by
  and_intros <;> first | decide +kernel | rfl


/-- Fetched operands of MMAO.H with K = 8, and activations of MMAW.H with R = 64 for slot 15. -/
theorem test_meets_MatrixStatusCompletions_fetches :
    let o : MatOp := { id := 1, engine := .array, instr := .mmaoH 0 0 0, vals := [0, 0, 8], fm := 0, mask := 0, reads := [], writes := [], due := none, done := false }
    let w : MatOp := { o with instr := .mmawH 0 0 0, vals := [0, 0, 0x40], mask := 0x8000 }
    let t := fun (x : MatOp) => { tTroupe with mx := { Matrix.start 0 with ops := [x] } }
    let f := fun (x : MatOp) => ({ tFar with unit := .cue 0 0, instr := x.instr, cls := .fetch, tile := tEmpty.toList ++ tEmpty.toList } : FarOp)
    let s := fun (x : MatOp) => ({ tCueS tCtx (t x) 0 with fars := [f x], ev := { kind := .handleFetchComplete, unit := .cue 0 0, id := 1 } } : State)
    let ok := fun (r : State × Except (Xerr × Nat) (List TileRow × Bool)) => (match r.2 with | .ok (_, b) => !b | .error _ => false) = true
    let first := (s o).handleTile (.cue 0 0) 0 ((f o).handleAt 0) 0 8 64 0
    (∀ x ∈ [o, w], (s x).troupeOf (s x).ev.unit = some (0, t x) ∧ (s x).troupes.find 0 = some (t x) ∧
      (s x).fars.find? (fun y => decide (y.id = (s x).ev.id)) = some (f x) ∧ (t x).mx.ops.find? (fun y => decide (y.id = (f x).id)) = some x ∧
      (f x).unit = .cue 0 0 ∧ (f x).level = 0) ∧
    (nth o.vals 2).toNat % 8 = 0 ∧ ok first ∧ ok (first.1.handleTile (.cue 0 0) 0 ((f o).handleAt 1) 0 8 64 0) ∧
    slotsOf w.mask = [15] ∧ (nth w.vals 2).toNat % 2 ^ 11 ≤ 1 * 64 ∧
    ok ((s w).handleTile (.cue 0 0) 0 ((f w).handleAt 0) 0 (64 * (t w).mx.active.p) 64 0) := by
  and_intros <;> first | decide +kernel | rfl

/-- A word behind one that still holds the array, and MFUSE while an engine is at work. -/
theorem test_meets_MatrixStatusCompletions_blocked :
    let o : MatOp := { id := 0, engine := .array, instr := .mzero, vals := [], fm := 0, mask := 0, reads := [], writes := [], due := some 9, done := false }
    let t : Troupe := { tTroupe with mx := { tTroupe.mx with ops := [o] } }
    let s := tCueS tCtx t 0
    s.issuing tCtx ∧ s.troupeOf s.unit = some (0, t) ∧ s.unit = t.cue ∧ s.cur.vals = none ∧ (s.here tCtx).held = none ∧
    (∃ o ∈ t.mx.ops, o.blocks s.cycle .array [] [.cells] = true) ∧ ∃ o ∈ t.mx.ops, o.engine ≠ .none ∧ ∀ n, o.due = some n → s.cycle ≤ n := by
  refine ⟨rfl, rfl, rfl, rfl, rfl, ⟨_, List.mem_singleton.2 rfl, rfl⟩, _, List.mem_singleton.2 rfl, by decide, fun n h => ?_⟩
  cases h; decide

/-- MSTAT.STATE, which uses no engine, has not completed: it reads the cells. -/
theorem test_meets_MatrixStatusCompletions_state :
    let o : MatOp := { id := 0, engine := .none, instr := .mstatState 0, vals := [], fm := 0, mask := 0, reads := [.cells], writes := [], due := some 0, done := false }
    let t : Troupe := { tTroupe with mx := { tTroupe.mx with ops := [o] } }
    let s := tCueS tCtx t 0
    s.issuing tCtx ∧ s.troupeOf s.unit = some (0, t) ∧ s.unit = t.cue ∧ s.cur.vals = none ∧ (s.here tCtx).held = none ∧
    ∃ o ∈ t.mx.ops, (∃ x ∈ o.reads ++ o.writes, x = .cells ∨ x = .active ∨ x = .shadow) ∧ ∀ n, o.due = some n → s.cycle ≤ n := by
  refine ⟨rfl, rfl, rfl, rfl, rfl, _, List.mem_singleton.2 rfl, ⟨.cells, by decide, .inl rfl⟩, fun n h => ?_⟩
  cases h; decide

def tQueue : Queue := { Queue.zero false with en := true, qlog2 := 4, running := some (1, 0), core := some 0 }

/-- A queue with entries `q` of interface 0, whose sheet is at issue. -/
def tBoard (q : Queue) (c : Ctx) : State :=
  { tIn (.board 0 0) c with vdis := [(0, { tVdi with queues := [(0, q)] })] }

theorem test_meets_CallboardWords :
    let c := tRegs [(1, 1), (2, 5)]
    let v : Vdi := { tVdi with queues := [(0, tQueue)] }
    let s := tBoard tQueue c
    let value := ((s.sems.find (v.img.semBase + 7)).getD 0).toNat
    s.issuing c ∧ s.unit = .board 0 0 ∧ (s.here c).held = none ∧ s.cur.turn.slotB = false ∧ s.vdis.find 0 = some v ∧ v.queues.find 0 = some tQueue ∧
    tQueue.running = some (1, 0) ∧ c.rdS s.issue 3 = (if tQueue.kind then 1#64 else 0#64) ∧ c.rdS s.issue 1 ≠ (if tQueue.kind then 1#64 else 0#64) ∧
    (7 : BitVec 12).toNat < v.img.semShare ∧ (c.rdS s.issue 3).toNat ≤ value ∧ value < (c.rdS s.issue 2).toNat ∧
    v.img.semShare ≤ (8 : BitVec 12).toNat ∧ v.bme = true ∧ ({ v with bme := false } : Vdi).bme = false ∧
    v.fltail - v.flack ≠ 64 ∧ ({ v with fltail := 64 } : Vdi).fltail - v.flack = 64 := by
  and_intros <;> first | decide +kernel | rfl

/-- Sizes 4 and 12; a tail that is as far ahead as the queue is long, and one further; entries with the right and a wrong number; a
completion; a context that a core takes; one that has aged. -/
theorem test_meets_QueueEvents :
    let on := fun (q : Queue) (x : Dword) (flag : Bool) (h : Memory) =>
      ({ tBoard q tCtx with ev := { kind := .nop, dword := x, flag := flag }, hostMem := h, cycle := 65536 } : State)
    let off : Queue := { Queue.zero true with qlog2 := 4 }
    let wait : Queue := { tQueue with running := none, qtail := 1 }
    let fin : Queue := { tQueue with finished := [(16, 0)], qdone := 15 }
    let rdy : Queue := { tQueue with running := none, core := none, readySince := some 0, accepted := [(1, 2, 3)] }
    let s := on off 0x40 false []
    let w := on wait 0 true (Memory.putWord [] 16 1)
    let f := on fin 0 false []
    let r := on rdy 0 false []
    s.vdis.find s.ev.a = some { tVdi with queues := [(0, off)] } ∧ off.en = false ∧ 4 ≤ s.ev.dword.toNat / 2 ^ 4 % 16 ∧ s.ev.dword.toNat / 2 ^ 4 % 16 ≤ 12 ∧
    (on off 0xC0 false []).ev.dword.toNat / 2 ^ 4 % 16 = 12 ∧
    ((16 : Word) - off.qacc).toNat ≤ 2 ^ off.qlog2.toNat ∧ 2 ^ off.qlog2.toNat < ((17 : Word) - off.qacc).toNat ∧
    (w.vdis.find w.ev.a = some { tVdi with queues := [(0, wait)] } ∧ wait.en = true ∧ wait.stop = 0#2 ∧ wait.qacc ≠ wait.qtail ∧ w.ev.flag = true ∧
      w.hostMem.word (wait.qbase.toNat + 16 * ((wait.qacc + 1).toNat % 2 ^ wait.qlog2.toNat)) = wait.qacc + 1) ∧
    (on wait 0 true []).hostMem.word (wait.qbase.toNat + 16 * ((wait.qacc + 1).toNat % 2 ^ wait.qlog2.toNat)) ≠ wait.qacc + 1 ∧
    (on wait 0 false []).ev.flag = false ∧
    (f.vdis.find f.ev.a = some { tVdi with queues := [(0, fin)] } ∧ fin.finished = (16, 0) :: [] ∧ fin.en = true ∧ tVdi.bme = true ∧
      (fin.qdone - fin.qcack).toNat ≠ 2 ^ fin.qlog2.toNat ∧ (({ fin with qdone := 16 } : Queue).qdone - fin.qcack).toNat = 2 ^ fin.qlog2.toNat) ∧
    (r.freeBoards = 0 :: [1, 2, 3, 4, 5, 6, 7] ∧ r.readyContexts = [(r.ev.a, r.ev.b, rdy)] ∧ rdy.running = none ∧ rdy.accepted = (1, 2, 3) :: [] ∧
      rdy.readySince = some 0 ∧ 0 + 65536 * (rdy.aged + 1) ≤ r.cycle) := by
  and_intros <;> first | decide +kernel | rfl

theorem test_meets_HostAndCopyEvents :
    let off : Queue := Queue.zero true
    let v : Vdi := { tVdi with queues := [(15, off)] }
    let h : Held := { tHeld with instr := .cbSubmit 1 2, asleep := true, tag := 5 }
    let c : Ctx := { tCtx with a := { tCtx.a with held := some h } }
    let s := fun (b : Nat) (flag : Bool) => ({ tAt c with vdis := [(0, v)], ev := { kind := .registerWrite, b := b, flag := flag, id := 5 } } : State)
    let k : Copy := { tCopy with w0 := 0x800000000, pos := 1 }
    let e := fun (k : Copy) => ({ tS with engines := [(0, k)], ev := { kind := .copyComplete, b := 0x0A } } : State)
    let w : Vdi := { tVdi with copies := [tCopy] }
    let q : State := { tS with vdis := [(0, w)], engines := [] }
    (s 7 true).vdis.find (s 7 true).ev.a = some v ∧ (s 7 true).ev.b < v.img.semShare ∧ v.img.semShare ≤ (s 8 true).ev.b ∧
    ((s 0x0808 true).ev.flag = true ∧ (s 0x0808 true).ev.b = 0x0808) ∧
    (v.queues.find 15 = some off ∧ (15 < 16) ∧ off.en = false ∧ (s 0x13C8 true).ev.b = 0x1008 + 0x40 * 15 ∧ (s 0x13D0 true).ev.b = 0x1010 + 0x40 * 15) ∧
    ((s 0 false).ev.flag = false ∧ (s 0 false).ev.unit = .cast 0 0 0 ∧ (s 0 false).ctxs.find (s 0 false).ev.unit = some c ∧ c.a.held = some h ∧ c.a.also = [] ∧
      h.asleep = true ∧ h.tag = (s 0 false).ev.id) ∧
    (q.vdis.filter (fun w => !w.2.copies.isEmpty) = [(0, w)] ∧ q.vdis.find 0 = some w ∧ w.copies = tCopy :: [] ∧
      (List.range 4).filter (fun e => (q.engines.find e).isNone) = 0 :: [1, 2, 3] ∧ tCopy.w0.getLsbD 34 = false ∧ tCopy.len.toNat ≤ 2 ^ 48) ∧
    ((e { tCopy with pos := 1 }).engines.find 0 = some { tCopy with pos := 1 } ∧ tCopy.len.toNat ≤ 1 ∧ tCopy.w0.getLsbD 35 = false) ∧
    ((e k).engines.find 0 = some k ∧ k.faulted = false ∧ k.len.toNat ≤ k.pos ∧ k.w0.getLsbD 35 = true ∧ (e k).semIndex k.vdi (k.w0.toNat / 2 ^ 36 % 2 ^ 12) = some 0) ∧
    (let f : Copy := { tCopy with faulted := true }
     let s0 := fun (b : Nat) => (e f).report 0 (engineCause b) (copyFaultRecord (e f).fresh f 0 { cause := engineCause b, gpa := 0 })
     (e f).engines.find 0 = some f ∧ (s0 0x0A).repairFault 0 0 0x0A 0 = none ∧ ((s0 (Cause.code .pageFault)).repairFault 0 0 (Cause.code .pageFault) 0).isSome = true ∧
       tVdi.fltail - tVdi.flack ≠ 64) := by
  and_intros <;> first | decide +kernel | rfl

/-- A write of a configuration dword and of a dword of the MSI-X table, and a write that sets or clears Bus Master Enable. -/
theorem test_meets_HostAndCopyEvents_bus :
    let s := fun (b : Nat) (flag : Bool) => ({ tS with ev := { kind := .busMasterEnable, b := b, c := 3, word := 5, flag := flag } } : State)
    (∀ b flag, (s b flag).vdis.find (s b flag).ev.a = some tVdi) ∧ (s 1 false).ev.b = 1 ∧ (s 2 false).ev.b = 2 ∧
    ((s 0 true).ev.b ≠ 1 ∧ (s 0 true).ev.b ≠ 2 ∧ (s 0 true).ev.flag = true) ∧ (s 0 false).ev.flag = false := by
  refine ⟨fun _ _ => rfl, rfl, rfl, ⟨?_, ?_, rfl⟩, rfl⟩ <;> decide

/-- One byte is copied from 0x40 to 0x48, whatever the free values of its second translation. -/
theorem test_meets_HostAndCopyEvents_part :
    let s := tRead []
    s.engines.find s.ev.a = some tCopy ∧ tCopy.faulted = false ∧ tCopy.pos < tCopy.len.toNat ∧ ∃ s1, s.copyPart tCopy = (s1, .ok ()) := by
  refine ⟨rfl, rfl, by decide, ((tRead []).copyPart tCopy).1, Prod.ext rfl ?_⟩
  have h := tRead_reads [] [] [] tCtx
  have p : tCopy.part = 1 := by decide
  have a1 : addressCheck ((0x40 : Nat) : Int) 1 = none := by decide +kernel
  have a2 : addressCheck ((0x48 : Nat) : Int) 1 = none := by decide +kernel
  have t1 : tCopy.src.toNat + tCopy.pos = 0x40 := by decide
  have t2 : tCopy.dst.toNat + tCopy.pos = 0x48 := by decide
  have v : tCopy.vdi = 0 := rfl
  unfold State.copyPart
  simp only [p, t1, t2, v, State.copySource, a1, a2, h.access _ 0x40 (by decide) (by decide), (h.fresh _).access _ 0x48 (by decide) (by decide)]


/-- A sheet's nest record that is accepted and one that is refused; a group table entry with the last index; a post of the window; a copy
whose length a bin gives, and one whose bin is too large. -/
theorem test_meets_HostAndCopyEvents_records :
    let v : Vdi := { tVdi with queues := [(0, tQueue)] }
    let h := fun (va : Dword) => ({ tHeld with instr := .cbSubmit 1 2, asleep := true, tag := 5, vals := [va, 0] } : Held)
    let c := fun (va : Dword) => ({ tCtx with a := { tCtx.a with held := some (h va) } } : Ctx)
    let b := fun (va : Dword) => ({ tRead [] with vdis := [(0, v)], ctxs := [(.board 0 0, c va)], ev := { kind := .recordPresented, unit := .board 0 0, id := 5 } } : State)
    let g : State := { tS with ev := { kind := .registerWrite, id := 1, point := [1, 0, 9, 4095] } }
    let p : State := { tRead [] with ev := { kind := .recordPresented, flag := true } }
    let k : Copy := { tCopy with w0 := 0x400000000 }
    let w : Vdi := { tVdi with copies := [k] }
    let q := fun (n : Dword) => ({ tS with vdis := [(0, w)], engines := [], bins := [(0, n)] } : State)
    let n := fun (x : Dword) => (((q x).bins.find (w.img.binBase + k.w0.toNat / 2 ^ 20 % 2 ^ 12)).getD 0).toNat * 2 ^ (k.w0.toNat % 16)
    (∀ va, (b va).vdis.find (b va).ev.a = some v ∧ (b va).ev.flag = false ∧ (b va).ev.unit = .board (b va).ev.a 0 ∧ v.queues.find 0 = some tQueue ∧
      (b va).ctxs.find (b va).ev.unit = some (c va) ∧ (c va).sleeper (b va).ev.id = some (h va) ∧ (h va).vals = [va, 0]) ∧
    (∃ s1 r, (b 0x40).readBase (b 0x40).ev.a 1 40 (0x40 : Dword).toNat 256 = (s1, .ok r) ∧ nestLegal v (0x40 : Dword).toNat r = true) ∧
    v.launches.length < 64 ∧ tQueue.running = some (1, 0) ∧
    (∃ s1 r, (b 0).readBase (b 0).ev.a 1 40 (0 : Dword).toNat 256 = (s1, .ok r) ∧ nestLegal v (0 : Dword).toNat r = false) ∧
    (g.ev.id = 1 ∧ g.ev.point = [(1 : BitVec 32).toNat, (0 : BitVec 32).toNat, (9 : BitVec 32).toNat, (4095 : BitVec 32).toNat] ∧
      g.vdis.find (0 : BitVec 32).toNat = some tVdi ∧ (1 : BitVec 32).toNat < 2 ^ 24 ∧ (9 : BitVec 32).toNat < 2 ^ 20 ∧ (4095 : BitVec 32).toNat < 4096 ∧
      g.coll.groups.length < 1024) ∧
    (p.ev.flag = true ∧ p.ev.dword.toNat % 64 = 0 ∧ p.vdis.find p.ev.a = some tVdi ∧
      (∃ s1 r, p.readBase p.ev.a 1 10 p.ev.dword.toNat 64 = (s1, .ok r) ∧ descLegal ((List.range 8).map (recWord r)) = true ∧
        p.coll.member p.ev.a (dGroup ((List.range 8).map (recWord r))) = some (9, 0, false)) ∧
      p.coll.freeEntries ≠ [] ∧ p.coll.shareUsed p.ev.a < tVdi.img.pctShare ∧ (p.coll.window p.ev.a).writes = p.ev.b) ∧
    ((∀ x, (q x).vdis.filter (fun w => !w.2.copies.isEmpty) = [(0, w)] ∧ (q x).vdis.find 0 = some w) ∧ w.copies = k :: [] ∧ k.w0.getLsbD 34 = true ∧
      n (2 ^ 48) ≤ 2 ^ 48 ∧ 2 ^ 48 < n (2 ^ 48 + 1)) := by
  intro v h c b g p k w q n
  have rb (va : Dword) : TReads (b va) := ⟨rfl, rfl, rfl, rfl, _, rfl, rfl, rfl⟩
  have rp : TReads p := ⟨rfl, rfl, rfl, rfl, _, rfl, rfl, rfl⟩
  refine ⟨fun va => ⟨rfl, rfl, rfl, rfl, rfl, rfl, rfl⟩, (rb 0x40).reads _ 32 0x40 (by decide) (by decide) 40 (by decide) _ (by decide +kernel),
    by decide, rfl, (rb 0).reads _ 32 0 (by decide) (by decide) 40 (by decide) _ (by decide +kernel), ⟨rfl, rfl, rfl, by decide, by decide, by decide, by decide⟩,
    ⟨rfl, by decide, rfl, rp.reads _ 8 0 (by decide) (by decide) 10 (by decide) _ (by decide +kernel), ?_, ?_, ?_⟩,
    fun x => ⟨rfl, rfl⟩, rfl, by decide, by decide +kernel, by decide +kernel⟩ <;> decide +kernel

theorem test_meets_ControlRegisters :
    let c := tRegs [(1, 0xFFFFFFFFFFFFFFFF)]
    let s := tAt c
    let m := s.setQuad 0 { Quad.zero with msgs := [(5, .cast 0 0 0)] }
    s.issuing c ∧ s.troupeOf s.unit = some (0, tTroupe) ∧ s.vdis.find tTroupe.vdi = some tVdi ∧ s.ctxs.find tTroupe.cue = some tCtx ∧ s.handledAt c 1 ∧
    (∀ n ∈ [1, 2 ^ 30 - 1, 2 ^ 32 - 1, 2 ^ 10 - 1, 2 ^ 52 - 2 ^ 12, 2 ^ 64 - 1], c.rdS s.issue 2 &&& ~~~ BitVec.ofNat 64 n = 0#64) ∧
    (∀ n ∈ [1, 2 ^ 30 - 1, 2 ^ 32 - 1, 2 ^ 10 - 1, 2 ^ 52 - 2 ^ 12], c.rdS s.issue 1 &&& ~~~ BitVec.ofNat 64 n ≠ 0#64) ∧
    (s.quad s.unit.quadKey).msgs = [] ∧ m.issuing c ∧ (m.quad m.unit.quadKey).msgs = (5, .cast 0 0 0) :: [] := by
  unfold State.handledAt
  and_intros <;> first | decide +kernel | rfl

/-- Words of numbers that the table does not assign, and of registers that only read (R246). -/
theorem test_meets_ControlRegisters_numbers :
    [(0x0FC00083 : Word), 0x0FCD3002, 0x0FC010A3, 0x0FC020C3].all (fun w => decide (fMaj w = 0x3F)) = true ∧
    (fld (0x0FC00083 : Word) 4 12).toNat = 0x008 ∧ (fld (0x0FC00083 : Word) 0 4) = 3#4 ∧ (fld (0x0FCD3002 : Word) 0 4) = 2#4 ∧
    (fld (0x0FCD3002 : Word) 4 12).toNat = 0x300 ∧ (fld (0x0FC010A3 : Word) 4 12).toNat = 0x10A ∧ (fld (0x0FC020C3 : Word) 4 12).toNat = 0x20C ∧
    [(0x0FC00013 : Word), 0x0FC00073, 0x0FC02053, 0x0FC020B3].all (fun w => decide (fMaj w = 0x3F) && decide (fld w 0 4 = 3#4)) = true ∧
    (fld (0x0FC00013 : Word) 4 12).toNat = 0x001 ∧ (fld (0x0FC020B3 : Word) 4 12).toNat = 0x20B := by
  and_intros <;> decide

/-- Counter numbers at the ends of the defined ranges; a lane and a word at the ends of a record; a whole-path record, a parked lane
and none; both levels. -/
theorem test_meets_TimeCountersRecords :
    let c := tLvl 1 (tRegs [(1, 40), (2, 49), (3, 50), (4, 51), (5, 31), (6, 3), (7, 32)])
    let d : Ctx := { c with whole := [(1, [1, 2, 3, 4])] }
    let k : Park := { lane := 31, level := 1, pid := 1, rec0 := 0, rec1 := 0, rec2 := 0, rec3 := 0, cause := .misaligned, op := tFar }
    let e : Ctx := { c with parked := [k], sup := { c.sup with park := 0x80000000 } }
    let s := tAt c
    let r := fun (n : Reg) => (c.rdS s.issue n).toNat
    s.issuing c ∧ s.vdis.find (s.vdiOf s.unit) = some tVdi ∧ r 0 ≤ 7 ∧ (16 ≤ r 1 ∧ r 1 ≤ 40) ∧ r 2 = 49 ∧ r 3 = 50 ∧ 51 ≤ r 4 ∧ 32 ≤ r 7 ∧ 4 ≤ r 1 ∧
    r 5 < 32 ∧ r 6 < 4 ∧ (tAt d).issuing d ∧ d.whole.find? (fun w => decide (w.1 = ((tAt d).here d).plvl.toNat)) = some (1, [1, 2, 3, 4]) ∧
    (tAt e).issuing e ∧ (∀ w ∈ e.whole, w.1 ≠ 1) ∧ e.parked = [k] ∧ k.level = ((tAt e).here e).plvl.toNat ∧ k.lane = r 5 ∧
    e.sup.park.getLsbD k.lane = true ∧ c.sup.park.getLsbD 31 = false ∧ (∀ w ∈ c.whole, w.1 ≠ 1) ∧
    (∀ p ∈ c.parked, p.level ≠ 1 ∨ p.lane ≠ 31) ∧ (s.here c).plvl = 1#2 ∧
    (tAt (tLvl 2 c)).issuing (tLvl 2 c) ∧ ((tAt (tLvl 2 c)).here (tLvl 2 c)).plvl = 2#2 := by
  and_intros <;> first | decide +kernel | rfl

/-- With no access under way, and with one that has been translated. -/
theorem test_meets_TranslationInvalidate :
    let s := tAt tCtx
    let p : State := { s with fars := [{ tFar with id := 0, checked := true }] }
    s.issuing tCtx ∧ s.cur.vals = none ∧ (s.here tCtx).held = none ∧ s.translatedPending (s.vdiOf s.unit) = false ∧ s.ctxs.find (.cue 0 0) = some tCtx ∧
    p.issuing tCtx ∧ p.translatedPending (p.vdiOf p.unit) = true := by
  and_intros <;> first | decide +kernel | rfl

/-- The words at issue: a macro record of one operation and of 32 that end at the stack, each operand that is refused, and a message with
room on its way. -/
theorem test_meets_SystemServices :
    let c := tRegs [(1, 127), (2, 0xFEF70), (3, 0x8000000000), (4, 0x1E), (5, 0x1000000000000000), (6, 0x0100000000000000), (7, 0xFEF58), (8, 0xFF000), (9, 1),
                    (10, 0x400000), (11, 128)]
    let s := { tAt c with troupes := [(0, { tTroupe with startAt := 0 })], scratch := (Memory.putWord [] 0xFEF70 1).putWord 0xFEF58 32 }
    let p : State := { s with fars := [{ tFar with id := 0 }] }
    let y := fun (r : Reg) => (c.rdS s.issue r).toNat
    let marks := fun (r : Reg) => (s.scratch.read (tTroupe.scratchAddr (y r))).toNat % 64
    s.issuing c ∧ (s.here c).held = none ∧ s.unit.kind = .cast ∧ s.troupeOf s.unit = some (0, tTroupe) ∧ s.troupes.find 0 = some tTroupe ∧
    s.vdis.find (s.vdiOf s.unit) = some tVdi ∧ s.cur.vals = none ∧ s.handledAt c 1 ∧
    templateLegal (c.rdS s.issue 4) = true ∧ canonical (y 3) = true ∧ templateLegal (c.rdS s.issue 9) = false ∧ canonical (y 6) = false ∧ y 1 < 128 ∧
    (∀ r ∈ [2, 7], y r < 2 ^ 22 ∧ y r % 8 = 0 ∧ 1 ≤ marks r ∧ marks r ≤ 32 ∧ y r + 0x88 + marks r ≤ tTroupe.quads.length * 2 ^ 20 ∧ y r % 2 ^ 20 < 0xFF000 ∧
      (y r + 0x87 + marks r) % 2 ^ 20 < 0xFF000) ∧ marks 2 = 1 ∧ marks 7 = 32 ∧
    128 ≤ y 11 ∧ 2 ^ 22 ≤ y 10 ∧ y 9 % 8 ≠ 0 ∧ (y 8 < 2 ^ 22 ∧ y 8 % 8 = 0 ∧ 0xFF000 ≤ y 8 % 2 ^ 20) ∧
    routeQuad s.unit.place.1 (c.rdS s.issue 0) = some 0 ∧ (s.drainUnit s.unit).priorDone s.unit s.cur.tag = true ∧
    routeQuad s.unit.place.1 (c.rdS s.issue 5) = none ∧ p.issuing c ∧ (p.drainUnit p.unit).priorDone p.unit p.cur.tag = false := by
  unfold State.handledAt
  and_intros <;> first | decide +kernel | rfl

/-- MAPPG behind whose walk stands a fault of stage 2, at level 1, and a malformed entry; MDEF with a path inside its macro, and with
an operation that no macro holds; a message for a full queue. -/
theorem test_meets_SystemServices_refused :
    let c := tLvl 1 tCtx
    let walks := fun (x : Vdi) (va : Nat) => match tS.mapPage 0 x (va % 2 ^ 57) 0 0xF with | .trap e => some e.cause | _ => none
    let d : Ctx := { tCtx with b := { Path.start 0 with pid := 2, mstep := some 0 } }
    let m := fun (x : Ctx) (w : Word) => ({ tAt x with scratch := (Memory.putWord [] 0 1).putWord 8 w, cur := { tS.cur with vals := some [0, 0, 1] } } : State)
    let record := fun (w : Word) => macroRecord ((m tCtx w).scratch.bytes (tTroupe.scratchAddr 0) 0xA8)
    let h : Held := { tHeld with instr := .smsg 1 2, asleep := true, tag := 5 }
    let a : State := { tAt { tCtx with a := { tCtx.a with held := some h } } with
      ev := { kind := .smsgDeliver, unit := .cast 0 0 0, id := 5 }, sending := [(.cast 0 0 0, 5, 0, 9)],
      quads := [(0, { Quad.zero with msgs := List.replicate 16 (0, .cast 0 0 0) })] }
    (tAt c).issuing c ∧ (tAt c).handledAt c 2 ∧ ((tAt c).here c).live = true ∧ c.undo = [] ∧ c.parked = [] ∧
    walks { tVdi with sptr := 0x40000000 } 0 = some .stage2Fault ∧ walks { tVdi with sptr := 0 } 0 = some .protFault ∧
    (m d 0x01030420).issuing d ∧ (m d 0x01030420).insideMacro tTroupe 0 = true ∧ record 0x01030420 ≠ none ∧
    (m tCtx 0x10000000).issuing tCtx ∧ record 0xFC000000 = none ∧ (m tCtx 0).handledAt tCtx 1 ∧
    a.sending = [(a.ev.unit, h.tag, 0, 9)] ∧ 16 ≤ (a.quad 0).msgs.length := by
  unfold State.handledAt
  and_intros <;> first | decide +kernel | rfl

theorem test_meets_SystemServices_answers :
    let v : Vdi := { tVdi with plnext := 0x30000, plend := 0x40000 }
    let s : State := { tAt tCtx with vdis := [(0, v)], cur := { tS.cur with vals := some [0x8000000000, 0x1E, 1] } }
    let m : State := { tAt tCtx with scratch := (Memory.putWord [] 0 1).putWord 8 0x01030420, cur := { tS.cur with vals := some [127, 0, 1] } }
    let h : Held := { tHeld with instr := .smsg 1 2, asleep := true, tag := 5 }
    let c : Ctx := { tCtx with a := { tCtx.a with held := some h } }
    let a : State := { tAt c with ev := { kind := .smsgDeliver, unit := .cast 0 0 0, id := 5 }, sending := [(.cast 0 0 0, 5, 0, 9)],
                                  quads := [(0, { Quad.zero with msgs := List.replicate 15 (0, .cast 0 0 0) })] }
    s.issuing tCtx ∧ templateLegal 0x1E = true ∧ canonical 0x8000000000 = true ∧
    (match s.mapPage 0 v (0x8000000000 % 2 ^ 57) (0x1E / 2 ^ 60 % 8) (0x1E / 2 % 16) with | .value _ r => decide (r = 0x33000) | _ => false) = true ∧
    m.issuing tCtx ∧ macroRecord (m.scratch.bytes (tTroupe.scratchAddr 0) 0xA8) = some { ops := [0x01030420], marks := [0] } ∧
    m.insideMacro tTroupe 127 = false ∧
    a.ctxs.find a.ev.unit = some c ∧ c.a.held = some h ∧ c.a.also = [] ∧ h.asleep = true ∧ h.tag = a.ev.id ∧
    a.sending = [(a.ev.unit, h.tag, 0, 9)] ∧ (a.quad 0).msgs.length < 16 := by
  and_intros <;> first | decide +kernel | rfl


/-- Both ends of the data store and of the scratchpad below the stack, for the widest access; a branch of each kind taken and not
taken; a divisor of zero and one that is not; and the point of the troupe. -/
theorem test_meets_StagehandStandard :
    let h : Hand := { tHand with x := (tHand.x.setIfInBounds 11 1).setIfInBounds 12 0xFFFFFFFF }
    let s := { tRig with hands := [(.rigger 0 0, h)] }
    let a := h.reg 11
    let b := h.reg 12
    s.hands.find s.unit = some h ∧ s.troupeOf s.unit = some (0, tTroupe) ∧ s.pointOf tTroupe = some tPoint ∧
    a ≠ b ∧ b.toInt < a.toInt ∧ a.toNat < b.toNat ∧ h.reg 10 = 0#32 ∧ h.reg 10 = h.reg 9 ∧ a.toInt ≤ a.toInt ∧ s.handQuiet s.unit = true ∧
    [(0x10000 : Word), 0x13FFC].all (fun x => decide (0x10000 ≤ (h.reg 10 + x).toNat) && decide ((h.reg 10 + x).toNat + 4 ≤ 0x14000) && decide ((h.reg 10 + x).toNat % 4 = 0)) = true ∧ h.poison = [] ∧
    [(0x400000 : Word), 0x4FEFFC].all (fun x => decide (0x400000 ≤ (h.reg 10 + x).toNat) &&
      decide ((h.reg 10 + x).toNat - 0x400000 + 4 ≤ tTroupe.quads.length * 2 ^ 20) && decide ((h.reg 10 + x).toNat + 4 ≤ 0x800000) &&
      decide (((h.reg 10 + x).toNat - 0x400000) % 2 ^ 20 < 0xFF000) && decide ((h.reg 10 + x).toNat % 4 = 0)) = true ∧
    s.scratchPoison = [] := by
  and_intros <;> first | decide +kernel | rfl

/-- A FENCE with a copy under way; an access that is misaligned, one outside both stores, one that ends in a reserved area; CSRs that are there,
one that is not, and a read that writes nothing. -/
theorem test_meets_StagehandStandard_stops :
    let s := tRig
    let h := tHand
    let busy : State := { s with fars := [{ tFar with id := 0, unit := .rigger 0 0, cls := .copy, instr := .tcopyIn 0 11 12 }] }
    let at_ := fun (x : Word) => (h.reg 10 + x).toNat
    let inData := fun (x : Word) => 0x10000 ≤ at_ x ∧ at_ x + 4 ≤ 0x14000
    let inScratch := fun (x : Word) => 0x400000 ≤ at_ x ∧ at_ x - 0x400000 + 4 ≤ tTroupe.quads.length * 2 ^ 20 ∧ at_ x + 4 ≤ 0x800000 ∧
      (at_ x - 0x400000) % 2 ^ 20 < 0xFF000
    let off : State := { s with stopped := [0] }
    off.hands.find off.unit = some h ∧ inScratch 0x400000 ∧ at_ 0x400000 % 4 = 0 ∧ tTroupe.scratchAddr (at_ 0x400000 - 0x400000) / 2 ^ 20 ∈ off.stopped ∧
    tTroupe.scratchAddr (at_ 0x400000 - 0x400000) / 2 ^ 20 ∉ s.stopped ∧ s.hands.find s.unit = some h ∧ s.pointOf tTroupe = some tPoint ∧ s.vdis.find tPoint.vdi = some tVdi ∧ tVdi.fltail - tVdi.flack ≠ 64 ∧
    busy.hands.find busy.unit = some h ∧ busy.handQuiet busy.unit = false ∧ at_ 0x10001 % 4 ≠ 0 ∧ at_ 0x10001 % 2 ≠ 0 ∧
    ([0x14000, 0x4FF000, 0x500000] : List Word).all (fun x => decide (at_ x % 4 = 0 ∧ ¬ inData x ∧ ¬ inScratch x)) = true ∧
    (∀ n ∈ [0xF14, 0xB00, 0xB80, 0xB02, 0xB82], h.csr (hartId tTroupe s.unit) n ≠ none) ∧ h.csr (hartId tTroupe s.unit) 0x300 = none ∧
    ¬ (RvCsr.rs = .rw ∨ RvCsr.rs = .rwi ∨ (0 : BitVec 5) ≠ 0#5) := by
  and_intros <;> first | decide +kernel | rfl

theorem test_meets_StagehandExtension :
    let h : Hand := { tHand with x := (tHand.x.setIfInBounds 11 0x10000).setIfInBounds 12 0xFEFC0 |>.setIfInBounds 13 7 |>.setIfInBounds 14 1 |>.setIfInBounds 15 15,
                                 data := Memory.putWord [] 8 16, h := tHand.h.setIfInBounds 0 tHandle }
    let ring : Ring := { desc := 0x1500001, tail := 0, head := 0, freed := 0, full := [] }
    let t := { tTroupe with rings := tTroupe.rings.setIfInBounds 0 ring }
    let s : State := { tRig with hands := [(.rigger 0 0, h)], troupes := [(0, t)] }
    let busy : State := { s with fars := [{ tFar with id := 0, unit := .rigger 0 0, cls := .copy, instr := .tcopyIn 0 11 12 }] }
    let origin := h.data.dword ((h.reg 11).toNat - 0x10000)
    let extent := h.data.dword ((h.reg 11).toNat - 0x10000 + 8)
    let e : State := { busy with ev := { kind := .stagehandTranslationFault, id := 0, a := 0x8000000000, b := 0x09 },
                                 vdis := [(0, { tVdi with plnext := 0x30000, plend := 0x40000000 })] }
    s.hands.find s.unit = some h ∧ s.troupeOf s.unit = some (0, t) ∧ s.troupes.find 0 = some t ∧ s.vdis.find (s.vdiOf s.unit) = some tVdi ∧
    s.counter s.unit .copy < 63 ∧ 0x10000 ≤ (h.reg 11).toNat ∧ (h.reg 11).toNat + 16 ≤ 0x14000 ∧ (h.reg 11).toNat % 8 = 0 ∧ h.poison = [] ∧
    hLegal tHandle = true ∧ tileFits tHandle origin extent = true ∧ (h.reg 12).toNat % 64 = 0 ∧
    t.regionBad (h.reg 12).toNat (if (extentOf tHandle extent).contains 0 then 0 else tileBytes (elemWidth (hFmt tHandle)) (hSpitch tHandle) (extentOf tHandle extent)) = false ∧
    hDense tHandle = true ∧ s.counter s.unit .copy ≤ (h.reg 10).toNat ∧ busy.hands.find busy.unit = some h ∧ (h.reg 10).toNat < busy.counter busy.unit .copy ∧
    s.handQuiet s.unit = true ∧ busy.handQuiet busy.unit = false ∧ (h.reg 15).toNat < tVdi.img.binShare ∧ (h.reg 13).toNat < tVdi.img.semShare ∧
    (h.reg 10).toNat ≤ ((s.sems.find 7).getD 0).toNat ∧ ((s.sems.find 7).getD 0).toNat < (h.reg 14).toNat ∧
    (∃ q z, ring.apply (ringKind s.unit) .ticket = .done q z) ∧ ring.apply (ringKind s.unit) .take = .wait ∧
    (∃ q z, ({ ring with tail := 1 } : Ring).apply 1 (.fill 0) = .done q z) ∧ (∃ q z, ({ ring with tail := 1, full := [0] } : Ring).apply 1 .take = .done q z) ∧
    (∃ q z, ({ ring with tail := 1, head := 1, full := [0] } : Ring).apply 1 .free = .done q z) ∧ ({ ring with tail := 2 } : Ring).apply 1 .ticket = .wait ∧
    s.syncBad s.unit 0 = false ∧ s.handQueued (.rngTkt 0 10) = false ∧
    (e.fars.find? (fun o => decide (o.id = e.ev.id))).isSome = true ∧ (e.repairFault (e.vdiOf (.rigger 0 0)) e.ev.a e.ev.b e.ev.c).isSome = true := by
  and_intros <;> first | decide +kernel | rfl | exact ⟨_, _, rfl⟩

/-- A ring that the other stagehand waits at first; a ring that no stagehand may use; 63 copies under way; a fault that is not repaired. -/
theorem test_meets_StagehandExtension_waits :
    let ring : Ring := { desc := 0x1500001, tail := 0, head := 0, freed := 0, full := [] }
    let t := { tTroupe with rings := tTroupe.rings.setIfInBounds 0 ring }
    let h : Hand := { tHand with held := some (.rngTkt 0 10), tag := 9 }
    let o : Hand := { tHand with held := some (.rngTkt 0 11), tag := 3 }
    let s : State := { tRig with hands := [(.rigger 0 0, h), (.striker 0 0, o)], troupes := [(0, t)], cur := { tRig.cur with tag := 9 } }
    let c : FarOp := { tFar with unit := .rigger 0 0, cls := .copy, instr := .tcopyIn 0 11 12 }
    let f : State := { tRig with fars := (List.range 63).map (fun k => { c with id := k }), ev := { kind := .stagehandTranslationFault, id := 0, a := 0, b := 0x0A } }
    let seen := f.report 0 (engineCause f.ev.b) (faultRecord { c with id := 0, va := [BitVec.ofNat 64 f.ev.a] } 0 { cause := engineCause f.ev.b, gpa := f.ev.c })
    s.hands.find s.unit = some h ∧ (∃ q z, ring.apply (ringKind s.unit) .ticket = .done q z) ∧
    Ring.zero.apply (ringKind s.unit) .ticket = .misuse ∧ s.pointOf t = some tPoint ∧ f.hands.find f.unit = some tHand ∧ 63 ≤ f.counter f.unit .copy ∧
    f.fars.find? (fun o => decide (o.id = f.ev.id)) = some { c with id := 0 } ∧ seen.repairFault 0 f.ev.a f.ev.b f.ev.c = none ∧
    f.troupeOf c.unit = some (0, tTroupe) ∧ f.pointOf tTroupe = some tPoint := by
  and_intros <;> first | decide +kernel | rfl | exact ⟨_, _, rfl⟩

/-- Three failed boots end in recovery mode whatever the image check says; a fourth is not reached in a state of two. The check of an
image and the way to step 5 are values of Config, so a boot that goes on is met when they say so. -/
theorem test_meets_BootAndRecovery :
    let s : State := { State.reset with secure := { State.reset.secure with failedBoots := 3, booted := true }, ev := { kind := .enterRecovery, a := 0xA5 } }
    let t : State := { State.reset with secure := { State.reset.secure with failedBoots := 2 } }
    let r : State := { State.reset with secure := { State.reset.secure with recovery := true }, ev := { kind := .flashErase, a := 0xA5 } }
    3 ≤ s.secure.failedBoots ∧ s.secure.booted = true ∧ s.secure.recovery = false ∧ s.ev.a = 0xA5 ∧
    t.secure.failedBoots < 3 ∧ t.secure.booted = false ∧ (t.flash.check = 0 ∨ t.flash.check ≠ 0) ∧
    r.secure.recovery = true ∧ r.ev.a = 0xA5 ∧ r.flash.busy = false := by
  refine ⟨?_, ?_, ?_, ?_, ?_, ?_, Decidable.em _, ?_, ?_, ?_⟩ <;> decide

/-- The management interface commands in recovery mode and outside it, and the four flash commands at the edges of their blocks. -/
theorem test_meets_BootAndRecovery_flash :
    let at_ := fun (cmd : BitVec 4) (off : BitVec 28) (ok : Bool) (boots : Nat) =>
      ({ tS with flash := { State.reset.flash with cmd := cmd, off := off, busy := true, verified := ok },
                 secure := { State.reset.secure with recovery := true, failedBoots := boots }, ev := { kind := .flashErase, a := 0xA5 } } : State)
    let idle : State := { at_ 1 0 false 0 with flash := State.reset.flash }
    (idle.secure.recovery = true ∧ idle.ev.a = 0xA5 ∧ idle.flash.busy = false) ∧
    (∀ n o, (at_ n o true 3).flash.busy = true ∧ (at_ n o true 3).flash.mem.wf = true ∧
      ¬ ((at_ n o true 3).secure.recovery = true ∧ (at_ n o true 3).ev.a = 0xA5 ∧ (at_ n o true 3).flash.busy = false)) ∧
    (0xFFF0000#28).toNat % 0x10000 = 0 ∧ (0xFFFFF00#28).toNat % 0x10000 ≠ 0 ∧ (0xFFFFF00#28).toNat % 256 = 0 ∧ (0xFFFFFFF#28).toNat % 256 ≠ 0 ∧
    (at_ 4 0 true 3).flash.verified = true ∧ (at_ 4 0 false 3).flash.verified = false ∧ 3 ≤ (at_ 4 0 false 3).secure.failedBoots := by
  intro at_ idle
  refine ⟨by decide, fun n o => ⟨rfl, rfl, fun h => Bool.noConfusion h.2.2⟩, ?_⟩
  and_intros <;> first | rfl | decide

/-- The base point's 96 bytes, a key that every scalar may meet in an ECDH (R322, R325). -/
def tPeer : List Byte := pointBytes (some p384Base)

theorem tPeer_point : pointFrom tPeer = some p384Base := by decide +kernel

theorem tPeer_ecdh (d : Nat) : ∃ z, ecdhX d tPeer = some z := by
  refine ⟨beBytes 48 ((ecMul 384 d (some p384Base)).getD (0, 0)).1, ?_⟩
  unfold ecdhX
  rw [tPeer_point]
  rfl

theorem tNoPeer_ecdh (d : Nat) : ecdhX d [] = none := by
  have : pointFrom [] = none := by decide +kernel
  unfold ecdhX
  rw [this]
  rfl

/-- Every phase of a connection with the message that it waits for, and one that it does not wait for; each kind of measurement
block; a key exchange with the base point and with no point; a FINISH with the right MAC and with a longer one. -/
theorem test_meets_SpdmMessages :
    let on := fun (p : Spdm) (k : Nat) (bs : List (List Byte)) =>
      ({ tS with secure := { State.reset.secure with conns := [(0, { phase := p })] }, ev := { kind := .getVersion, a := k, bytes := bs } } : State)
    let c := fun (p : Spdm) => ({ phase := p } : Conn)
    (∀ p k bs, (on p k bs).secure.conn 0 = c p) ∧ (on .capabilities 15 []).ev.a % 16 = 15 ∧ (on .capabilities 7 []).ev.a % 16 ≠ 15 ∧
    (on .algorithms 7 []).measurementBlock (on .algorithms 7 []).ev.a = some ((on .algorithms 7 []).secure.meas.getD 6 []) ∧
    (on .algorithms 16 []).measurementBlock 16 = some (p384Public (on .algorithms 16 []).secure.encoreKey) ∧
    (on .algorithms 8 []).measurementBlock (on .algorithms 8 []).ev.a = none ∧ (on .algorithms 0 []).vdis.find 0 = some tVdi ∧
    (∃ z, ecdhX (ephemeralKey (on .algorithms 0 [tPeer]).secure.ephemerals) ((on .algorithms 0 [tPeer]).ev.bytes.headD []) = some z) ∧
    ecdhX (ephemeralKey (on .algorithms 0 [[]]).secure.ephemerals) ((on .algorithms 0 [[]]).ev.bytes.headD []) = none ∧
    (on .exchanged 0 [Config.finishMac [] []]).ev.bytes.headD [] = Config.finishMac (c .exchanged).secret (c .exchanged).peer ∧
    (on .exchanged 0 [0 :: Config.finishMac [] []]).ev.bytes.headD [] ≠ Config.finishMac (c .exchanged).secret (c .exchanged).peer := by
  refine ⟨fun p k bs => rfl, by decide, by decide, rfl, rfl, rfl, rfl, tPeer_ecdh _, tNoPeer_ecdh _, rfl, ?_⟩
  show (0 : Byte) :: Config.finishMac [] [] ≠ Config.finishMac [] []
  exact List.cons_ne_self _ _

/-- A session: END_SESSION under its key, a message with no tag; and a management flit with GET_VERSION. -/
theorem test_meets_SpdmMessages_session :
    let c : Conn := { phase := .secured }
    let k := c.key 0 c.received
    let r := gcmSeal k.1 k.2 [] [9]
    let on := fun (bs : List Byte) => ({ tS with secure := { State.reset.secure with conns := [(0, c)] }, ev := { kind := .endSession, bytes := [[9], bs] } } : State)
    let f : Flit := { dst := 0, src := 9, gen := 0, type := 7, len := 0, seq := 1, ctx := 0, payload := [] }
    let m : State := { tS with fabric := { State.reset.fabric with ports := [(17, { up := true, dgen := 0, dtype := 0, ddst := 0 })] },
                               ev := { kind := .managementFlit, port := 17, flit := some f, id := 0 } }
    c.phase = .secured ∧ (∀ bs, (on bs).secure.conn 0 = c) ∧ c.opens ((on (r.1 ++ r.2)).ev.bytes.getD 1 []) ((on (r.1 ++ r.2)).ev.bytes.headD []) = true ∧
    c.opens ((on []).ev.bytes.getD 1 []) ((on []).ev.bytes.headD []) = false ∧
    m.ev.flit = some f ∧ f.type = 7#4 ∧ (m.arrive m.ev.port f).2 = true := by
  intro c k r on f m
  refine ⟨rfl, fun _ => rfl, Conn.opens_sealed c [9], ?_, rfl, rfl, by decide +kernel⟩
  have h (w : List (List Byte)) (n a : List Byte) : gcmTag w n a [] ≠ [] := by
    intro e; have := congrArg List.length e; simp at this
  show decide (gcmOpen _ _ [] [] [] = some [9]) = false
  unfold gcmOpen
  simp only [h, if_false]
  rfl

/-- AES-256 of the example of FIPS 197, C.3 (R325). -/
theorem test_aes_block :
    aesBlock (aesSchedule (beBytes 32 0x000102030405060708090A0B0C0D0E0F101112131415161718191A1B1C1D1E1F)).reverse (beBytes 16 0x00112233445566778899AABBCCDDEEFF) =
      beBytes 16 0x8EA2B7CA516745BFEAFC49904B496089 := by decide +kernel

def tPosted : SavedPoint := { point := [0], resume := 0, areas := [], troupes := [], ctxs := [], hands := [], posts := [], image := [] }

/-- What a session seals of an empty message. -/
def tSealed (c : Conn) : List Byte := (gcmSeal (c.key 0 c.received).1 (c.key 0 c.received).2 [] []).1 ++ (gcmSeal (c.key 0 c.received).1 (c.key 0 c.received).2 [] []).2

theorem tSealed_opens (c : Conn) : c.opens (tSealed c) [] = true := by
  have ht := gcmSeal_tag_length (c.key 0 c.received).1 (c.key 0 c.received).2 [] []
  have h := gcmOpen_gcmSeal (c.key 0 c.received).1 (c.key 0 c.received).2 [] []
  unfold Conn.opens tSealed
  simp only [List.length_append, ht, Nat.add_sub_cancel, List.take_left, List.drop_left, h, decide_true]

/-- A control flit of type 6 that arrives at port 17, in the session of the authority. -/
def tAnswer : Flit := { dst := 0, src := 9, gen := 0, type := 6, len := 0, seq := 1, ctx := 0, payload := tSealed {} }

/-- A header of 16 bytes of ciphertext, for the zero identity, key digest and measurement (R324). -/
def tHeader : Header :=
  { tenant := 0, counter := 7, length := 16, tmeas := List.replicate 48 0, src := List.replicate 48 0, dst := List.replicate 48 0,
    nonce := List.replicate 12 0, tag := List.replicate 16 0, epub := List.replicate 96 0, dstek := List.replicate 48 0 }

/-- Its image. -/
def tImage (h : Header) : List Byte := h.bytes ++ List.replicate 16 0

theorem tImage_formed (h : Header) (hs : h.Sized) (hl : h.length = 16) : imageFormed (tImage h) = true :=
  imageFormed_bytes h hs _ (by rw [hl]; rfl) (by omega) (by omega)

theorem tImage_header (h : Header) (hs : h.Sized) : headerOf (tImage h) = h := headerOf_bytes h hs _

/-- A key, and a message that it has signed: the message's digest is the x-coordinate of a point R of the curve, the key is R − G, and r
and s are that number, so that R = G + the key is what the check computes (R321). -/
def tKey : List Byte :=
  beBytes 48 0x49CF25125A83D5E14272700D72A908B9C9E2CBA532F27EBF0FC23D0771538FEADB78067A244AFA8D9979BC4AD81937D0 ++
  beBytes 48 0x711EFFCC1D8C3FDD496BC5A290355D0B196195A4086F6EF29036802B6C6DB9A40C18E412E7E65DEB7B54E53591BA88BE

def tKeyPoint : Nat × Nat := (beNat (tKey.take 48), beNat (tKey.drop 48))

def tR : Nat × Nat :=
  (0x5D13BB39A64C4EE16E0E8D2E1C13EC4731FF1AC69652C072D0CDC355EB9E0EC41B08AEF3DD6FE0541E9FA9E3DCC80F7B,
   0x5175501BB59E11EAAB2029D0137493F29C95160394395C0DFB5524DECE4244FCE8D3B1580D9BA7F7DF072A3DA320447A)

def tSig : List Byte := beBytes 48 tR.1 ++ beBytes 48 tR.1

/-- The inverse of the digest, modulo the order. -/
def tInv : Nat := 0xC1C6F0265C8FAFBF62A75B87CD96F2D4AA3F7E94B41BCA4D230829DBF14791B5837BA120F36711692ED18AFA52EF4355

theorem tKey_digest : beNat (sha384 [0, 1]) = tR.1 := by unfold sha384; decide +kernel

theorem tKey_verifies : ecdsaVerify tKey [0, 1] tSig = true := by
  have h2 : pointFrom tKey = some tKeyPoint := by decide +kernel
  have h3 : invMod p384Order tR.1 = tInv := by decide +kernel
  have h4 : ecMul 384 1 (some p384Base) = some p384Base := by decide +kernel
  have h5 : ecMul 384 1 (some tKeyPoint) = some tKeyPoint := by decide +kernel
  have h6 : ecAdd (some p384Base) (some tKeyPoint) = some tR := by decide +kernel
  have e1 : beNat (tSig.take 48) = tR.1 := by decide +kernel
  have e2 : beNat (tSig.drop 48) = tR.1 := by decide +kernel
  have e3 : tR.1 * tInv % p384Order = 1 := by decide +kernel
  have e4 : tR.1 % p384Order = tR.1 := by decide +kernel
  unfold ecdsaVerify
  simp only [e1, e2, tKey_digest, h2, h3, e3, h4, h5, h6, e4]
  decide +kernel

/-- A saved point that may leave for a target whose report its policy accepts; the authority's answer to the seal's request, to
another and of another session; an authority that has been silent for exactly one second. -/
theorem test_meets_SealAndRestore :
    let n := { tNest with saved := [tPosted] }
    let v := { tVdi with img := { tImg with policy := [[1]] } }
    let t : Target := { endpoint := 9, dst := keyDigest tKey, fwm := [1], ek := [0], key := tKey, sig := tSig }
    let x : Secure := { State.reset.secure with booted := true, targets := [t] }
    let q : Seal := { vdi := 0, points := [(0, [0])], dst := [], ek := tPeer, buf := 0, sentAt := 0, seq := 3, attested := true }
    let s : State := { tS with nests := [(0, n)], vdis := [(0, v)], secure := x, dt := 1000000000,
                               ev := { kind := .sealRequest, points := [(0, [0])], flag := true, bytes := [keyDigest tKey] },
                               fabric := { State.reset.fabric with ports := [(17, { up := true, dgen := 0, dtype := 0, ddst := 0 })] } }
    let a := fun (f : Flit) (k : Nat) => ({ s with secure := { x with sealing := some q }, ev := { kind := .counterAuthorityFlit, id := k, flag := true, port := 17, flit := some f } } : State)
    let other : Flit := { tAnswer with payload := [0] }
    let s1 := fun (k : Nat) => ((a tAnswer k).arrive 17 tAnswer).1
    s.sealVdi s.ev.points = some 0 ∧ s.vdis.find 0 = some v ∧ s.secure.sealing = none ∧ s.secure.booted = true ∧
    s.secure.targets.find? (fun x => decide (x.dst = s.ev.bytes.headD [])) = some t ∧
    (t.fwm ∈ v.img.policy ∧ sha384 (0x04#8 :: t.key) = t.dst ∧ ecdsaVerify t.key (t.ek ++ t.fwm) t.sig = true) ∧ t.fwm ∉ tVdi.img.policy ∧
    (∀ f k, (a f k).ev.flit = some f ∧ (a f k).ev.flag = true) ∧ ((a other 3).arrive (a other 3).ev.port other).2 = true ∧ other.type = 6#4 ∧ tAnswer.type = 6#4 ∧
    (a tAnswer 3).arrive 17 tAnswer = (s1 3, true) ∧ (s1 3).secure.authority.opens tAnswer.payload [] = true ∧ (s1 3).secure.authority.opens other.payload [] = false ∧
    (s1 3).secure.sealing = some q ∧ q.seq.toNat = 3 ∧ q.points.mapM (s1 3).sealable = some [(n, tPosted)] ∧ (s1 3).vdis.find q.vdi = some v ∧
    (∃ z, ecdhX (ephemeralKey (s1 3).secure.ephemerals) q.ek = some z) ∧ (s1 4).secure.sealing = some q ∧ q.seq.toNat ≠ 4 ∧
    (a tAnswer 3).secure.sealing = some q ∧ (a tAnswer 3).secure.restore = none ∧ 1000000000 ≤ ((a tAnswer 3).dt - q.sentAt).toNat := by
  intro n v t x q s a other s1
  refine ⟨by decide +kernel, rfl, rfl, rfl, ?_, ⟨by decide, rfl, ?_⟩, by decide, fun f k => ⟨rfl, rfl⟩, by rfl, rfl, rfl, by rfl, tSealed_opens _, ?_, rfl, rfl,
    by decide +kernel, rfl, tPeer_ecdh _, rfl, by decide, rfl, rfl, by decide⟩
  · exact List.find?_cons_of_pos (by simp [t, s])
  · exact tKey_verifies
  · show (({} : Conn).opens [0] []) = false
    unfold Conn.opens gcmOpen
    refine decide_eq_false fun h => ?_
    simp only at h
    split at h
    · rename_i e
      have := congrArg List.length e
      rw [gcmTag_length] at this
      exact absurd this (by decide)
    · exact absurd h (by simp)

/-- A seal that has no session with its target yet, and the report that the target sends. -/
theorem test_meets_SealAndRestore_target :
    let n := { tNest with saved := [tPosted] }
    let f : Flit := { dst := 0, src := 9, gen := 0, type := 7, len := 0, seq := 1, ctx := 0, payload := [] }
    let q : Seal := { vdi := 0, points := [(0, [0])], dst := [2], ek := [], buf := 0, sentAt := 0, seq := 0, attested := false }
    let x : Secure := { State.reset.secure with booted := true }
    let s : State := { tS with nests := [(0, n)], secure := x, ev := { kind := .sealRequest, points := [(0, [0])], bytes := [[2]] } }
    let m : State := { s with secure := { x with sealing := some q }, ev := { kind := .managementFlit, id := 16, port := 17, flit := some f, bytes := [[2]] },
                              fabric := { State.reset.fabric with ports := [(17, { up := true, dgen := 0, dtype := 0, ddst := 0 })] } }
    let s1 := (m.arrive 17 f).1
    s.sealVdi s.ev.points = some 0 ∧ s.vdis.find 0 = some tVdi ∧ s.secure.sealing = none ∧ s.secure.booted = true ∧ (∀ t ∈ s.secure.targets, t.dst ≠ s.ev.bytes.headD []) ∧
    m.ev.flit = some f ∧ f.type = 7#4 ∧ m.arrive m.ev.port f = (s1, true) ∧ m.ev.id = 16 ∧ s1.secure.sealing = some q ∧ q.attested = false ∧
    q.dst = m.ev.bytes.getD 0 [] ∧ s1.vdis.find q.vdi = some tVdi := by
  refine ⟨by decide +kernel, rfl, rfl, rfl, ?_, rfl, rfl, by rfl, rfl, rfl, rfl, rfl, rfl⟩
  intro t h
  exact absurd h (by simp [State.reset])

/-- An image that is not well formed, one for another module, one of no tenant, one for another encore key and one that is right. -/
theorem test_meets_SealAndRestore_restore :
    let z := List.replicate 48 (0 : Byte)
    let o := List.replicate 48 (1 : Byte)
    let s : State := { tS with vdis := [(0, { tVdi with tmeas := z })], secure := { State.reset.secure with booted := true, identity := z, encoreKey := 5 } }
    let key := sha384 (0x04#8 :: p384Public s.secure.encoreKey)
    let h := headerOf
    s.secure.restore = none ∧ s.secure.booted = true ∧ imageFormed [] = false ∧
    (∀ x ∈ [z, o], imageFormed (tImage { tHeader with dst := x }) = true ∧ imageFormed (tImage { tHeader with tmeas := x }) = true) ∧
    (h (tImage { tHeader with dst := o })).dst ≠ s.secure.identity ∧
    (h (tImage { tHeader with tmeas := o })).dst = s.secure.identity ∧ s.tenantFor (h (tImage { tHeader with tmeas := o })) = none ∧
    (h (tImage tHeader)).dst = s.secure.identity ∧ s.tenantFor (h (tImage tHeader)) = some 0 ∧
    (∃ x, x.length = 48 ∧ x ≠ key ∧ imageFormed (tImage { tHeader with dstek := x }) = true ∧ (h (tImage { tHeader with dstek := x })).dst = s.secure.identity ∧
      s.tenantFor (h (tImage { tHeader with dstek := x })) = some 0 ∧ (h (tImage { tHeader with dstek := x })).dstek = x) ∧
    imageFormed (tImage { tHeader with dstek := key }) = true ∧ (h (tImage { tHeader with dstek := key })).dst = s.secure.identity ∧
    s.tenantFor (h (tImage { tHeader with dstek := key })) = some 0 ∧ (h (tImage { tHeader with dstek := key })).dstek = key := by
  intro z o s key h
  have sized (a b c : List Byte) (ha : a.length = 48) (hb : b.length = 48) (hc : c.length = 48) : ({ tHeader with dst := a, tmeas := b, dstek := c } : Header).Sized :=
    ⟨by simp [tHeader], by simp [tHeader], by simp [tHeader], hb, by simp [tHeader], ha, by simp [tHeader], by simp [tHeader], by simp [tHeader], hc⟩
  have hz : z.length = 48 := List.length_replicate ..
  have ho : o.length = 48 := List.length_replicate ..
  have hk : key.length = 48 := sha384_length _
  have hd (x : List Byte) (hx : x.length = 48) : h (tImage { tHeader with dst := x }) = { tHeader with dst := x } := tImage_header _ (sized x z z hx hz hz)
  have ht (x : List Byte) (hx : x.length = 48) : h (tImage { tHeader with tmeas := x }) = { tHeader with tmeas := x } := tImage_header _ (sized z x z hz hx hz)
  have hek (x : List Byte) (hx : x.length = 48) : h (tImage { tHeader with dstek := x }) = { tHeader with dstek := x } := tImage_header _ (sized z z x hz hz hx)
  have fek (x : List Byte) (hx : x.length = 48) : imageFormed (tImage { tHeader with dstek := x }) = true := tImage_formed _ (sized z z x hz hz hx) rfl
  have t0 : s.tenantFor tHeader = some 0 := by decide +kernel
  have tn (x : List Byte) : s.tenantFor { tHeader with dstek := x } = some 0 := t0
  refine ⟨rfl, rfl, by decide +kernel, ?_, ?_, ?_, ?_, ?_, ?_, ?_, fek key hk, ?_, ?_, ?_⟩
  · intro x hx
    have : x.length = 48 := by rcases List.mem_cons.1 hx with rfl | hx <;> [exact hz; (rw [List.mem_singleton.1 hx]; exact ho)]
    exact ⟨tImage_formed _ (sized x z z this hz hz) rfl, tImage_formed _ (sized z x z hz this hz) rfl⟩
  · rw [hd o ho]; decide +kernel
  · rw [ht o ho]; rfl
  · rw [ht o ho]; decide +kernel
  · rw [show h (tImage tHeader) = tHeader from hd z hz]; rfl
  · rw [show h (tImage tHeader) = tHeader from hd z hz]; decide +kernel
  · by_cases e : z = key
    · refine ⟨o, ho, by rw [← e]; decide +kernel, fek o ho, ?_, ?_, ?_⟩
      · rw [hek o ho]; rfl
      · rw [hek o ho]; exact tn o
      · rw [hek o ho]
    · refine ⟨z, hz, e, fek z hz, ?_, ?_, ?_⟩
      · rw [hek z hz]; rfl
      · rw [hek z hz]; exact tn z
      · rw [hek z hz]
  · rw [hek key hk]; rfl
  · rw [hek key hk]; exact tn key
  · rw [hek key hk]

/-- The authority's answer to a restore: to another request, current, stale and ahead; an image whose ephemeral key is no point, which
does not open, and one that opens; silence for exactly one second. -/
theorem test_meets_SealAndRestore_answers :
    let r : Restore := { vdi := 0, image := tImage tHeader, sentAt := 0, seq := 3 }
    let a := fun (r : Restore) (k j : Nat) =>
      ({ tS with secure := { State.reset.secure with booted := true, restore := some r }, dt := 1000000000, vdis := [],
                 fabric := { State.reset.fabric with ports := [(17, { up := true, dgen := 0, dtype := 0, ddst := 0 })] },
                 ev := { kind := .counterAuthorityFlit, id := k, a := j, port := 17, flit := some tAnswer } } : State)
    let s1 := fun (r : Restore) (k j : Nat) => ((a r k j).arrive 17 tAnswer).1
    let heard := fun (x : State) => ({ x with secure := { x.secure with authority := { x.secure.authority with received := x.secure.authority.received + 1 } } } : State)
    (∀ r k j, (a r k j).ev.flit = some tAnswer ∧ (a r k j).ev.flag = false ∧ (a r k j).arrive (a r k j).ev.port tAnswer = (s1 r k j, true) ∧
      (s1 r k j).secure.authority.opens tAnswer.payload [] = true ∧ (s1 r k j).secure.restore = some r) ∧ tAnswer.type = 6#4 ∧ r.seq.toNat = 3 ∧
    (heard (s1 r 3 0)).openImage r = (heard (s1 r 3 0)).refuseRestore (some r.vdi) (headerOf r.image).counter 6 ∧
    (∃ g : Restore, g.seq.toNat = 3 ∧ (heard (s1 g 3 0)).openImage g ≠ (heard (s1 g 3 0)).refuseRestore (some g.vdi) (headerOf g.image).counter 6) ∧
    (a r 3 0).secure.restore = some r ∧ 1000000000 ≤ ((a r 3 0).dt - r.sentAt).toNat := by
  intro r a s1 heard
  have sized (e t : List Byte) (he : e.length = 96) (ht : t.length = 16) : ({ tHeader with epub := e, tag := t } : Header).Sized :=
    ⟨by simp [tHeader], by simp [tHeader], by simp [tHeader], by simp [tHeader], by simp [tHeader], by simp [tHeader], by simp [tHeader], ht, he, by simp [tHeader]⟩
  refine ⟨fun r k j => ⟨rfl, rfl, by rfl, tSealed_opens _, rfl⟩, rfl, rfl, ?_, ?_, rfl, by decide⟩
  · have h : headerOf r.image = tHeader := tImage_header tHeader (sized _ _ (by simp) (by simp))
    have hn : pointFrom tHeader.epub = none := by decide +kernel
    have hx : ecdhX (heard (s1 r 3 0)).secure.encoreKey tHeader.epub = none := by unfold ecdhX; rw [hn]; rfl
    simp only [State.openImage, h, hx, Option.bind_none]
  · obtain ⟨z, hz⟩ := tPeer_ecdh 0
    let h0 : Header := { tHeader with epub := tPeer }
    let ks := sealKeys z h0.tmeas (leBytes 8 h0.tenant) (leBytes 8 h0.counter) h0.src h0.dst
    let tag := gcmTag (aesSchedule ks.1).reverse ks.2 h0.bytes (List.replicate 16 0)
    let g : Restore := { vdi := 0, image := tImage { h0 with tag := tag }, sentAt := 0, seq := 3 }
    have hh : headerOf g.image = { h0 with tag := tag } := tImage_header _ (sized tPeer tag (pointBytes_length _) (gcmTag_length _ _ _ _))
    have hd : g.image.drop 512 = List.replicate 16 0 := List.drop_left' (Header.bytes_length _)
    refine ⟨g, rfl, fun e => ?_⟩
    have := (heard (s1 g 3 0)).openImage_none g rfl (gcmStream (aesSchedule ks.1).reverse ks.2 (List.replicate 16 0)) z (by rw [hh]; exact hz)
      (by rw [hh, hd]; unfold gcmOpen; exact if_pos rfl)
    have h2 : ((heard (s1 g 3 0)).refuseRestore (some g.vdi) (headerOf g.image).counter 6).secure.refusals =
      (heard (s1 g 3 0)).secure.refusals ++ [(6, BitVec.ofNat 64 (headerOf g.image).counter)] := rfl
    rw [e, h2] at this
    exact absurd this (by simp)

/-- An interface with the last number and a partition beside the one of interface 0; the first and the last interface of a budget. -/
theorem test_meets_TenantEvents :
    let m := { emptyImage with vdi := 63, x0 := 31, y0 := 7, queues := [false], policy := [[1]] }
    let s : State := { tS with secure := { State.reset.secure with booted := true },
                               ev := { kind := .tenantLoad, image := some m, a := 0, b := 0, c := 1, time := 0, energy := 0 } }
    s.ev.image.bind resolveImage = some m ∧ m.data = [] ∧ m.relocs = [] ∧ s.secure.booted = true ∧ m.vdi < 64 ∧ s.vdis.find m.vdi = none ∧ s.partitionLegal m = true ∧ m.queues.length ≤ 16 ∧
    m.policy.length ≤ 8 ∧ s.vdis.find s.ev.a = some tVdi ∧ tVdi.hasQuad s.ev.b s.ev.c = true ∧ s.troupeAt s.ev.b s.ev.c = none ∧
    0 ≤ s.ev.time ∧ 0 ≤ s.ev.energy ∧ (Vdi.create m []).cores ≠ [] ∧ m.quads ≠ [] := by
  and_intros <;> first | decide +kernel | rfl

/-- An object image of one data section with a relocation in it, a symbol at its byte 4 and ADDEND 2 (R396 to R398); its bytes cut short, and
a relocation of a symbol that is not there. -/
def tObject (sym : Nat) : List Byte :=
  leBytes 4 0x4F584644 ++ leBytes 2 1 ++ leBytes 2 1 ++ leBytes 4 1 ++ leBytes 4 1 ++ leBytes 4 0 ++ [0xFF, 1, 0xFE, 2, 8] ++ List.replicate 7 0 ++
  leBytes 4 1 ++ leBytes 4 3 ++ leBytes 8 16 ++ leBytes 8 168 ++ leBytes 4 0xFFFFFFFF ++ leBytes 4 0 ++
  List.replicate 64 0 ++ leBytes 4 0 ++ leBytes 4 1 ++ leBytes 8 4 ++
  leBytes 4 0 ++ leBytes 4 8 ++ leBytes 4 sym ++ leBytes 4 1 ++ leBytes 8 2 ++ (List.range 16).map (BitVec.ofNat 8)

/-- A relocation of TYPE 1 writes the symbol's virtual address plus ADDEND (R398). -/
theorem test_object :
    let x := resolveImage { emptyImage with object := tObject 0, sectVa := [0x40000] }
    x.map (fun x => x.relocs) = some [(0, 8, 0x40006)] ∧ x.map (fun x => x.data) = some [(0x40000, (List.range 16).map (BitVec.ofNat 8))] ∧
    x.map (fun x => [x.xmin, x.xmax, x.ymin, x.ymax]) = some [-1, 1, -2, 2] ∧ x.map (fun x => x.gangMax) = some 8 := by
  and_intros <;> decide +kernel

/-- One data piece, on a page that the load's tables map; and object images that are malformed. -/
theorem test_meets_TenantEvents_data :
    let m := { emptyImage with vdi := 63, x0 := 31, y0 := 7, data := [(0x3003D, [1, 2, 3])], sptr := 0x20000, hptr := 0x10000 }
    let x := fun (o : List Byte) => { m with object := o, sectVa := [0x40000] }
    let on := fun (i : TenantImage) => ({ tS with secure := { State.reset.secure with booted := true }, ev := { kind := .tenantLoad, image := some i } } : State)
    let s := on m
    let v := Vdi.create m []
    s.ev.image.bind resolveImage = some m ∧ s.secure.booted = true ∧ m.vdi < 64 ∧ s.vdis.find m.vdi = none ∧ s.partitionLegal m = true ∧
    m.queues.length ≤ 16 ∧ m.policy.length ≤ 8 ∧ s.sharesLegal m = true ∧ m.relocs = [] ∧ 0x3003D % 64 + 3 ≤ 64 ∧ s.mem.wf = true ∧
    (m.memory.foldl (fun (x : Memory) (p : Nat × List Byte) => x.putBytes p.1 p.2) s.mem) = s.mem ∧
    s.stage1 v 0x3003D = .ok tOne ∧ s.stage2 v (tOne.apply (0x3003D % 2 ^ 57)) = .ok tTwo ∧ s.backed (tTwo.apply 0x3003D) = true ∧
    (on (x [1])).ev.image = some (x [1]) ∧ (x [1]).object ≠ [] ∧ parseObject [1] = none ∧
    ((parseObject (tObject 1)).map (fun o => o.relocValues (x (tObject 1)).sectVa o.relocs)) = some none := by
  and_intros <;> first | decide +kernel | rfl

/-- Shares that fit; a quadrant that may be given and one that may not; a withheld quadrant of the tenant, and of another. -/
theorem test_meets_TenantEvents_shares :
    let m := { emptyImage with vdi := 63, x0 := 31, y0 := 7, queues := [false], policy := [[1]] }
    let s : State := { tS with troupes := [], ev := { kind := .partitionAddQuadrant, a := 0, b := 0, c := 1 } }
    let busy : State := { tS with ev := { kind := .partitionAddQuadrant, a := 0, b := 0, c := 0 } }
    let other : State := { s with vdis := [(0, tVdi), (1, { tVdi with withheld := [(0, 0), (1, 2)] })] }
    s.sharesLegal m = true ∧ s.vdis.find s.ev.a = some tVdi ∧ s.mayGive 0 tVdi 0 1 = true ∧ busy.vdis.find busy.ev.a = some tVdi ∧
    busy.mayGive 0 tVdi 0 0 = false ∧ s.mayGive 0 tVdi 0 4 = false ∧ (∀ x ∈ s.vdis, x.1 = s.ev.a ∨ ∀ k ∈ x.2.withheld, k.2 ≠ 0) ∧
    ¬ (∀ x ∈ other.vdis, x.1 = s.ev.a ∨ ∀ k ∈ x.2.withheld, k.2 ≠ 0) := by
  decide +kernel

/-- A quadrant that another tenant holds withheld in its partition. -/
theorem test_meets_TenantEvents_taken :
    let v : Vdi := { tVdi with quads := [1] }
    let w : Vdi := { tVdi with quads := [0, 2], withheld := [(quadKey 0 0, 0)] }
    let s : State := { tS with troupes := [], vdis := [(0, v), (1, w)], ev := { kind := .partitionAddQuadrant, a := 0, b := 0, c := 0 } }
    s.vdis.find s.ev.a = some v ∧ s.mayGive 0 v 0 0 = true ∧ v.quads.contains 0 = false ∧ 0 ∈ v.cores ∧ (1 : Nat) ≠ s.ev.a ∧ s.vdis.find 1 = some w ∧
    w.hasQuad 0 0 = true := by decide +kernel

/-- The bounds 1 and 2^32 − 1, in every phase; a drain that has lasted exactly twice its bound, with a save area and without one; a
watchdog whose count has just reached its limit. -/
theorem test_meets_PreemptRequest :
    let at_ := fun (f : Phase) (l : Nat) => ({ tS with points := [{ tPoint with phase := f, watch := 65536 }], vdis := [(0, { tVdi with wdlim := 1 })], cycle := 20,
                                                       ev := { kind := .preemptRequest, a := 0, b := l, point := [0] } } : State)
    let p := fun (f : Phase) => ({ tPoint with phase := f, watch := 65536 } : Point)
    let held := { tNest with saved := [{ point := [1], resume := 1, areas := [(0, 0, 0)], troupes := [], ctxs := [], hands := [], posts := [], image := [] }] }
    let full : State := { at_ (.draining 10 0) 1 with nests := [(0, held)] }
    (∀ f ∈ [Phase.starting, .running, .draining 10 0, .saving 10 0], ∀ l ∈ [1, 2 ^ 32 - 1],
      (at_ f l).evPoint = some (p f) ∧ (at_ f l).nests.find (p f).slot = some tNest ∧
      (at_ f l).vdis.find (p f).vdi = some { tVdi with wdlim := 1 } ∧ 0 < l ∧ l < 2 ^ 32 ∧
      ∀ t ∈ (at_ f l).members (p f), ∀ q ∈ t.quads, quadKey t.core q ∉ (at_ f l).stopped) ∧
    1 < (at_ (.draining 10 0) 1).drainLatency (p (.draining 10 0)) ∧
    (at_ (.draining 10 0) (2 ^ 32 - 1)).drainLatency (p (.draining 10 0)) ≤ 2 ^ 32 - 1 ∧
    0 + 2 * 10 ≤ (at_ (.draining 10 0) 1).cycle ∧ (at_ (.draining 10 0) 1).hasAreas (p (.draining 10 0)) = true ∧
    full.evPoint = some (p (.draining 10 0)) ∧ full.nests.find 0 = some held ∧ full.hasAreas (p (.draining 10 0)) = false ∧
    0 < ({ tVdi with wdlim := 1 } : Vdi).wdlim ∧ 65536 * 1 ≤ (p .running).watch := by
  decide +kernel

/-- A halted and a trapped point; limits that R287 does not admit; a member whose clock has stopped. -/
theorem test_meets_PreemptRequest_edges :
    let at_ := fun (f : Phase) (l : Nat) (stopped : List Nat) =>
      ({ tS with points := [{ tPoint with phase := f }], stopped := stopped, ev := { kind := .preemptRequest, a := 0, b := l, point := [0] } } : State)
    let p := fun (f : Phase) => ({ tPoint with phase := f } : Point)
    (∀ f ∈ [Phase.running, .halted (.cast 0 0 0) 0 0, .trapped (.cast 0 0 0) .breakpoint 0 0], ∀ l ∈ [0, 1, 2 ^ 32 - 1, 2 ^ 32], ∀ ks ∈ [[], [0], [1]],
      (at_ f l ks).evPoint = some (p f) ∧ (at_ f l ks).nests.find (p f).slot = some tNest ∧ (at_ f l ks).vdis.find (p f).vdi = some tVdi) ∧
    (∃ u' k w, p (.halted (.cast 0 0 0) 0 0) = { tPoint with phase := .halted u' k w }) ∧
    (∀ l ∈ [1, 2 ^ 32 - 1], 0 < (at_ .running l []).ev.b ∧ (at_ .running l []).ev.b < 2 ^ 32) ∧
    (∀ l ∈ [0, 2 ^ 32], (at_ .running l []).ev.b = 0 ∨ 2 ^ 32 ≤ (at_ .running l []).ev.b) ∧
    (∃ t ∈ (at_ .running 1 [0]).members (p .running), ∃ q ∈ t.quads, quadKey t.core q ∈ (at_ .running 1 [0]).stopped) ∧
    (∀ t ∈ (at_ .running 1 [1]).members (p .running), ∀ q ∈ t.quads, quadKey t.core q ∉ (at_ .running 1 [1]).stopped) := by
  intro at_ p
  refine ⟨by decide +kernel, ⟨_, _, _, rfl⟩, by decide +kernel, by decide +kernel, by decide +kernel, by decide +kernel⟩

/-- A point whose retirement is due, that runs and that drains; a drain before its time, and one at a stopped quadrant. -/
theorem test_meets_PreemptRequest_due :
    let p := fun (f : Phase) => ({ tPoint with phase := f, retireAt := some 20 } : Point)
    let at_ := fun (f : Phase) (c : Nat) (ks : List Nat) =>
      ({ tS with points := [p f], cycle := c, stopped := ks, ev := { kind := .preemptRequest, a := 0, b := 1, point := [0] } } : State)
    (∀ f ∈ [Phase.running, .draining 10 0], ∀ c ∈ [19, 20], ∀ ks ∈ [[], [0]],
      (at_ f c ks).evPoint = some (p f) ∧ (at_ f c ks).nests.find (p f).slot = some tNest ∧ (at_ f c ks).vdis.find (p f).vdi = some tVdi) ∧
    (p .running).retireAt ≠ none ∧ (at_ (.draining 10 0) 19 []).cycle < 0 + 2 * 10 ∧
    (∃ t ∈ (at_ (.draining 10 0) 20 [0]).members (p (.draining 10 0)), ∃ q ∈ t.quads, quadKey t.core q ∈ (at_ (.draining 10 0) 20 [0]).stopped) := by
  decide +kernel

/-- A point that is being saved, or suspended, with no unit left, so that its areas are written; a point in one area that has VALID and
in one that does not, with a free quadrant and with none. -/
theorem test_meets_SaveAndRestore :
    let p := fun (f : Phase) => ({ tPoint with phase := f, members := [] } : Point)
    let at_ := fun (f : Phase) (cause : Nat) => ({ tS with troupes := [], points := [p f], ev := { kind := .saveComplete, a := 0, b := cause, c := 0x200000, point := [0] } } : State)
    let drained := fun (x : State) (p : Point) => (x.members p).foldl (fun (y : State) t => y.drainWhere t (fun _ => true)) x
    (∀ f ∈ [Phase.saving 10 0, .suspended], ∀ c ∈ [0x0D, 0x07], (at_ f c).evPoint = some (p f) ∧ (at_ f c).nests.find (p f).slot = some tNest ∧
      (at_ f c).vdis.find (p f).vdi = some tVdi) ∧
    (at_ (.saving 10 0) 0).saveReady (p (.saving 10 0)) = true ∧
    (∃ s2, (drained (at_ (.saving 10 0) 0) (p (.saving 10 0))).writeAreas tVdi 0
      ((drained (at_ (.saving 10 0) 0) (p (.saving 10 0))).members (p (.saving 10 0))) = (s2, none)) ∧
    (let r := (at_ .suspended 0).repair2 0x200000 [4, 3, 2, 1, 0] (frameOf tVdi.hptr.toNat)
     ∃ s2, (drained r (p .suspended)).writeAreas tVdi 0 ((drained r (p .suspended)).members (p .suspended)) = (s2, none)) ∧
    (at_ (.saving 10 0) 0x0D).ev.b = 0x0D ∧ (at_ (.saving 10 0) 0x07).ev.b ≠ 0x0D := by
  intro p at_ drained
  refine ⟨by decide +kernel, by decide +kernel, ⟨_, rfl⟩, ⟨_, rfl⟩, by decide, by decide⟩

/-! The first GiB is mapped in every state that has the tables of `tMem`. -/

theorem tTwo_walk (s : State) (h4 : (s.mem.dword 0x10000).toNat = 0x11001) (h3 : (s.mem.dword 0x11000).toNat = 0x12001)
    (h2 : (s.mem.dword 0x12000).toNat = 0x400000000000007F) (hp : s.poison = []) (g : Nat) (hg : g < 2 ^ 30) : s.stage2 tVdi g = .ok tTwo := by
  have b4 : bits g (12 + 9 * 4) 9 = 0 := by simp only [bits]; omega
  have b3 : bits g (12 + 9 * 3) 9 = 0 := by simp only [bits]; omega
  have b2 : bits g (12 + 9 * 2) 9 = 0 := by simp only [bits]; omega
  have fr : frameOf tVdi.hptr.toNat = 0x10000 := by decide
  have lb : ∀ a, s.lineBad a = false := fun a => by simp [State.lineBad, hp]
  have bk : ∀ a, a < 0x10000000000 → s.backed a = true := fun a h => by simp [State.backed, h]
  have w4 : wellFormed 0x11001 4 g = true := by unfold wellFormed; rw [if_pos (by decide)]; decide
  have w3 : wellFormed 0x12001 3 g = true := by unfold wellFormed; rw [if_pos (by decide)]; decide
  have m : g % 0x40000000 = g := Nat.mod_eq_of_lt hg
  have z : g / 0x40000000 = 0 := Nat.div_eq_of_lt hg
  have w2 : wellFormed 0x400000000000007F 2 g = true := by
    unfold wellFormed
    rw [if_neg (by decide)]
    have p : pageOf (bits 0x400000000000007F 60 3) = 0x40000000 := by decide
    have q : spanOf 2 = 0x40000000 := by decide
    simp only [p, q, m, z]
    decide
  have l2 : leafOf 0x400000000000007F 2 g 0x12000 = tTwo := by
    have p : pageOf (bits 0x400000000000007F 60 3) = 0x40000000 := by decide
    have q : spanOf 2 = 0x40000000 := by decide
    have f : frameOf 0x400000000000007F = 0 := by decide
    simp only [leafOf, p, q, f, m, Nat.sub_self, Nat.zero_add]
    rfl
  have f3 : frameOf 0x11001 = 0x11000 := by decide
  have f2 : frameOf 0x12001 = 0x12000 := by decide
  have go : ∀ lvl ls table e, bits g (12 + 9 * lvl) 9 = 0 → (s.mem.dword table).toNat = e → table < 0x10000000000 → bits e 0 1 ≠ 0 → wellFormed e lvl g = true →
      s.walk2 g (lvl :: ls) table = if isPointer e then s.walk2 g ls (frameOf e) else .ok (leafOf e lvl g table) := by
    intro lvl ls table e hb he ht h0 hw
    rw [State.walk2]
    simp only [hb, Nat.mul_zero, Nat.add_zero, he, bk table ht, lb, hw, h0]
    simp
  rw [State.stage2, fr, levels, go 4 _ _ _ b4 h4 (by decide) (by decide) w4, if_pos (by decide), f3, go 3 _ _ _ b3 h3 (by decide) (by decide) w3,
    if_pos (by decide), f2, go 2 _ _ _ b2 h2 (by decide) (by decide) w2, if_neg (by decide), l2]

theorem tTwo_mapped (s : State) (h4 : (s.mem.dword 0x10000).toNat = 0x11001) (h3 : (s.mem.dword 0x11000).toNat = 0x12001)
    (h2 : (s.mem.dword 0x12000).toNat = 0x400000000000007F) (hp : s.poison = []) : s.unmappedPage tVdi [0x200000] = none := by
  simp only [State.unmappedPage, List.findSome?_cons, List.findSome?_nil]
  rw [List.findSome?_eq_none_iff.2]
  intro k hk
  have : k < 512 := by simpa [areaPages] using hk
  rw [tTwo_walk s h4 h3 h2 hp _ (by omega)]
  have b : s.backed (0x200000 + 4096 * k) = true := by simp [State.backed]; omega
  have a : tTwo.apply (0x200000 + 4096 * k) = 0x200000 + 4096 * k := by simp [Leaf.apply, tOne, tTwo]
  simp only [a, b]
  rfl

theorem test_meets_SaveAndRestore_restore :
    let sp : SavedPoint := { point := [1], resume := 0, areas := [(0, 0, 0x200000)], troupes := [], ctxs := [], hands := [], posts := [], image := [] }
    let n := { tNest with saved := [sp] }
    let s : State := { tS with nests := [(0, n)], ev := { kind := .restorePoint, a := 0, point := [1] } }
    let valid : State := { s with mem := s.mem.write 0x200000 1 }
    let v1 : Vdi := { tVdi with quads := [0] }
    let busy : State := { s with vdis := [(0, v1)] }
    s.nests.find s.ev.a = some n ∧ s.vdis.find n.vdi = some tVdi ∧ n.saved.find? (fun x => decide (x.point = s.ev.point)) = some sp ∧ n.stopped = false ∧
    tVdi.held = false ∧ busy.vdis.find n.vdi = some v1 ∧ v1.held = false ∧ busy.choosePosition v1 (nShape n.record) (nGang n.record) = none ∧
    s.choosePosition tVdi (nShape n.record) (nGang n.record) = some (1, [0], [1]) ∧
    valid.choosePosition tVdi (nShape n.record) (nGang n.record) = some (1, [0], [1]) ∧ sp.image = [] ∧
    s.unmappedPage tVdi [0x200000] = none ∧ valid.unmappedPage tVdi [0x200000] = none ∧
    leNat (s.readArea tVdi 0x200000 8) % 2 = 0 ∧ leNat (valid.readArea tVdi 0x200000 8) % 2 = 1 ∧ valid.areaPoisoned tVdi 0x200000 = false := by
  intro sp n s valid v1 busy
  refine ⟨?_, ?_, ?_, ?_, ?_, ?_, ?_, ?_, ?_, ?_, ?_, ?_, ?_, ?_, ?_, ?_⟩
  case refine_12 => exact tTwo_mapped s (by decide +kernel) (by decide +kernel) (by decide +kernel) rfl
  case refine_13 => exact tTwo_mapped valid (by decide +kernel) (by decide +kernel) (by decide +kernel) rfl
  case refine_16 =>
    simp only [State.areaPoisoned, List.any_eq_false]
    intro k _
    have e : ∀ a, valid.lineBad a = false := fun a => rfl
    cases valid.stage2 tVdi (0x200000 + 64 * k) <;> simp [e]
  all_goals first | decide +kernel | rfl

/-- A save that is not ready, and one whose area has no translation; an image with a free position, with one whose area another
point holds, and with one that stage 2 does not map. -/
theorem test_meets_SaveAndRestore_stops :
    let p : Point := { tPoint with phase := .saving 10 0 }
    let busy : State := { tS with points := [p], fars := [tFar], ev := { kind := .saveComplete, a := 0, point := [0] } }
    let bare : State := { tS with points := [p], mem := [], ev := { kind := .saveComplete, a := 0, point := [0] } }
    let drained := fun (x : State) => ((x.members p).foldl (fun (y : State) t => y.drainWhere t (fun _ => true)) x).settleStacks (x.members p)
    let sp : SavedPoint := { point := [1], resume := 0, areas := [], troupes := [], ctxs := [], hands := [], posts := [], image := [(0, 0, [1])] }
    let n := { tNest with saved := [sp] }
    let s : State := { tS with nests := [(0, n)], ev := { kind := .restorePoint, a := 0, point := [1] } }
    let gpas := (positionAreas tVdi (1, [0], [1])).map (fun a => a.2.2)
    let held : State := { s with nests := [(0, n), (1, { tNest with saved := [{ sp with point := [2], areas := [(0, 0, gpas.headD 0)], image := [] }] })] }
    let blank : State := { s with mem := [] }
    busy.evPoint = some p ∧ busy.nests.find p.slot = some tNest ∧ busy.vdis.find p.vdi = some tVdi ∧ busy.saveReady p = false ∧
    bare.evPoint = some p ∧ bare.saveReady p = true ∧ ((drained bare).writeAreas tVdi 0 ((drained bare).members p)).2.isSome = true ∧
    s.nests.find s.ev.a = some n ∧ s.vdis.find n.vdi = some tVdi ∧ n.saved.find? (fun x => decide (x.point = s.ev.point)) = some sp ∧ n.stopped = false ∧
    tVdi.held = false ∧ sp.image ≠ [] ∧ gpas.length = 1 ∧ (∀ x ∈ [s, held, blank], x.choosePosition tVdi (nShape n.record) (nGang n.record) = some (1, [0], [1])) ∧
    (∀ g ∈ gpas, s.areaHeld n.vdi g = false) ∧ ¬ (∀ g ∈ gpas, held.areaHeld n.vdi g = false) ∧ (∀ g ∈ gpas, blank.areaHeld n.vdi g = false) ∧
    (blank.unmappedPage tVdi gpas).isSome = true := by
  and_intros <;> first | decide +kernel | rfl

/-- A restore of which no page is mapped, one whose table entry is not well formed, and one that is suspended. -/
theorem test_meets_SaveAndRestore_unmapped :
    let sp : SavedPoint := { point := [1], resume := 0, areas := [(0, 0, 0x40000000)], troupes := [], ctxs := [], hands := [], posts := [], image := [], suspended := true }
    let n := { tNest with saved := [sp] }
    let s : State := { tS with nests := [(0, n)], ev := { kind := .restorePoint, a := 0, point := [1] } }
    let bad : State := { s with mem := s.mem.putDword 0x12008 3 }
    s.evPoint = none ∧ s.nests.find s.ev.a = some n ∧ s.vdis.find n.vdi = some tVdi ∧
    n.saved.find? (fun x => x.suspended && decide (x.point = s.ev.point)) = some sp ∧
    (s.unmappedPage tVdi [0x40000000]).map (fun f => f.cause) = some .stage2Fault ∧
    (bad.unmappedPage tVdi [0x40000000]).map (fun f => f.cause) = some .protFault := by
  decide +kernel

/-- Every block with a sensor at the ends of each range; the temperatures at which clocks stop and start; the first and the last window
of expanders, side by side with another expander and alone. -/
theorem test_meets_ModuleEvents :
    let h := fun (x : Dword) => ({ tS with sensors := [(0, x)], ev := { kind := .clockStopOvertemp, a := 0 } } : State)
    let x := fun (k : Nat) (es : List (Nat × Nat)) (f : Bool) =>
      ({ tS with expanders := es, ev := { kind := .expanderAddedOrRemoved, a := k, b := 4096, flag := f } } : State)
    let e := fun (p : ErrPlace) => ({ tS with troupes := [], ev := { kind := .uncorrectableError, place := p } } : State)
    (0 < 256 ∧ 255 < 256 ∧ (512 ≤ 512 ∧ 512 < 529) ∧ (512 ≤ 528 ∧ 528 < 529)) ∧
    1760 ≤ (h 1760).heat 0 ∧ 0 ∉ (h 1760).stopped ∧ (h 1599).heat 0 < 1600 ∧ 1600 ≤ (h 1600).heat 0 ∧
    (x (2 ^ 40) [] true).ev.flag = true ∧ 0 < (x (2 ^ 40) [] true).ev.b ∧ (∃ w, w < 4 ∧ 2 ^ 40 + w * 2 ^ 41 ≤ 2 ^ 40 ∧ 2 ^ 40 + 4096 ≤ 2 ^ 40 + (w + 1) * 2 ^ 41) ∧
    (∃ w, w < 4 ∧ 2 ^ 40 + w * 2 ^ 41 ≤ 2 ^ 40 + 4 * 2 ^ 41 - 4096 ∧ 2 ^ 40 + 4 * 2 ^ 41 - 4096 + 4096 ≤ 2 ^ 40 + (w + 1) * 2 ^ 41) ∧
    (∀ p ∈ (x (2 ^ 40) [(2 ^ 40 + 4096, 4096)] true).expanders, p.1 + p.2 ≤ 2 ^ 40 ∨ 2 ^ 40 + 4096 ≤ p.1) ∧
    (x (2 ^ 40) [(2 ^ 40, 4096)] false).ev.flag = false ∧ (2 ^ 40, 4096) ∈ (x (2 ^ 40) [(2 ^ 40, 4096)] false).expanders ∧
    (x (2 ^ 40) [(2 ^ 40, 4096)] false).mem.wf = true ∧ (e (.line 0x40)).ev.place = .line 0x40 ∧ (e (.scratch 8)).ev.place = .scratch 8 ∧
    (e (.scratch 8)).troupeAt (8 / 2 ^ 22) (8 / 2 ^ 20 % 4) = none ∧ (e (.sreg (.cast 0 0 0) 47)).ev.place = .sreg (.cast 0 0 0) 47 ∧
    (e (.sreg (.cast 0 0 0) 47)).ctxs.find (.cast 0 0 0) = some tCtx ∧ (e (.sreg (.cast 0 0 0) 47)).troupeOf (.cast 0 0 0) = none := by
  intro h x e
  refine ⟨by omega, ?_, ?_, ?_, ?_, ?_, ?_, ⟨0, by omega⟩, ⟨3, by omega⟩, ?_, ?_, ?_, ?_, ?_, ?_, ?_, ?_, ?_, ?_⟩
  all_goals first | decide +kernel | rfl

/-- A step at its limit and one beyond it; a limit that is not set; errors in a ring, in a barrier and in a word of the control store. -/
theorem test_meets_ModuleEvents_more :
    let d := fun (b : Nat) => ({ tS with limits := [(0, 100)], ev := { kind := .powerDidtSkip, a := 0, b := b } } : State)
    let e := fun (p : ErrPlace) => ({ tS with ev := { kind := .uncorrectableError, a := 0, place := p } } : State)
    ((d 101).limits.find (d 101).ev.a).getD 0 < (d 101).ev.b ∧ (d 100).ev.b ≤ ((d 100).limits.find (d 100).ev.a).getD 0 ∧
    ((tS.limits.find 1).getD 0 < 1) ∧ ({ tS with cycle := 4096 } : State).cycle % 4096 = 0 ∧
    (∀ p ∈ [ErrPlace.ring 0 15, .barrier 0], (e p).ev.place = p ∧ (e p).ev.a = 0 ∧ (e p).troupes.find 0 = some tTroupe ∧
      ∀ q ∈ (e p).points, q.phase = .running) ∧ 15 < 16 ∧
    ({ e (.control 0 127 2) with troupes := [] } : State).ev.place = .control 0 127 2 := by
  decide +kernel

/-- A cast at a ring and at a barrier whose words are poisoned. -/
theorem test_meets_ModuleEvents_use :
    let t : Troupe := { tTroupe with badSync := [15, 16] }
    let s : State := { tAt tCtx with troupes := [(0, t)] }
    s.issuing tCtx ∧ s.unit.kind = .cast ∧ s.troupeOf s.unit = some (0, t) ∧ (15 : BitVec 4).toNat ∈ t.badSync ∧ s.spilledAt t (.ringTicket 0 15) = [] ∧
    s.spilledAt t (.ringTake 0 15) = [] ∧ 16 ∈ t.badSync ∧ s.castPaths s.unit ≤ 1 := by
  and_intros <;> first | decide +kernel | rfl

/-- The machine with the cast's slot A to issue next, at a level, from the start of its code. -/
def tTurn (n : BitVec 2) (w : Nat) : State :=
  { tS with vdis := [(0, { tVdi with img := { tImg with code := leBytes 4 w ++ leBytes 8 0 } })], ctxs := [(.cast 0 0 0, tLvl n tCtx)],
            issueQ := [{ unit := .cast 0 0 0, slotB := false, resume := false }], scheduled := true }

/-- An event; a machine with none and no turn left, chosen for or not. -/
theorem test_meets_StepRunsDecoded_events :
    let e : Event := { kind := .budgetTick }
    let s : State := { tS with agenda := [e] }
    s.agenda = e :: [] ∧ State.reset.agenda = [] ∧ State.reset.issueQ = [] ∧ tS.agenda = [] ∧ tS.issueQ = [] := by decide

/-- An event at a quadrant whose clock has stopped, and one elsewhere; the three turns of a cycle. -/
theorem test_meets_StepRunsDecoded_clock :
    let e : Event := { kind := .usherWindowClose, a := 3 }
    let s : State := { tS with agenda := [e], stopped := [3] }
    let t : State := { tS with agenda := [e], stopped := [2] }
    s.agenda = e :: [] ∧ s.waitsForClock e = true ∧ t.agenda = e :: [] ∧ t.waitsForClock e = false ∧
    ({ tS with scheduled := false } : State).scheduled = false ∧ ({ tS with scheduled := true, nestTurn := false } : State).nestTurn = false ∧
    ({ tS with scheduled := true, nestTurn := true } : State).nestTurn ≠ false := by
  decide +kernel

/-- The machine whose cast issues `i` next, as the only word of its group, with registers `c`; the state in which the word runs, and the
one in which a word that faults as a whole runs. -/
def tNext (c : Ctx) (i : Instr) : State := { tTurn 0 ((encode i).headD 0).toNat with ctxs := [(.cast 0 0 0, c)] }

def tGw (i : Instr) : Gw := { pos := 0, mstep := none, word := (encode i).headD 0, nxt := 0, after := 1, afterStep := none }

def tBase (x : State) (c : Ctx) (late : Bool) : Cur :=
  { turn := { unit := .cast 0 0 0, slotB := false, resume := false }, pos := 0, mstep := none, word := 0, nextPos := 1, after := 1, afterStep := none,
    em := c.a.em, fm := c.a.fm, win := c.a.win, group := x.stamp + 1, stamp := x.stamp + 1, tag := x.stamp + 1, vals := none, trap := none, demote := false,
    late := late }

def tBefore (x : State) (c : Ctx) : State := { x.clearValid (.cast 0 0 0) with cur := tBase (x.clearValid (.cast 0 0 0)) c false }

def tAfter (x : State) (c : Ctx) (i : Instr) : State :=
  ((tBefore x c).advance (.cast 0 0 0) false c.a 1 none (fld ((encode i).headD 0) 28 3).toNat).count ((x.clearValid (.cast 0 0 0)).vdiOf (.cast 0 0 0)) 1 1

def tWordIn (x : State) (c : Ctx) (ans : Option Held) (i : Instr) (y : State) : State :=
  y.forWord (tBase (x.clearValid (.cast 0 0 0)) c (faultsWhole i)) ans (tGw i) i

/-- What the statement StepRunsDecoded asks of a word that issues next. -/
def tIssues (x : State) (c : Ctx) (ans : Option Held) (i : Instr) : Bool :=
  let u : UnitId := .cast 0 0 0
  let r := x.clearValid u
  let code := r.code u
  let w := codeWord code 0
  let q := r.pathIssue u false c.a
  decide (c.a.pc = 0) && c.a.mstep.isNone && c.a.also.isEmpty && decide (0 < code.length / 12) && !w.getLsbD 31 && !(codeWord code 2).getLsbD 31 &&
  decide (w = (encode i).headD 0) && decide (codeWord code 1 = 0) && decide (fMaj w ≠ 3) && !r.badFetch u [tGw i] && r.vdis.all (fun e => e.2.img.codeVa.isNone) &&
  (match decode u.kind w 0 with | .ok j => decide (j = i) | .error _ => false) && decide (levelNeeded i ≤ c.a.plvl.toNat) && !badShape c q i &&
  !c.cctl.getLsbD 0 && !readsPoison c q i && !r.mayFault u c.a && !(tWordIn x c ans i (tAfter x c i)).waitsInGroup i

/-- A word that runs, one that traps, and one whose check its engine has not answered. -/
theorem test_meets_StepRunsDecoded_turn :
    let t : Turn := { unit := .cast 0 0 0, slotB := false, resume := false }
    let s := fun (c : Ctx) (i : Instr) => ({ tNext c i with issueQ := [] } : State)
    let next := fun (o : Host.Outcome State Fault Refusal) (P : State → Bool) => (match o with | .next x => P x | _ => false) = true
    let d := tRegs [(1, 1)]
    (∀ c i, (tNext c i).agenda = [] ∧ (tNext c i).issueQ = [t] ∧ (s c i).ctxs.find t.unit = some c) ∧
    ((s tCtx (.add 3 1 2)).eligible t.unit false = true ∧ tIssues (s tCtx (.add 3 1 2)) tCtx none (.add 3 1 2) = true ∧ leadsGroup (.add 3 1 2) = false ∧
      next (exec (.add 3 1 2) (tWordIn (s tCtx (.add 3 1 2)) tCtx none (.add 3 1 2) (tAfter (s tCtx (.add 3 1 2)) tCtx (.add 3 1 2))))
        (fun x => x.cur.trap.isNone && !x.matrixWaits t)) ∧
    ((s d (.lds 3 1 2 4)).eligible t.unit false = true ∧ tIssues (s d (.lds 3 1 2 4)) d none (.lds 3 1 2 4) = true ∧ leadsGroup (.lds 3 1 2 4) = false ∧
      next (exec (.lds 3 1 2 4) (tWordIn (s d (.lds 3 1 2 4)) d none (.lds 3 1 2 4) (tAfter (s d (.lds 3 1 2 4)) d (.lds 3 1 2 4)))) (fun x => x.cur.trap = some false) ∧
      next (exec (.lds 3 1 2 4) (tWordIn (s d (.lds 3 1 2 4)) d none (.lds 3 1 2 4) (tBefore (s d (.lds 3 1 2 4)) d))) (fun _ => true)) ∧
    ((s tCtx (.nestLaunch 1)).eligible t.unit false = true ∧ tIssues (s tCtx (.nestLaunch 1)) tCtx none (.nestLaunch 1) = true ∧ leadsGroup (.nestLaunch 1) = true ∧
      tCtx.a.em ≠ 0#32 ∧
      next (exec (.nestLaunch 1) (tWordIn (s tCtx (.nestLaunch 1)) tCtx none (.nestLaunch 1) (tAfter (s tCtx (.nestLaunch 1)) tCtx (.nestLaunch 1))))
        (fun x => x.cur.trap.isNone && !x.matrixWaits t) ∧
      next (exec (.nestLaunch 1) ((tBefore (s tCtx (.nestLaunch 1)) tCtx).atWord (tBase ((s tCtx (.nestLaunch 1)).clearValid t.unit) tCtx false) (tGw (.nestLaunch 1))))
        (fun x => !(x.holdersAt t).isEmpty && (x.markLead t).led t)) := by
  refine ⟨fun _ _ => ⟨rfl, rfl, rfl⟩, ?_⟩
  and_intros <;> decide +kernel

/-- A word that holds its path and runs again; one that waits for a far access. -/
theorem test_meets_StepRunsDecoded_held :
    let u : UnitId := .cast 0 0 0
    let t : Turn := { unit := u, slotB := false, resume := true }
    let on := fun (h : Held) => { tCtx with a := { tCtx.a with held := some h } }
    let s0 := fun (h : Held) => ({ tS with ctxs := [(u, on h)] } : State)
    let j : Held := { tHeld with instr := .join }
    let far : State := { s0 j with fars := [tFar] }
    let cur : Cur :=
      { turn := t, pos := 0, mstep := none, word := 0, nextPos := 4, after := 4, afterStep := none, em := BitVec.allOnes 32, fm := 0, win := (on tHeld).a.win,
        group := (s0 tHeld).stamp + 1, stamp := (s0 tHeld).stamp + 1, tag := 1, vals := none, trap := none, demote := false, late := false }
    (s0 tHeld).ctxs.find u = some (on tHeld) ∧ t.resume = true ∧ (s0 tHeld).unitRuns u = true ∧ (s0 tHeld).resumes u false (on tHeld) = true ∧
    ((on tHeld).path false).entry = none ∧ ((on tHeld).path false).held = some tHeld ∧ tHeld.leads = false ∧ heldForFar tHeld.instr = false ∧
    (match exec tHeld.instr (({ s0 tHeld with cur := cur, stamp := (s0 tHeld).stamp + 1 }).setCtx u
        ((on tHeld).setPath false { (on tHeld).a with held := none, also := [], readyAt := max (on tHeld).a.readyAt ((s0 tHeld).cycle + 1) })) with
      | .next x => decide (x.cur.trap = none) | _ => false) = true ∧
    far.ctxs.find u = some (on j) ∧ far.resumes u false (on j) = true ∧ heldForFar j.instr = true ∧ far.pathFar u (on j).a = true := by
  and_intros <;> first | decide +kernel | rfl

/-- The word that leads a group: its record is not legal, its check has no answer yet, and the place that it waits for is there. -/
theorem test_meets_StepRunsDecoded_leads :
    let u : UnitId := .cast 0 0 0
    let t : Turn := { unit := u, slotB := false, resume := true }
    let w := (encode (.nestLaunch 1)).headD 0
    let h := fun (vals : List Dword) => ({ tHeld with instr := .nestLaunch 1, word := w, nextPos := 1, after := 1, vals := vals, leads := true } : Held)
    let on := fun (vals : List Dword) => { tCtx with a := { tCtx.a with held := some (h vals) } }
    let zeros := (List.range 32).map (fun _ => (0 : Dword))
    let s := fun (vals : List Dword) => ({ tNext (on vals) (.nestLaunch 1) with issueQ := [] } : State)
    let cur : List Dword → Cur := fun vals =>
      { turn := t, pos := 0, mstep := none, word := w, nextPos := 1, after := 1, afterStep := none, em := BitVec.allOnes 32, fm := 0, win := [],
        group := (s vals).stamp + 1, stamp := (s vals).stamp + 1, tag := 1, vals := if vals = [] then none else some vals, trap := none,
        demote := false, late := false }
    let held := fun (vals : List Dword) => ({ s vals with cur := cur vals, stamp := (s vals).stamp + 1 }).setCtx u
      ((on vals).setPath false { (on vals).a with held := none, also := [], readyAt := max (on vals).a.readyAt ((s vals).cycle + 1) })
    let p1 : Path := { (on (0x40 :: 1 :: zeros)).a with held := none, also := [] }
    let c1 := (on (0x40 :: 1 :: zeros)).setPath false p1
    let s1 := (s (0x40 :: 1 :: zeros)).setCtx u c1
    let next := fun (o : Host.Outcome State Fault Refusal) (P : State → Bool) => (match o with | .next x => P x | _ => false) = true
    (∀ vals ∈ [[0x41, 1], [0x40], 0x40 :: 1 :: zeros], (s vals).ctxs.find u = some (on vals) ∧ (s vals).unitRuns u = true ∧ (s vals).resumes u false (on vals) = true ∧
      (h vals).leads = true) ∧
    next (exec (.nestLaunch 1) (held [0x41, 1])) (fun x => decide (x.cur.trap = some false)) ∧
    next (exec (.nestLaunch 1) (held [0x40])) (fun x => x.cur.trap.isNone && (x.holdersAt t).any (fun k => !k.answered)) ∧
    next (exec (.nestLaunch 1) (held (0x40 :: 1 :: zeros))) (fun x => x.cur.trap.isNone && (x.holdersAt t).all (fun k => k.answered)) ∧
    s1.groupHeld u c1 (s1.pathIssue u false p1) p1 (s1.nextWords u false c1) = false ∧ s1.mayFault u p1 = false ∧
    tIssues s1 c1 (some (h (0x40 :: 1 :: zeros))) (.nestLaunch 1) = true ∧
    next (exec (.nestLaunch 1) (tWordIn s1 c1 (some (h (0x40 :: 1 :: zeros))) (.nestLaunch 1) (tAfter s1 c1 (.nestLaunch 1))))
      (fun x => x.cur.trap.isNone && !x.matrixWaits t) := by
  and_intros <;> decide +kernel

/-- The last word of the instruction store, a compressed one in its last two bytes and a full one before its end. -/
theorem test_meets_StepRunsDecoded_stagehand :
    let h := fun (pc : Word) (w : Word) => ({ tHand with pc := pc, instrs := Memory.putWord [] pc.toNat w } : Hand)
    let s := fun (pc : Word) (w : Word) => ({ tS with hands := [(.rigger 0 0, h pc w)] } : State)
    (∀ pc w, (s pc w).ctxs.find (.rigger 0 0) = none ∧ (s pc w).hands.find (.rigger 0 0) = some (h pc w) ∧ (h pc w).started = true ∧ (h pc w).exited = false ∧
      (h pc w).held = none) ∧
    0x7FFE + (if fld ((h 0x7FFE 1).instrs.word 0x7FFE) 0 2 = 3#2 then 4 else 2) ≤ 0x8000 ∧
    0x7FFC + (if fld ((h 0x7FFC 0x13).instrs.word 0x7FFC) 0 2 = 3#2 then 4 else 2) ≤ 0x8000 := by
  intro h s
  exact ⟨fun pc w => ⟨rfl, rfl, rfl, rfl, rfl⟩, by decide +kernel, by decide +kernel⟩

/-- The hypotheses of `Obligations.IssueExceptions` on a cast at level `n`, whose handler is that of level `l`, with `w` to issue. -/
def tMeets (n : BitVec 2) (l w : Nat) : Bool :=
  let u : UnitId := .cast 0 0 0
  let s := tTurn n w
  let s0 : State := { s with issueQ := [] }
  let r := s0.clearValid u
  let c := tLvl n tCtx
  let p := c.path false
  let code := r.code u
  decide (s.agenda = []) && decide (s.issueQ = [{ unit := u, slotB := false, resume := false }]) && decide (s0.ctxs.find u = some c) && s0.eligible u false &&
    decide (p.mstep = none) && decide (p.pc % 4 < 3) && decide (p.pc / 4 < code.length / 12) && decide ((codeWord code p.pc).getLsbD 31 = false) &&
    decide ((codeWord code (4 * (p.pc / 4) + 2)).getLsbD 31 = false) && decide (fMaj (codeWord code p.pc) = 3 → p.pc % 4 ≠ 2) && decide (tVdi.badCode = []) && tVdi.img.codeVa.isNone &&
    !r.mayFault u p && decide (p.plvl = 0#2 ∧ l = 1 ∨ p.plvl = 1#2 ∧ l = 2) && decide ((c.levelRegs l).busy = none) &&
    decide ((codeWord code p.pc).toNat = w)

/-- For each cause a word of the first of two levels, and for a privileged one a word of each: ERET at level 0 and HALT at level 1. -/
theorem test_meets_IssueExceptions :
    tMeets 0 1 0x02800000 = true ∧ tMeets 1 2 0x02800000 = true ∧ decode .cast 0x02800000 0 = .error .unassignedMajor ∧
    tMeets 0 1 2 = true ∧ decode .cast 2 0 = .error .reserved ∧
    tMeets 0 1 0x0F030422 = true ∧ decode .cast 0x0F030422 0 = .error .cueMisuse ∧ tMeets 0 1 0x0F8001F3 = true ∧
    decode .cast 0x0F8001F3 0 = .error .illegalMajor ∧ tMeets 0 1 0x0FC0005F = true ∧ decode .cast 0x0FC0005F 0 = .ok (.pool 5) ∧
    tMeets 0 1 0x0FC00001 = true ∧ decode .cast 0x0FC00001 0 = .ok .eret ∧ (0#2).toNat < levelNeeded .eret ∧
    tMeets 1 2 0x0FC0000C = true ∧ decode .cast 0x0FC0000C 0 = .ok .halt ∧ (1#2).toNat < levelNeeded .halt := by
  and_intros <;> decide +kernel

/-- The first step after reset. -/
theorem test_meets_StepKeepsCanonical : State.reset.canonical ∧ ∃ t, step State.reset = .next t := ⟨by unfold State.canonical; decide +kernel, _, rfl⟩

/-- A memory of two bytes, one of them written again as the unlisted byte; it and one written in the other order read alike. -/
theorem test_meets_MemoryReads :
    let m := Memory.putBytes [] 7 [1, 2]
    let k := Memory.putBytes (Memory.putBytes [] 8 [2]) 7 [1]
    m.wf = true ∧ k.wf = true ∧ (∀ x, m.read x = k.read x) ∧ (m.putBytes 8 [0]).wf = true := by
  intro m k
  refine ⟨by decide, by decide, fun x => ?_, by decide⟩
  have e : m = k := by decide
  rw [e]

/-- An instance of each half: `add s3, s1, s2` with every C and STALL, a two-word constant, an Xstage word, and a word that decodes. -/
theorem test_meets_RoundTrip :
    (∀ n : Fin 16, encode (.add 3 1 2) = [0x01030420] ∧ (Instr.add 3 1 2).wf .cast = true ∧ (Instr.add 3 1 2).isXstage = false ∧
      majorExecuted .cast 0x01030420 = true ∧ decode .cast (framed (n.val / 8 == 1) (BitVec.ofNat 3 n.val) 0x01030420) 0 = .ok (.add 3 1 2)) ∧
    encode (.limmN32 5 0x3F800000) = [0x00C50001, 0x3F800000] ∧ (Instr.limmN32 5 0x3F800000).wf .cast = true ∧ majorExecuted .cast 0x00C50001 = true ∧
    encode (.pool 5) = [0x0FC0005F] ∧ (Instr.pool 5).wf .cast = true ∧ (Instr.xwait 11).isXstage = true ∧ encode (.xwait 11) = [0x0005B00B] := by
  decide +kernel

/-! ### Single steps, with results by hand from the rules named -/

/-- Scalar registers after one word with s1 and s2 given, and cf. -/
def tScalar (a b : Dword) (w : Nat) (d : Nat) : Option (Dword × Bool) :=
  (tRun (tRegs [(1, a), (2, b)]) w).map (fun c => (c.s[d]?.getD 0, c.a.cf))

/-- R166: a sum past 2^64 wraps and sets cf. -/
theorem test_add_carry : tScalar 0xFFFFFFFFFFFFFFFF 2 0x01030420 3 = some (1, true) := by decide +kernel
/-- R166: the destination is also both sources. -/
theorem test_add_same : tScalar 5 0 0x01010410 1 = some (10, false) := by decide +kernel
/-- R166: a borrow sets cf. -/
theorem test_sub_borrow : tScalar 1 2 0x01030421 3 = some (0xFFFFFFFFFFFFFFFF, true) := by decide +kernel
/-- R167: a divisor of 0. -/
theorem test_div_zero : tScalar 7 0 0x01830423 3 = some (0xFFFFFFFFFFFFFFFF, false) := by decide +kernel
/-- R167: the least number by −1. -/
theorem test_div_overflow : tScalar 0x8000000000000000 0xFFFFFFFFFFFFFFFF 0x01830423 3 = some (0x8000000000000000, false) := by decide +kernel
/-- R167: a quotient is rounded toward zero, so the remainder has the sign of the dividend: −7 = −2 × 3 − 1. -/
theorem test_rem_sign : tScalar (-7) 3 0x01830425 3 = some (-1, false) := by decide +kernel
/-- R167: the high half of −1 × 2 as signed numbers is −1, as unsigned numbers 1. -/
theorem test_mulh_sign : (tScalar (-1) 2 0x01830421 3, tScalar (-1) 2 0x01830422 3) = (some (-1, false), some (1, false)) := by decide +kernel
/-- R166: an arithmetic shift fills with the sign. -/
theorem test_sra_sign : tScalar (-8) 1 0x01030428 3 = some (-4, false) := by decide +kernel

/-- Lanes of v3 after one word with v1 = 0, 1, 2, … and v2 = `b` in every lane. -/
def tVector (b : Word) (w l : Nat) : Option Word :=
  (tRun { tCtx with v := (tCtx.v.setIfInBounds 1 (.aff 0 1)).setIfInBounds 2 (.uni b) } w).map (fun c => (c.vreg 3).lane l)

/-- R187: each lane adds modulo 2^32. -/
theorem test_vadd_lanes : (tVector 0xFFFFFFFF 0x06030420 0, tVector 0xFFFFFFFF 0x06030420 31) = (some 0xFFFFFFFF, some 30) := by decide +kernel
/-- R191, FP32: 1 + 2 = 3, and twice the largest finite number is infinity. -/
theorem test_vfadd : (((tRun { tCtx with v := (tCtx.v.setIfInBounds 1 (.uni 0x3F800000)).setIfInBounds 2 (.uni 0x40000000) } 0x07030420).map (fun c => (c.vreg 3).lane 9)),
    ((tRun { tCtx with v := (tCtx.v.setIfInBounds 1 (.uni 0x7F7FFFFF)).setIfInBounds 2 (.uni 0x7F7FFFFF) } 0x07030420).map (fun c => (c.vreg 3).lane 0))) =
    (some 0x40400000, some 0x7F800000) := by decide +kernel

/-- R156, R244, R245: ERET at level 0 is a PrivViolation of the supervisor's level, with the word as its value and its position to resume. -/
theorem test_eret_level : (match step (tTurn 0 0x0FC00001) with
    | .next t => (t.ctxs.find (.cast 0 0 0)).map (fun (c : Ctx) => (c.sup.cause.toNat % 256, c.sup.epc, c.sup.tval, c.sup.em))
    | _ => none) = some (5, 0, 0x0FC00001, 0xFFFFFFFF) := by decide +kernel

/-- R260, RISC-V: `addi x1, x0, 5`, of the stagehand whose turn it is. -/
theorem test_addi : (
    let s : State := { tS with hands := [(.rigger 0 0, { tHand with instrs := Memory.putWord [] 0 0x00500093 })] }
    match step { s with issueQ := [{ unit := .rigger 0 0, slotB := false, resume := false }] } with
    | .next t => (t.hands.find (.rigger 0 0)).map (fun (h : Hand) => (h.reg 1, h.pc))
    | _ => none) = some (5, 4) := by decide +kernel

/-- R301: in a microsecond one placed quadrant takes 1 from its tenant's time budget. -/
theorem test_budget_tick : (match step ({ tS with agenda := [{ kind := .budgetTick }] } : State) with
    | .next t => (t.vdis.find 0).map (fun (v : Vdi) => v.timeBudget)
    | _ => none) = some 999 := by decide +kernel
end

section
/-! What the decoder answers, and the form that an accepted word of major 0x06 has (R150, R154). -/

namespace Sys2Proof

/-- What a unit's decoder accepts is what the word parses as, and it is well formed for the unit. -/
theorem parse_and_wf_of_decode {k : Kind} {w nxt : Word} {i : Instr} (h : decode k w nxt = .ok i) :
    parse w nxt = some i ∧ i.wf k = true := by
  unfold decode at h
  split at h
  · cases h
  · split at h
    · cases h
    · split at h
      · cases h
      · rename_i j hp
        split at h
        · rename_i ha
          cases h
          unfold accept at ha
          exact ⟨hp, (Bool.and_eq_true_iff.mp ha).2⟩
        · cases h

/-- A word of an executed major that parses as nothing is reserved (R154). -/
theorem decode_reserved_of_parse_none {k : Kind} {w nxt : Word} (ha : majorAssigned (fMaj w) = true)
    (hk : majorExecuted k w = true) (hp : parse w nxt = none) : decode k w nxt = .error .reserved := by
  simp [decode, ha, hk, hp]

/-- The register fields of a well-formed word lie in S space (R147). -/
theorem Instr.wf_scalar_spaces {k : Kind} {i : Instr} (h : i.wf k = true) :
    (∀ r ∈ i.uses.sr, sSource k r = true) ∧ ∀ r ∈ i.uses.sw, sDest k r = true := by
  simp only [Instr.wf, Bool.and_eq_true, List.all_eq_true] at h
  obtain ⟨⟨⟨hsr, hsw⟩, _⟩, _⟩ := h
  exact ⟨hsr, hsw⟩

theorem parse_of_maj_06 {w nxt : Word} (h : fMaj w = 6) : parse w nxt = parse06 w := by
  simp only [parse, h]

theorem parse_of_maj_12 {w nxt : Word} (h : fMaj w = 0x12) : parse w nxt = parse12 w := by
  simp only [parse, h]

/-- Each word of major 0x06 writes d and reads a and b (R150). -/
theorem parse06_uses {w : Word} {i : Instr} (h : parse06 w = some i) :
    i.uses.sw = [fld w 16 6] ∧ i.uses.sr = [fld w 10 6, fld w 4 6] := by
  unfold parse06 at h
  split at h
  case h_8 => cases h
  all_goals
    cases h
    exact ⟨rfl, rfl⟩

theorem parse06_eq_none {w : Word} (h : 7 ≤ (fld w 0 4).toNat) : parse06 w = none := by
  unfold parse06
  split
  case h_8 => rfl
  all_goals omega

theorem parse12_eq_none {w : Word} (h : fld w 20 2 = 3#2) : parse12 w = none := by
  simp [parse12, h]

end Sys2Proof
end

section
/-! The values of the multiply and divide words, by the integers that their operands stand for (R167). -/

namespace Sys2Proof.Machine

theorem mul_eq_ofNat (x y : Dword) : x * y = BitVec.ofNat 64 (x.toNat * y.toNat) := by
  rw [BitVec.ofNat_mul, BitVec.ofNat_toNat, BitVec.ofNat_toNat, BitVec.setWidth_eq, BitVec.setWidth_eq]

/-- The upper half of a 128-bit number is its quotient by 2^64, rounded down. -/
theorem upperHalf_ofInt (z : Int) : ((BitVec.ofInt 128 z) >>> 64).setWidth 64 = BitVec.ofInt 64 (z / 2 ^ 64) := by
  apply BitVec.eq_of_toNat_eq
  simp only [BitVec.toNat_setWidth, BitVec.toNat_ushiftRight, BitVec.toNat_ofInt, Nat.shiftRight_eq_div_pow]
  omega

theorem mulh_eq_ofInt (x y : Dword) :
    ((x.signExtend 128 * y.signExtend 128) >>> 64).setWidth 64 = BitVec.ofInt 64 (x.toInt * y.toInt / 2 ^ 64) := by
  have hp : x.signExtend 128 * y.signExtend 128 = BitVec.ofInt 128 (x.toInt * y.toInt) := (BitVec.ofInt_mul ..).symm
  rw [hp, upperHalf_ofInt]

theorem mulhu_eq_ofNat (x y : Dword) :
    ((x.setWidth 128 * y.setWidth 128) >>> 64).setWidth 64 = BitVec.ofNat 64 (x.toNat * y.toNat / 2 ^ 64) := by
  have hp : x.setWidth 128 * y.setWidth 128 = BitVec.ofInt 128 (x.toNat * y.toNat : Nat) := by
    rw [BitVec.ofInt_natCast, BitVec.ofNat_mul, BitVec.ofNat_toNat, BitVec.ofNat_toNat]
  rw [hp, upperHalf_ofInt, ← BitVec.ofInt_natCast]
  rfl

/-! ### A divisor of 0 (R100) -/

theorem divS_zero (x : Dword) : divS x 0#64 = 0xFFFFFFFFFFFFFFFF#64 := if_pos rfl

theorem divU_zero (x : Dword) : divU x 0#64 = 0xFFFFFFFFFFFFFFFF#64 := if_pos rfl

theorem remS_zero (x : Dword) : remS x 0#64 = x := if_pos rfl

theorem remU_zero (x : Dword) : remU x 0#64 = x := if_pos rfl

/-! ### Any other divisor -/

theorem divS_of_ne {x y : Dword} (h : y ≠ 0#64) : divS x y = BitVec.ofInt 64 (x.toInt.tdiv y.toInt) := if_neg h

theorem divU_of_ne {x y : Dword} (h : y ≠ 0#64) : divU x y = BitVec.ofNat 64 (x.toNat / y.toNat) := if_neg h

/-- The remainder is what the truncated quotient leaves of the dividend. -/
theorem remS_of_ne {x y : Dword} (h : y ≠ 0#64) :
    remS x y = BitVec.ofInt 64 (x.toInt - y.toInt * x.toInt.tdiv y.toInt) := by
  rw [← Int.tmod_def]
  exact if_neg h

theorem remU_of_ne {x y : Dword} (h : y ≠ 0#64) : remU x y = BitVec.ofNat 64 (x.toNat % y.toNat) := if_neg h

/-! ### The overflowing quotient (R100) -/

theorem ne_zero_of_toInt_eq_neg_one {y : Dword} (h : y.toInt = -1) : y ≠ 0#64 := by
  rintro rfl
  cases h

theorem divS_overflow {x y : Dword} (hx : x.toInt = -2 ^ 63) (hy : y.toInt = -1) : divS x y = 0x8000000000000000#64 := by
  rw [divS_of_ne (ne_zero_of_toInt_eq_neg_one hy), hx, hy]
  rfl

theorem remS_overflow {x y : Dword} (hx : x.toInt = -2 ^ 63) (hy : y.toInt = -1) : remS x y = 0#64 := by
  rw [remS_of_ne (ne_zero_of_toInt_eq_neg_one hy), hx, hy]
  rfl

/-! ### The words of major 0x06 -/

/-- A word of two sources whose function gives `z` on the values that it reads. -/
theorem scalar2_gives_value {s : State} {c : Ctx} {j : Instr} {d a b : Reg} {f : Dword → Dword → Dword} {z : Dword}
    (h : s.issuing c) (he : exec j s = scalar2 f d a b s) (hf : f (c.rdS s.issue a) (c.rdS s.issue b) = z) :
    s.givesScalar c j 1 d z (s.here c).cf :=
  hf ▸ scalar2_gives h he

/-- Settles O2: each word is a two-source word whose function has the value stated, and what the decoder accepts of major
0x06 is well formed. -/
theorem scalarMultiplyDivide : Obligations.ScalarMultiplyDivide := by
  refine ⟨fun s c d a b h => ?_, fun w nxt hm => ⟨fun hf => ?_, fun i hi => ?_⟩⟩
  · intro x y k
    refine ⟨scalar2_gives_value h exec_mul (mul_eq_ofNat x y), scalar2_gives_value h exec_mulh (mulh_eq_ofInt x y),
      scalar2_gives_value h exec_mulhu (mulhu_eq_ofNat x y), fun h0 => ?_, fun hx hy => ?_, fun h0 => ?_⟩
    · have hb : c.rdS s.issue b = 0#64 := h0
      exact ⟨scalar2_gives_value h exec_div (hb ▸ divS_zero x), scalar2_gives_value h exec_divu (hb ▸ divU_zero x),
        scalar2_gives_value h exec_rem (hb ▸ remS_zero x), scalar2_gives_value h exec_remu (hb ▸ remU_zero x)⟩
    · exact ⟨scalar2_gives_value h exec_div (divS_overflow hx hy), scalar2_gives_value h exec_rem (remS_overflow hx hy)⟩
    · exact ⟨scalar2_gives_value h exec_div (divS_of_ne h0), scalar2_gives_value h exec_divu (divU_of_ne h0),
        scalar2_gives_value h exec_rem (remS_of_ne h0), scalar2_gives_value h exec_remu (remU_of_ne h0)⟩
  · exact decode_reserved_of_parse_none (by rw [hm]; rfl) (by simp [majorExecuted, hm])
      ((parse_of_maj_06 hm).trans (parse06_eq_none hf))
  · obtain ⟨hp, hw⟩ := parse_and_wf_of_decode hi
    obtain ⟨hsw, hsr⟩ := parse06_uses ((parse_of_maj_06 hm).symm.trans hp)
    obtain ⟨hsource, hdest⟩ := Instr.wf_scalar_spaces hw
    rw [hsr] at hsource
    rw [hsw] at hdest
    exact ⟨hsw, hsr, hdest _ (by simp), hsource _ (by simp), hsource _ (by simp)⟩

end Sys2Proof.Machine
end

section
/-! SEL (R170). -/

namespace Sys2Proof.Machine

/-- SEL writes the source that its test chooses. -/
theorem sel_gives {s : State} {c : Ctx} {d a b : Reg} {q : BitVec 4} (h : s.issuing c) :
    s.givesScalar c (.sel d a b q) 1 d
      (if c.rdS s.issue (q.setWidth 6) ≠ 0#64 then c.rdS s.issue a else c.rdS s.issue b) (s.here c).cf :=
  State.givesScalar_of h exec_sel (Ctx.wrS_result ..)

/-- Settles O4: the two outcomes of SEL's test. -/
theorem selectRule : Obligations.SelectRule := by
  intro s c d a b q h x
  have hx : x = c.rdS s.issue (q.setWidth 6) := by rw [← BitVec.ofNat_toNat]
  have hg := sel_gives (d := d) (a := a) (b := b) (q := q) h
  rw [← hx] at hg
  exact ⟨fun h1 => by rwa [if_pos h1] at hg, fun h0 => by rwa [if_neg (not_not_intro h0)] at hg⟩

end Sys2Proof.Machine
end

section
/-! The conditional branches (R173, R174). -/

namespace Sys2Proof.Machine

variable {s : State} {c : Ctx} {j : Instr} {p : Prop} [Decidable p] {t : Int}

/-- A branch whose condition holds, to a packet of the code, moves the path there and changes nothing else; one whose
condition fails changes nothing. -/
theorem branchIf_tests (h : s.issuing c) (he : exec j s = .next (if p then s.branchTo t else s)) :
    (p → 0 ≤ t → t < codePackets (s.code s.unit) → s.givesPath c j { s.here c with pc := 4 * t.toNat, mstep := none }) ∧
      (¬ p → exec j s = .next s) := by
  refine ⟨fun hp h0 h1 => ⟨c.undo, ?_⟩, fun hp => ?_⟩
  · rw [he, if_pos hp, State.branchTo_in h h0 h1]
  · rw [he, if_neg hp]

/-- A word that acts on its unit's registers alone leaves the turn at hand, with the mask that its group
reads, as it is. -/
theorem State.onCur_cur {f : Issue → Ctx → Ctx} {u : State} (h : s.issuing c) (hu : s.onCur f = .next u) : u.cur = s.cur := by
  rw [State.onCur_next h] at hu
  cases hu
  exact State.setCtx_cur ..

/-- Settles O14: each branch is its condition's choice between the branch and the state as it is; BRM reads em of the
issue, which SETEM, a word on the unit's registers alone, does not reach. -/
theorem conditionalBranches : Obligations.ConditionalBranches := by
  refine ⟨fun s c h => ⟨fun a o => ⟨?_, ?_⟩, fun o => ⟨?_, ?_, ?_⟩, fun a u hu => ?_⟩, fun w nxt hm hf => ?_⟩
  · exact branchIf_tests h (exec_brcNz.trans (State.withCur_next h _))
  · exact branchIf_tests h (exec_brcZ.trans (State.withCur_next h _))
  · exact branchIf_tests h (exec_brmNone.trans (State.withCur_next h _))
  · exact branchIf_tests h (exec_brmAny.trans (State.withCur_next h _))
  · exact branchIf_tests h (exec_brmAll.trans (State.withCur_next h _))
  · rw [State.onCur_cur h (exec_setem.symm.trans hu)]
  · exact decode_reserved_of_parse_none (by rw [hm]; rfl) (by simp [majorExecuted, hm])
      ((parse_of_maj_12 hm).trans (parse12_eq_none hf))

end Sys2Proof.Machine
end
